-- ==== Sys2Proof/Word.lean ====
section
/-! DEFINITION. The machine word types and the plain list and byte helpers every layer uses (R3: little-endian). -/
namespace Sys2Proof

/-- A register word (R85). -/
abbrev Word := BitVec 32
/-- A 64-bit value: a register pair, an address, a program counter. -/
abbrev DWord := BitVec 64
/-- A byte of memory. -/
abbrev Byte := BitVec 8
/-- A general register number x0 to x63 (R85). -/
abbrev XReg := Fin 64
/-- A register number read from a five-bit field: x0 to x31 (R338) or s0 to s31 (R85). -/
abbrev YReg := Fin 32
/-- A predicate number p0 to p7 (R85). -/
abbrev PReg := Fin 8

/-- The little-endian bytes of `v`, `n` of them (R3). -/
def bytesLE : Nat → Nat → List Byte
  | 0, _ => []
  | n + 1, v => BitVec.ofNat 8 v :: bytesLE n (v / 256)

/-- The natural value of little-endian bytes (R3). -/
def natLE : List Byte → Nat
  | [] => 0
  | b :: bs => b.toNat + 256 * natLE bs

end Sys2Proof
end

