-- ==== Sys2Proof/Machine/Num.lean ====
section
/-! DEFINITION. Floating point, bit for bit (05_numbers.md R112 to R122, R126, R127): a format, the exact value of its codes, and one
rounding of an exact dyadic value into a format. A value that is not dyadic enters as a dyadic one with a sticky last bit. -/
namespace Sys2Proof.Num

/-- Which codes of a format are not finite (R112, R124). -/
inductive Special where
  | ieee | e4m3 | finite
  deriving DecidableEq, Repr

/-- A binary format: exponent bits, fraction bits, special codes. The bias is 2^(eb-1) - 1 in every format of R112 and R124. -/
structure Fmt where
  eb : Nat
  mb : Nat
  sp : Special := .ieee
  deriving DecidableEq, Repr

def fp32 : Fmt := { eb := 8, mb := 23 }
def fp16 : Fmt := { eb := 5, mb := 10 }
def bf16 : Fmt := { eb := 8, mb := 7 }
def fp64 : Fmt := { eb := 11, mb := 52 }
def w56 : Fmt := { eb := 10, mb := 45 }
def e4m3 : Fmt := { eb := 4, mb := 3, sp := .e4m3 }
def e5m2 : Fmt := { eb := 5, mb := 2 }
def e2m3 : Fmt := { eb := 2, mb := 3, sp := .finite }
def e3m2 : Fmt := { eb := 3, mb := 2, sp := .finite }
def e2m1 : Fmt := { eb := 2, mb := 1, sp := .finite }

def Fmt.bias (f : Fmt) : Int := 2 ^ (f.eb - 1) - 1
/-- The exponent of the least significant bit of a subnormal. -/
def Fmt.qmin (f : Fmt) : Int := 1 - f.bias - f.mb
/-- The sign bit's weight. -/
def Fmt.signBit (f : Fmt) : Nat := 2 ^ (f.eb + f.mb)
/-- The magnitude code of infinity, where the format has one. -/
def Fmt.infMag (f : Fmt) : Nat := (2 ^ f.eb - 1) * 2 ^ f.mb
/-- The magnitude code of the largest finite value (R112, R124). -/
def Fmt.maxMag (f : Fmt) : Nat :=
  match f.sp with
  | .ieee => f.infMag - 1
  | .e4m3 => 2 ^ (f.eb + f.mb) - 2
  | .finite => 2 ^ (f.eb + f.mb) - 1
/-- The canonical NaN (R112, R124); +0 where the format has none (R127). -/
def Fmt.canonNan (f : Fmt) : Nat :=
  match f.sp with
  | .ieee => f.infMag + 2 ^ (f.mb - 1)
  | .e4m3 => 2 ^ (f.eb + f.mb) - 1
  | .finite => 0

/-- An exact value: NaN, infinity, or ±m × 2^e. -/
inductive Val where
  | nan (signalling : Bool)
  | inf (neg : Bool)
  | fin (neg : Bool) (m : Nat) (e : Int)
  deriving DecidableEq, Repr

/-- The exact value of a code (R112, R113, R124). -/
def decodeVal (f : Fmt) (bits : Nat) : Val :=
  let neg := bits / f.signBit % 2 == 1
  let mag := bits % f.signBit
  let ex := mag / 2 ^ f.mb
  let fr := mag % 2 ^ f.mb
  if f.sp == .ieee && ex == 2 ^ f.eb - 1 then
    (if fr == 0 then .inf neg else .nan (fr / 2 ^ (f.mb - 1) == 0))
  else if f.sp == .e4m3 && mag == 2 ^ (f.eb + f.mb) - 1 then .nan false
  else if ex == 0 then .fin neg fr f.qmin
  else .fin neg (2 ^ f.mb + fr) (f.qmin + ex - 1)

/-- FSTAT flags (R108). -/
def fInvalid : Nat := 1
def fDivzero : Nat := 2
def fOverflow : Nat := 4
def fUnderflow : Nat := 8
def fInexact : Nat := 16

/-- The rounding modes of R115; `sr` carries its 16 random bits (R120). -/
inductive RMode where
  | rne | rz | ru | rd
  | sr (rnd : Nat)
  deriving DecidableEq, Repr

/-- The mode of a two-bit field (R115). -/
def RMode.ofField (n : Nat) : RMode := match n with | 0 => .rne | 1 => .rz | 2 => .ru | _ => .rd

/-- Whether a discarded remainder r of 2^sh rounds the magnitude n up. -/
def roundsUp (mode : RMode) (neg : Bool) (n r sh : Nat) : Bool :=
  match mode with
  | .rne => 2 * r > 2 ^ sh || (2 * r == 2 ^ sh && n % 2 == 1)
  | .rz => false
  | .ru => r != 0 && !neg
  | .rd => r != 0 && neg
  | .sr rnd => r != 0 && 65536 ≤ r * 65536 / 2 ^ sh + rnd

/-- m × 2^e as a multiple of 2^q: the rounded magnitude, and whether it is inexact. -/
def roundAt (mode : RMode) (neg : Bool) (m : Nat) (e q : Int) : Nat × Bool :=
  if q ≤ e then (m * 2 ^ (e - q).toNat, false)
  else
    let sh := (q - e).toNat
    let n := m / 2 ^ sh
    let r := m % 2 ^ sh
    (if roundsUp mode neg n r sh then n + 1 else n, r != 0)

/-- The overflow of a mode goes to infinity (R115); SR acts as RZ (R120). -/
def overflowsToInf (mode : RMode) (neg : Bool) : Bool :=
  match mode with
  | .rne => true | .rz => false | .ru => !neg | .rd => neg | .sr _ => false

/-- How a result is finished: the mode, FTZ on the result (R114), and the saturation of R117 for conversions. -/
structure Finish where
  mode : RMode := .rne
  ftz : Bool := false
  satConv : Bool := false
  deriving DecidableEq, Repr

/-- ±m × 2^e rounded once into a format: the code without its sign, and the flags (R115, R116, R117, R127). -/
def roundMag (f : Fmt) (c : Finish) (neg : Bool) (m : Nat) (e : Int) : Nat × Nat :=
  if m == 0 then (0, 0)
  else
    let ex := e + Nat.log2 m
    let q := max (ex - f.mb) f.qmin
    let (n, inexact) := roundAt c.mode neg m e q
    let mag := n + (q - f.qmin).toNat * 2 ^ f.mb
    if f.maxMag < mag then
      if c.satConv then (f.maxMag, fInexact)
      else if overflowsToInf c.mode neg then
        (match f.sp with | .ieee => f.infMag | .e4m3 => f.canonNan | .finite => f.maxMag, fOverflow + fInexact)
      else (f.maxMag, fOverflow + fInexact)
    else
      let (n', _) := roundAt c.mode neg m e (ex - f.mb)
      let tiny := ex - f.mb < f.qmin && !(n' == 2 ^ (f.mb + 1) && ex - f.mb + 1 == f.qmin)
      if c.ftz && 0 < mag && mag < 2 ^ f.mb then (0, fUnderflow + fInexact)
      else (mag, (if inexact then fInexact else 0) + (if inexact && tiny then fUnderflow else 0))

/-- A sign and a magnitude code. -/
def withSign (f : Fmt) (neg : Bool) (mag : Nat) : Nat := if neg then f.signBit + mag else mag

/-- A value rounded once into a format (R113, R115, R127): the code and the flags, INVALID of a NaN excepted. -/
def finish (f : Fmt) (c : Finish) : Val → Nat × Nat
  | .nan _ => (f.canonNan, if f.sp == .finite then fInvalid else 0)
  | .inf neg =>
    match f.sp with
    | .ieee => (withSign f neg (if c.satConv then f.maxMag else f.infMag), 0)
    | .e4m3 => (withSign f neg (if c.satConv then f.maxMag else f.canonNan), if c.satConv then 0 else fInvalid)
    | .finite => (withSign f neg f.maxMag, if c.satConv then 0 else fInvalid)
  | .fin neg m e =>
    let (mag, fl) := roundMag f c neg m e
    (withSign f neg mag, fl)

/-- An input of FP32, FP16 or BF16 read with FTZ (R114), and INVALID for a signalling NaN (R113). -/
def input (f : Fmt) (ftz : Bool) (bits : Nat) : Val × Nat :=
  match decodeVal f bits with
  | .nan s => (.nan s, if s then fInvalid else 0)
  | .fin neg m e => (if ftz && m < 2 ^ f.mb && e == f.qmin then .fin neg 0 f.qmin else .fin neg m e, 0)
  | v => (v, 0)

/-- The exact sum (R118): an exact zero of opposite signs is +0, under RD -0 (R400). -/
def addVal (mode : RMode) : Val → Val → Val × Nat
  | .nan _, _ => (.nan false, 0)
  | _, .nan _ => (.nan false, 0)
  | .inf a, .inf b => if a == b then (.inf a, 0) else (.nan false, fInvalid)
  | .inf a, .fin .. => (.inf a, 0)
  | .fin .., .inf b => (.inf b, 0)
  | .fin na ma ea, .fin nb mb eb =>
    let e := min ea eb
    let x : Int := ma * 2 ^ (ea - e).toNat
    let y : Int := mb * 2 ^ (eb - e).toNat
    let v := (if na then -x else x) + (if nb then -y else y)
    if v == 0 then (.fin (if ma == 0 && mb == 0 && na == nb then na else mode == .rd) 0 e, 0)
    else (.fin (v < 0) v.natAbs e, 0)

/-- The exact product (R118). -/
def mulVal : Val → Val → Val × Nat
  | .nan _, _ => (.nan false, 0)
  | _, .nan _ => (.nan false, 0)
  | .inf a, .inf b => (.inf (a != b), 0)
  | .inf a, .fin b m _ => if m == 0 then (.nan false, fInvalid) else (.inf (a != b), 0)
  | .fin a m _, .inf b => if m == 0 then (.nan false, fInvalid) else (.inf (a != b), 0)
  | .fin a m e, .fin b n g => (.fin (a != b) (m * n) (e + g), 0)

def negVal : Val → Val
  | .nan s => .nan s
  | .inf a => .inf (!a)
  | .fin a m e => .fin (!a) m e

/-- The clamp of a rounded result to [+0.0, 1.0], a NaN to +0.0 (R117). -/
def clamp01 (f : Fmt) (bits : Nat) : Nat :=
  match decodeVal f bits with
  | .nan _ => 0
  | .inf neg => if neg then 0 else f.bias.toNat * 2 ^ f.mb
  | .fin neg m _ => if neg || m == 0 then 0 else min bits (f.bias.toNat * 2 ^ f.mb)

/-- The modifiers of a float operation: mode, FTZ, SAT (R373). -/
structure FMods where
  mode : RMode := .rne
  ftz : Bool := false
  sat : Bool := false
  deriving DecidableEq, Repr

/-- A value finished as the result of an operation: rounded, flushed, clamped (R114, R115, R117). -/
def result (f : Fmt) (c : FMods) (v : Val) (flags : Nat) : Nat × Nat :=
  let (b, fl) := finish f { mode := c.mode, ftz := c.ftz } v
  (if c.sat then clamp01 f b else b, flags ||| fl)

/-- A + B in a format (R400, R401). -/
def fadd (f : Fmt) (c : FMods) (a b : Nat) : Nat × Nat :=
  let (x, fx) := input f c.ftz a
  let (y, fy) := input f c.ftz b
  let (v, fv) := addVal c.mode x y
  result f c v (fx ||| fy ||| fv)

/-- A - B in a format (R400). -/
def fsub (f : Fmt) (c : FMods) (a b : Nat) : Nat × Nat :=
  let (x, fx) := input f c.ftz a
  let (y, fy) := input f c.ftz b
  let (v, fv) := addVal c.mode x (negVal y)
  result f c v (fx ||| fy ||| fv)

/-- A × B in a format (R400, R401). -/
def fmul (f : Fmt) (c : FMods) (a b : Nat) : Nat × Nat :=
  let (x, fx) := input f c.ftz a
  let (y, fy) := input f c.ftz b
  let (v, fv) := mulVal x y
  result f c v (fx ||| fy ||| fv)

/-- A × B + C rounded once (R406, R401). -/
def ffma (f : Fmt) (c : FMods) (a b d : Nat) : Nat × Nat :=
  let (x, fx) := input f c.ftz a
  let (y, fy) := input f c.ftz b
  let (z, fz) := input f c.ftz d
  let (p, fp) := mulVal x y
  let (v, fv) := addVal c.mode p z
  result f c v (fx ||| fy ||| fz ||| fp ||| fv)

/-- Comparison of finite or infinite values: -0.0 below +0.0 only where `zeros` says so (R113, R366). -/
def ltVal (zeros : Bool) : Val → Val → Bool
  | .nan _, _ => false
  | _, .nan _ => false
  | .inf a, .inf b => a && !b
  | .inf a, .fin .. => a
  | .fin .., .inf b => !b
  | .fin na ma ea, .fin nb mb eb =>
    let e := min ea eb
    let x : Int := ma * 2 ^ (ea - e).toNat
    let y : Int := mb * 2 ^ (eb - e).toNat
    let x := if na then -x else x
    let y := if nb then -y else y
    x < y || (zeros && x == 0 && y == 0 && na && !nb)

def Val.isNan : Val → Bool
  | .nan _ => true
  | _ => false

/-- FMIN, FMAX and their `.num` forms (R113, R407). -/
def fminmax (f : Fmt) (c : FMods) (max num : Bool) (a b : Nat) : Nat × Nat :=
  let (x, fx) := input f c.ftz a
  let (y, fy) := input f c.ftz b
  let v := match x.isNan, y.isNan with
    | true, true => .nan false
    | true, false => if num then y else .nan false
    | false, true => if num then x else .nan false
    | false, false => if max then (if ltVal true x y then y else x) else (if ltVal true y x then y else x)
  result f c v (fx ||| fy)

/-- FRND: the integral value in a direction; a zero keeps the sign (R408). -/
def frnd (mode : RMode) (ftz : Bool) (a : Nat) : Nat × Nat :=
  match input fp32 ftz a with
  | (.fin neg m e, fl) =>
    let (n, inexact) := roundAt mode neg m e 0
    ((finish fp32 {} (.fin neg n 0)).1, fl ||| (if inexact && m != 0 then fInexact else 0))
  | (v, fl) => ((finish fp32 {} v).1, fl)

/-- A value as an integer of `n` bits: NaN gives 0, out of range the nearest bound, both INVALID (R118). -/
def toInt (mode : RMode) (signed : Bool) (n : Nat) (v : Val) : Nat × Nat :=
  let lo : Int := if signed then -(2 ^ (n - 1) : Nat) else 0
  let hi : Int := if signed then (2 ^ (n - 1) : Nat) - 1 else (2 ^ n : Nat) - 1
  let code (i : Int) : Nat := (i % (2 ^ n : Nat)).toNat
  match v with
  | .nan _ => (0, fInvalid)
  | .inf neg => (code (if neg then lo else hi), fInvalid)
  | .fin neg m e =>
    let (k, inexact) := roundAt mode neg m e 0
    let i : Int := if neg then -(k : Int) else k
    if i < lo then (code lo, fInvalid) else if hi < i then (code hi, fInvalid)
    else (code i, if inexact then fInexact else 0)

/-- An integer of `n` bits as a value. -/
def ofInt (signed : Bool) (n v : Nat) : Val :=
  if signed && 2 ^ (n - 1) ≤ v then .fin true (2 ^ n - v) 0 else .fin false v 0

/-- A conversion into a float format: R115, R117 and R127 (R403). NaN INVALID is set for a signalling input. -/
def toFmt (f : Fmt) (mode : RMode) (ftz sat : Bool) (v : Val) : Nat × Nat :=
  let wide := f.sp == .ieee && 16 ≤ f.eb + f.mb + 1
  let (b, fl) := finish f { mode := mode, ftz := ftz && wide, satConv := sat } v
  (b, fl ||| (match v with | .nan true => fInvalid | _ => 0))

/-- The formats of the narrow FCVT codes 0x0C to 0x10 and 0x11 to 0x15 (R368). -/
def narrowFmt (i : Nat) : Fmt :=
  match i with
  | 0 => e4m3 | 1 => e5m2 | 2 => e2m3 | 3 => e3m2 | _ => e2m1

/-- FCVT by conversion code (R368, R403): the source words joined as one natural, the result as one natural. -/
def fcvt (code : Nat) (mode : RMode) (ftz sat : Bool) (src : Nat) : Nat × Nat :=
  let from32 := input fp32 ftz (src % 2 ^ 32)
  let lift (r : Nat × Nat) (fl : Nat) : Nat × Nat := (r.1, r.2 ||| fl)
  match code with
  | 0x00 => lift (toFmt fp16 mode ftz sat from32.1) from32.2
  | 0x01 => lift (toFmt bf16 mode ftz sat from32.1) from32.2
  | 0x02 => let i := input fp16 ftz (src % 2 ^ 16); lift (toFmt fp32 .rne ftz sat i.1) i.2
  | 0x03 => let i := input bf16 ftz (src % 2 ^ 16); lift (toFmt fp32 .rne ftz sat i.1) i.2
  | 0x04 => lift (toFmt fp64 .rne false sat from32.1) from32.2
  | 0x05 => let i := input fp64 false src; lift (toFmt fp32 mode ftz sat i.1) i.2
  | 0x06 => lift (toInt mode true 32 from32.1) 0
  | 0x07 => lift (toInt mode false 32 from32.1) 0
  | 0x08 => toFmt fp32 mode ftz sat (ofInt true 32 (src % 2 ^ 32))
  | 0x09 => toFmt fp32 mode ftz sat (ofInt false 32 (src % 2 ^ 32))
  | 0x0A => lift (toInt mode true 64 from32.1) 0
  | 0x0B => toFmt fp32 mode ftz sat (ofInt true 64 src)
  | c =>
    if 0x0C ≤ c && c ≤ 0x10 then lift (toFmt (narrowFmt (c - 0x0C)) mode ftz sat from32.1) from32.2
    else
      let f := narrowFmt (c - 0x11)
      let i := input f false (src % 2 ^ (f.eb + f.mb + 1))
      lift (toFmt fp32 .rne false sat i.1) i.2

/-- FCMP by condition: the result and whether INVALID is set (R366). -/
def fcmp (cond : Nat) (ftz : Bool) (a b : Nat) : Bool × Nat :=
  let (x, fx) := input fp32 ftz a
  let (y, fy) := input fp32 ftz b
  let un := x.isNan || y.isNan
  let lt := ltVal false x y
  let gt := ltVal false y x
  let sig := if un then fInvalid else 0
  match cond with
  | 0 => (!un && !lt && !gt, fx ||| fy)
  | 1 => (un || lt || gt, fx ||| fy)
  | 2 => (lt, fx ||| fy ||| sig)
  | 3 => (!un && !gt, fx ||| fy ||| sig)
  | 4 => (gt, fx ||| fy ||| sig)
  | 5 => (!un && !lt, fx ||| fy ||| sig)
  | 6 => (un, fx ||| fy)
  | _ => (!un, fx ||| fy)

/-- c + Σ a × b exactly, rounded once (R140, R404). With opposite infinities beside a NaN, whether INVALID is set follows the order of the terms
from c on (DESIGN CHOICE, log 102). -/
def fdot (f : Fmt) (n : Nat) (c : FMods) (a b acc : Nat) : Nat × Nat :=
  let w := f.eb + f.mb + 1
  let elem (v i : Nat) : Val × Nat := input f (c.ftz && 16 ≤ w) (v / 2 ^ (w * i) % 2 ^ w)
  let (z, fz) := input fp32 c.ftz acc
  let terms := (List.range n).map fun i =>
    let (x, fx) := elem a i
    let (y, fy) := elem b i
    let (p, fp) := mulVal x y
    (p, fx ||| fy ||| fp)
  let (v, fl) := terms.foldl (fun (s, fs) (p, fp) => let (t, ft) := addVal c.mode s p; (t, fs ||| fp ||| ft)) (z, fz)
  result fp32 c v fl

/-- Maldoar's mixing function (R121). -/
def mix (seed addr : BitVec 64) (ctr : BitVec 32) : BitVec 64 :=
  let c : BitVec 64 := ctr.setWidth 64
  let z := seed ^^^ addr ^^^ ((c <<< 32) ||| c)
  let z := z ^^^ (z >>> 31)
  let z := z * 0xC3A51F8B6D29E47B#64
  let z := z ^^^ (z >>> 29)
  let z := z * 0x8F2D35C1B7E90A63#64
  z ^^^ (z >>> 32)

end Sys2Proof.Num
end

