-- ==== Sys2Proof/Machine/Formats.lean ====
section
/-! DEFINITION. The microscaling and Galja block float formats (R123 to R134): where an element and its scales stand in an 8 KiB
granule, its exact value, and its encoding under existing or chosen scales. -/
namespace Sys2Proof.Num

/-- The unscaled element format of an MX or unscaled page format code (R128); INT8 and GBF are not of this kind. -/
def elemFmt (code : Nat) : Fmt :=
  match code with
  | 1 => e4m3 | 2 => e5m2 | 3 => e2m3 | 4 => e3m2 | 5 => e2m1
  | 10 => fp16 | 11 => bf16 | 12 => e4m3 | _ => e5m2
/-- Element bits by page format code (R125, R128). -/
def elemBits (code : Nat) : Nat :=
  match code with
  | 3 | 4 | 8 => 6
  | 5 | 9 => 4
  | 10 | 11 => 16
  | _ => 8
/-- The mantissa bits M of a GBF code (R125). -/
def gbfM (code : Nat) : Nat := match code with | 7 => 6 | 8 => 4 | _ => 2
def isGbf (code : Nat) : Bool := 7 ≤ code && code ≤ 9
def isMx (code : Nat) : Bool := 1 ≤ code && code ≤ 6
/-- The capacity C of a granule (R131). -/
def capacity (code : Nat) (column : Bool) : Nat :=
  match code with
  | 1 | 2 | 6 => if column then 7168 else 7936
  | 7 => if column then 7168 else 7680
  | 10 | 11 => 4096
  | _ => 8192
/-- The block of element k (R128). -/
def blockOf (column : Bool) (k : Nat) : Nat := if column then k / 1024 * 32 + k % 32 else k / 32
/-- Where the scales begin (R131). -/
def scaleBase (code : Nat) (column : Bool) : Nat :=
  match code with
  | 3 | 4 | 8 => 6144
  | 5 | 9 => 4096
  | _ => capacity code column
/-- The granule offsets of the scale bytes of a block: the MX scale, or G and the block's header (R131). -/
def scaleAt (code : Nat) (column : Bool) (blk : Nat) : Nat × Nat :=
  let b := scaleBase code column
  if isGbf code then (b + 16 * (blk / 8), b + 16 * (blk / 8) + 1 + blk % 8) else (b + blk, b + blk)

/-- An element's bits, from the byte at each granule offset (R130, R131). -/
def elemGet (code : Nat) (byte : Nat → Nat) (k : Nat) : Nat :=
  let nib := byte (k / 2) / 16 ^ (k % 2) % 16
  match elemBits code with
  | 4 => nib
  | 6 => nib + byte (4096 + k / 4) / 4 ^ (k % 4) % 4 * 16
  | 16 => byte (2 * k) + 256 * byte (2 * k + 1)
  | _ => byte k

/-- The bytes an element's store changes, each with its new value (R130, R132). -/
def elemPut (code : Nat) (byte : Nat → Nat) (k bits : Nat) : List (Nat × Nat) :=
  let field (o w i v : Nat) : Nat × Nat :=
    let b := byte o
    (o, b - b / 2 ^ (w * i) % 2 ^ w * 2 ^ (w * i) + v % 2 ^ w * 2 ^ (w * i))
  match elemBits code with
  | 4 => [field (k / 2) 4 (k % 2) bits]
  | 6 => [field (k / 2) 4 (k % 2) bits, field (4096 + k / 4) 2 (k % 4) (bits / 16)]
  | 16 => [(2 * k, bits % 256), (2 * k + 1, bits / 256 % 256)]
  | _ => [(k, bits % 256)]

/-- An exact value scaled by a power of two. -/
def scaleVal (v : Val) (e : Int) : Val :=
  match v with
  | .fin neg m g => .fin neg m (g + e)
  | v => v

/-- The exact value of an element under its scales: the MX scale, or G and the header (R123 to R125). -/
def elemVal (code bits sa hdr : Nat) : Val :=
  if isGbf code then
    if sa == 255 then .nan false
    else
      let M := gbfM code
      let E : Int := if bits / 2 ^ (M + 1) % 2 == 1 then (hdr / 16 : Nat) else (hdr % 16 : Nat)
      .fin (bits / 2 ^ M % 2 == 1) (bits % 2 ^ M) ((sa : Int) - 127 + E - M)
  else if code == 6 then
    if sa == 255 then .nan false
    else .fin (128 ≤ bits) (if 128 ≤ bits then 256 - bits else bits) ((sa : Int) - 127 - 6)
  else if isMx code then
    if sa == 255 then .nan false else scaleVal (decodeVal (elemFmt code) bits) ((sa : Int) - 127)
  else decodeVal (elemFmt code) bits

/-- Decode to FP32: an excess magnitude is infinite (R126). -/
def elemToFp32 (code bits sa hdr : Nat) : Nat := (finish fp32 {} (elemVal code bits sa hdr)).1

/-- m × 2^e below n × 2^g. -/
def ltDyadic (m : Nat) (e : Int) (n : Nat) (g : Int) : Bool :=
  let l := min e g
  m * 2 ^ (e - l).toNat < n * 2 ^ (g - l).toNat

/-- A GBF element under G and a header (R134, R127): the selector rule, the mantissa rounded and clamped. -/
def gbfEncode (code g hdr : Nat) (v : Val) : Nat :=
  let M := gbfM code
  let top (neg : Bool) : Nat := 2 ^ (M + 1) + (if neg then 2 ^ M else 0) + (2 ^ M - 1)
  match v with
  | .nan _ => 0
  | .inf neg => top neg
  | .fin neg m e =>
    let lo : Int := (hdr % 16 : Nat)
    let hi : Int := (hdr / 16 : Nat)
    let b : Int := (g : Int) - 127
    let useLo := ltDyadic m e (2 ^ (M + 1) - 1) (b + lo - (M + 1))
    let E := b + (if useLo then lo else hi) - M
    let (n, _) := roundAt .rne neg m e E
    (if useLo then 0 else 2 ^ (M + 1)) + (if neg then 2 ^ M else 0) + min n (2 ^ M - 1)

/-- An element encoded under existing scales: RNE, saturating (R127, R132). -/
def elemEncode (code sa hdr : Nat) (v : Val) : Nat :=
  if isGbf code then (if sa == 255 then 0 else gbfEncode code sa hdr v)
  else if isMx code && sa == 255 then 0
  else
    let v := if isMx code then scaleVal v (127 - (sa : Int)) else v
    if code == 6 then
      match v with
      | .nan _ => 0
      | .inf neg => if neg then 256 - 127 else 127
      | .fin neg m e =>
        let (n, _) := roundAt .rne neg m e (-6)
        let n := min n 127
        if neg && n != 0 then 256 - n else n
    else (finish (elemFmt code) { satConv := true } v).1

/-- The exponent of the largest magnitude of a block: floor(log2 amax), none when every value is zero. -/
def amaxExp : List Val → Option Int
  | [] => none
  | .fin _ m e :: vs =>
    if m == 0 then amaxExp vs
    else match amaxExp vs with
      | none => some (e + Nat.log2 m)
      | some x => some (max x (e + Nat.log2 m))
  | _ :: vs => amaxExp vs

def Val.finite : Val → Bool
  | .fin .. => true
  | _ => false

/-- emax of an MX element format (R133). -/
def mxEmax (code : Nat) : Int := match code with | 1 => 8 | 2 => 15 | 4 => 4 | 3 => 2 | 5 => 2 | _ => 0

/-- The scale and the elements of an encoded MX block (R133). -/
def mxBlock (code : Nat) (vs : List Val) : Nat × List Nat :=
  if vs.any (fun v => !v.finite) then (255, vs.map fun _ => 0)
  else match amaxExp vs with
    | none => (0, vs.map fun _ => 0)
    | some x =>
      let ex := max (-127) (min 127 (x - mxEmax code))
      let sa := (ex + 127).toNat
      (sa, vs.map (elemEncode code sa 0))

/-- The blocks of 32 of a list. -/
def blocks32 : Nat → List Val → List (List Val)
  | 0, _ => []
  | n + 1, vs => vs.take 32 :: blocks32 n (vs.drop 32)

/-- The group scale, the eight headers and the elements of an encoded GBF group (R134). -/
def gbfGroup (code : Nat) (vs : List Val) : Nat × List Nat × List Nat :=
  let M := gbfM code
  if vs.any (fun v => !v.finite) then (255, List.replicate 8 0, vs.map fun _ => 0)
  else match amaxExp vs with
    | none => (0, List.replicate 8 0, vs.map fun _ => 0)
    | some x =>
      let gx := max (-127) (min 127 (x + 1 - 15))
      let g := (gx + 127).toNat
      let hdrs := (blocks32 8 vs).map fun b =>
        match amaxExp b with
        | none => 0
        | some y =>
          let hi := (max 0 (min 15 (y + 1 - gx))).toNat
          hi * 16 + (hi - M)
      (g, hdrs, (blocks32 8 vs).zip hdrs |>.flatMap fun (b, h) => b.map (gbfEncode code g h))

end Sys2Proof.Num
end

