-- ==== Sys2Proof/Config.lean ====
section
/-! DEFINITION. What a package fixes (01_machine.md R9 to R16), and the free values: opaque constants that nothing can evaluate,
for what the manual leaves open and for the cryptographic functions it names by outside standards. -/
namespace Sys2Proof.Config

/-- The five configurations of R9. -/
inductive Conf where
  | handheld | docked | developer | workstation1 | workstation2
  deriving DecidableEq, Repr

/-- The die codes of a configuration (R9). -/
def Conf.dies : Conf → List Nat
  | .handheld => [0] | .docked => [0, 1] | .developer => [0, 1, 2] | .workstation1 => [1] | .workstation2 => [1, 2]

/-- Cores of a die (R15). -/
def cores (isD : Bool) : Nat := if isD then 256 else 64
/-- Columns of the mesh (R11). -/
def meshWidth (isD : Bool) : Nat := if isD then 16 else 8
/-- Lanes per quarter (R15, R23). -/
def lanesPerQuarter (isD : Bool) : Nat := if isD then 32 else 16
/-- Lanes of a core (R15). -/
def lanes (isD : Bool) : Nat := 4 * lanesPerQuarter isD
/-- Bytes of a commons slice (R146). -/
def sliceBytes (isD : Bool) : Nat := if isD then 768 * 1024 else 384 * 1024
/-- Home nodes (R153). -/
def homeNodes (isD : Bool) : Nat := if isD then 64 else 16
/-- Bytes of device memory (R15); 32 GB and 128 GB are read in units of 2^30 bytes (DESIGN CHOICE, log 96). -/
def memoryBytes (isD : Bool) : Nat := if isD then 128 * 2 ^ 30 else 32 * 2 ^ 30
/-- Resident threads per home lane (R23). -/
def threadsPerLane : Nat := 16
/-- Accumulator tiles of a core (R13). -/
def coreTiles : Nat := 16
/-- Recipe entries of a core (R97). -/
def coreRecipes : Nat := 512
/-- COMMONS: the base of the commons window (R146), the same on every die; the manual gives no value (log 5). -/
opaque commonsBaseUnit : Nat
/-- COMMONS, a multiple of 256 MiB in the canonical lower half (R146). -/
def commons : Nat := commonsBaseUnit % 2 ^ 28 * 2 ^ 28

/-- A free value: the number drawn at a count of draws. -/
opaque freeNat : Nat → Nat
/-- A transcendental result that no precision tried settles, by the approximation of its value (log 26). -/
opaque unsettled : Nat → Nat
/-- The time by which a step advances the global timestamp, by step number (R286 gives no rate per step). -/
opaque tick : Nat → Nat
/-- How far the clock of a die, and of a core of it, runs ahead of the global timestamp, before the bounds of R286. -/
opaque dieSkew : Nat → Nat
opaque coreSkew : Nat → Nat → Nat
/-- SHA-512, named by R327 to R329 through an outside standard. -/
opaque sha512 : List Byte → List Byte
/-- RSASSA-PSS verification with SHA-512 under a modulus: modulus, message digest, signature (R328). -/
opaque rsaVerify : List Byte → List Byte → List Byte → Bool
/-- The digest and security version fused into a die, by die code (R328). -/
opaque fusedDigest : Nat → List Byte
/-- The security version fused into a die (R328). -/
opaque fusedVersion : Nat → Nat
/-- The identity certificate of a die (R329). -/
opaque certificate : Nat → List Byte
/-- The ECDSA P-384 signature with a die's identity key (R329). -/
opaque ecdsaSign : Nat → List Byte → List Byte
/-- The stepping of a die (R315). -/
opaque stepping : Nat → Nat
/-- The commit-buffer bytes that a held effect of some data bytes takes (R305 gives no layout). -/
opaque heldBytes : Nat → Nat
/-- What a host's AtomicOp rejection depends on: whether the root port rejects the request of a draw (R154). -/
opaque hostRejects : Nat → Bool

/-- What the loader keeps for the containers mapped into a context (R360, R483), which reach the machine from outside: the code ranges, the
entries (address, kind 1 to 3, record size), the dissolve entries and CODEBASE, by the number of a draw. -/
opaque loadedRanges : Nat → List (Nat × Nat)
opaque loadedEntries : Nat → List (Nat × Nat × Nat)
opaque loadedDissolve : Nat → List Nat
opaque loadedBase : Nat → Nat
/-- The bytes that the log count takes in an attestation report (R329 gives no width). -/
opaque attestCountBytes : Nat
/-- A byte of a read that P's memory refuses the display engine (R175 gives no outcome), by step and address (log 91). -/
opaque refusedByte : Nat → Nat → BitVec 8
/-- The architecture generation of a die (R317). -/
opaque generation : Nat → Nat

end Sys2Proof.Config
end

