-- ==== Sys2Proof/Syntax.lean ====
section
/-! DEFINITION. The syntax: ONE inductive with one constructor per row of the opcode table. The first 151 constructors are
instruction words (13_formats.md, 14_opcodes.md); the other 102 are the operations of the machine that no word encodes:
commands, mailbox functions, host writes, and the steps of engines and firmware. Register operands carry their numbers;
a field that names a pair by its index (BASE, OFS, DESC, R338) keeps the index. -/
namespace Sys2Proof

/-- One operation of the machine. `p` is the guard predicate, `l` the last-read mark, `k` the recipe bit (R339). -/
inductive Instr where
  /-- `add.c xd, xs` (R337) -/
  | add16 (l : Bool) (s : YReg) (d : YReg)
  /-- `sub.c xd, xs` (R337) -/
  | sub16 (l : Bool) (s : YReg) (d : YReg)
  /-- `mul.c xd, xs` (R337) -/
  | mul16 (l : Bool) (s : YReg) (d : YReg)
  /-- `and.c xd, xs` (R337) -/
  | and16 (l : Bool) (s : YReg) (d : YReg)
  /-- `or.c xd, xs` (R337) -/
  | or16 (l : Bool) (s : YReg) (d : YReg)
  /-- `xor.c xd, xs` (R337) -/
  | xor16 (l : Bool) (s : YReg) (d : YReg)
  /-- `shl.c xd, imm` (R337) -/
  | shl16 (i : Fin 32) (d : YReg)
  /-- `shr.n.c xd, imm` (R337) -/
  | shrN16 (i : Fin 32) (d : YReg)
  /-- `mov.c xd, xs` (R337) -/
  | mov16 (l : Bool) (s : YReg) (d : YReg)
  /-- `ldi.c xd, imm` (R337) -/
  | ldi16 (i : Fin 32) (d : YReg)
  /-- `addi.c xd, imm` (R337) -/
  | addi16 (i : Fin 32) (d : YReg)
  /-- `fadd.c xd, xs` (R337) -/
  | fadd16 (l : Bool) (s : YReg) (d : YReg)
  /-- `fsub.c xd, xs` (R337) -/
  | fsub16 (l : Bool) (s : YReg) (d : YReg)
  /-- `fmul.c xd, xs` (R337) -/
  | fmul16 (l : Bool) (s : YReg) (d : YReg)
  /-- `ld.32.c xd, [xs:xs+1]` (R337) -/
  | ld16 (l : Bool) (s : YReg) (d : YReg)
  /-- `st.32.c [xs:xs+1], xd` (R337) -/
  | st16 (l : Bool) (s : YReg) (d : YReg)
  /-- `clause word` (R342) -/
  | clause (len : Fin 32) (setB : Fin 16) (setA : Fin 16) (wait : Fin 4096)
  /-- `prefix word` (R347) -/
  | pfx (payload : Fin 33554432)
  /-- `add xD, xA, xB` (R381) -/
  | add (p : PReg) (d : XReg) (a : XReg) (b : XReg) (l : Bool) (k : Bool)
  /-- `addc pairs` (R381) -/
  | addc (p : PReg) (d : XReg) (a : XReg) (b : XReg) (l : Bool) (k : Bool)
  /-- `sub xD, xA, xB` (R381) -/
  | sub (p : PReg) (d : XReg) (a : XReg) (b : XReg) (l : Bool) (k : Bool)
  /-- `subb pairs` (R381) -/
  | subb (p : PReg) (d : XReg) (a : XReg) (b : XReg) (l : Bool) (k : Bool)
  /-- `add xD, xA, imm9` (R381) -/
  | addImm (p : PReg) (d : XReg) (a : XReg) (imm : Fin 512) (k : Bool)
  /-- `mul xD, xA, xB` (R436) -/
  | mul (p : PReg) (d : XReg) (a : XReg) (b : XReg) (l : Bool) (k : Bool)
  /-- `mulh_ss xD, xA, xB` (R436) -/
  | mulhSS (p : PReg) (d : XReg) (a : XReg) (b : XReg) (l : Bool) (k : Bool)
  /-- `mulh_nn xD, xA, xB` (R436) -/
  | mulhNN (p : PReg) (d : XReg) (a : XReg) (b : XReg) (l : Bool) (k : Bool)
  /-- `mulh_sn xD, xA, xB` (R436) -/
  | mulhSN (p : PReg) (d : XReg) (a : XReg) (b : XReg) (l : Bool) (k : Bool)
  /-- `mad xD, xA, xB, xC` (R428) -/
  | mad (p : PReg) (d : YReg) (a : YReg) (b : YReg) (c : YReg) (l : Bool) (k : Bool)
  /-- `madw xD:xD+1, xA, xB, xC:xC+1` (R428) -/
  | madw (p : PReg) (d : YReg) (a : YReg) (b : YReg) (c : YReg) (l : Bool) (k : Bool)
  /-- `div.s or div.n (n) xD:xD+1, xA, xB` (R396) -/
  | div (p : PReg) (d : XReg) (a : XReg) (b : XReg) (n : Bool) (l : Bool)
  /-- `and xD, xA, xB` (R382) -/
  | and (p : PReg) (d : XReg) (a : XReg) (b : XReg) (l : Bool) (k : Bool)
  /-- `or xD, xA, xB` (R382) -/
  | or (p : PReg) (d : XReg) (a : XReg) (b : XReg) (l : Bool) (k : Bool)
  /-- `xor xD, xA, xB` (R382) -/
  | xor (p : PReg) (d : XReg) (a : XReg) (b : XReg) (l : Bool) (k : Bool)
  /-- `andn xD, xA, xB` (R382) -/
  | andn (p : PReg) (d : XReg) (a : XReg) (b : XReg) (l : Bool) (k : Bool)
  /-- `shl xD, xA, xB` (R446) -/
  | shl (p : PReg) (d : XReg) (a : XReg) (b : XReg) (l : Bool) (k : Bool)
  /-- `shr_n xD, xA, xB` (R446) -/
  | shrN (p : PReg) (d : XReg) (a : XReg) (b : XReg) (l : Bool) (k : Bool)
  /-- `shr_s xD, xA, xB` (R446) -/
  | shrS (p : PReg) (d : XReg) (a : XReg) (b : XReg) (l : Bool) (k : Bool)
  /-- `rot xD, xA, xB` (R446) -/
  | rot (p : PReg) (d : XReg) (a : XReg) (b : XReg) (l : Bool) (k : Bool)
  /-- `shf xD, xA, xB, xC` (R449) -/
  | shf (p : PReg) (d : YReg) (a : YReg) (b : YReg) (c : YReg) (l : Bool) (k : Bool)
  /-- `imin.s or imin.n (n)` (R416) -/
  | imin (p : PReg) (d : XReg) (a : XReg) (b : XReg) (n : Bool) (l : Bool) (k : Bool)
  /-- `imax.s or imax.n (n)` (R416) -/
  | imax (p : PReg) (d : XReg) (a : XReg) (b : XReg) (n : Bool) (l : Bool) (k : Bool)
  /-- `popc xD, xA` (R388) -/
  | popc (p : PReg) (d : XReg) (a : XReg) (l : Bool) (k : Bool)
  /-- `clz xD, xA` (R388) -/
  | clz (p : PReg) (d : XReg) (a : XReg) (l : Bool) (k : Bool)
  /-- `brev xD, xA` (R388) -/
  | brev (p : PReg) (d : XReg) (a : XReg) (l : Bool) (k : Bool)
  /-- `iabs xD, xA` (R388) -/
  | iabs (p : PReg) (d : XReg) (a : XReg) (l : Bool) (k : Bool)
  /-- `bfe.n, or bfe.s when s` (R385) -/
  | bfe (p : PReg) (d : XReg) (a : XReg) (b : XReg) (s : Bool) (l : Bool) (k : Bool)
  /-- `bfi xD, xA, xB` (R385) -/
  | bfi (p : PReg) (d : XReg) (a : XReg) (b : XReg) (l : Bool) (k : Bool)
  /-- `lea xD:xD+1, xA:xA+1, xB, sh` (R426) -/
  | lea (p : PReg) (d : XReg) (a : XReg) (b : XReg) (sh : Fin 4) (l : Bool) (k : Bool)
  /-- `icmp.cond.comb pQ, xA, xB` (R402) -/
  | icmp (p : PReg) (q : Fin 8) (a : XReg) (b : XReg) (cond : Fin 8) (comb : Fin 4) (l : Bool)
  /-- `fcmp.cond.comb pQ, xA, xB` (R402) -/
  | fcmp (p : PReg) (q : Fin 8) (a : XReg) (b : XReg) (cond : Fin 8) (comb : Fin 4) (l : Bool)
  /-- `plop.op pD, pA, pB` (R443) -/
  | plop (p : PReg) (d : PReg) (a : PReg) (b : PReg) (op : Fin 4)
  /-- `mov xD, xA` (R434) -/
  | mov (p : PReg) (d : XReg) (a : XReg) (l : Bool) (k : Bool)
  /-- `movs xD, sA` (R434) -/
  | movs (p : PReg) (d : XReg) (a : YReg) (k : Bool)
  /-- `smov sD, xA` (R434) -/
  | smov (p : PReg) (d : YReg) (a : XReg) (l : Bool)
  /-- `movp xD, preds` (R434) -/
  | movpToReg (p : PReg) (d : XReg)
  /-- `movp preds, xA` (R434) -/
  | movpToPreds (p : PReg) (a : XReg) (l : Bool)
  /-- `sel xD, pQ, xA, xB` (R447) -/
  | sel (q : PReg) (d : XReg) (a : XReg) (b : XReg) (l : Bool) (k : Bool)
  /-- `ldi xD, imm16` (R425) -/
  | ldi (p : PReg) (d : XReg) (imm : Fin 65536)
  /-- `ldhi xD, imm16` (R425) -/
  | ldhi (p : PReg) (d : XReg) (imm : Fin 65536)
  /-- `fadd xD, xA, xB` (R400) -/
  | fadd (p : PReg) (d : XReg) (a : XReg) (b : XReg) (l : Bool) (k : Bool)
  /-- `fsub xD, xA, xB` (R400) -/
  | fsub (p : PReg) (d : XReg) (a : XReg) (b : XReg) (l : Bool) (k : Bool)
  /-- `fmul xD, xA, xB` (R400) -/
  | fmul (p : PReg) (d : XReg) (a : XReg) (b : XReg) (l : Bool) (k : Bool)
  /-- `ffma xD, xA, xB, xC` (R406) -/
  | ffma (p : PReg) (d : YReg) (a : YReg) (b : YReg) (c : YReg) (l : Bool) (k : Bool)
  /-- `fmin, or fmin.num when u` (R407) -/
  | fmin (p : PReg) (d : XReg) (a : XReg) (b : XReg) (u : Bool) (l : Bool) (k : Bool)
  /-- `fmax, or fmax.num when u` (R407) -/
  | fmax (p : PReg) (d : XReg) (a : XReg) (b : XReg) (u : Bool) (l : Bool) (k : Bool)
  /-- `fsfu.f xD, xA` (R409) -/
  | fsfu (p : PReg) (d : XReg) (a : XReg) (f : Fin 64) (l : Bool) (k : Bool)
  /-- `fcvt.c.r xD, xA` (R403) -/
  | fcvt (p : PReg) (d : XReg) (a : XReg) (c : Fin 64) (r : Fin 4) (l : Bool) (k : Bool)
  /-- `frnd.r xD, xA` (R408) -/
  | frnd (p : PReg) (d : XReg) (a : XReg) (r : Fin 4) (l : Bool) (k : Bool)
  /-- `fadd2.h, or .b when t` (R401) -/
  | fadd2 (p : PReg) (d : XReg) (a : XReg) (b : XReg) (t : Bool) (l : Bool) (k : Bool)
  /-- `fmul2.h, or .b when t` (R401) -/
  | fmul2 (p : PReg) (d : XReg) (a : XReg) (b : XReg) (t : Bool) (l : Bool) (k : Bool)
  /-- `ffma2_h xD, xA, xB, xC` (R401) -/
  | ffma2H (p : PReg) (d : YReg) (a : YReg) (b : YReg) (c : YReg) (l : Bool) (k : Bool)
  /-- `ffma2_b xD, xA, xB, xC` (R401) -/
  | ffma2B (p : PReg) (d : YReg) (a : YReg) (b : YReg) (c : YReg) (l : Bool) (k : Bool)
  /-- `fdot xD, xA, xB, xC` (R404) -/
  | fdot (p : PReg) (d : YReg) (a : YReg) (b : YReg) (c : YReg) (l : Bool) (k : Bool)
  /-- `idot xD, xA, xB, xC` (R404) -/
  | idot (p : PReg) (d : YReg) (a : YReg) (b : YReg) (c : YReg) (l : Bool) (k : Bool)
  /-- `shfl.mode xD, xA, xB` (R451) -/
  | shfl (p : PReg) (d : XReg) (a : XReg) (b : XReg) (mode : Fin 4) (l : Bool)
  /-- `vote.mode D, [!]pA` (R468) -/
  | vote (p : PReg) (d : XReg) (a : PReg) (n : Bool) (mode : Fin 4)
  /-- `match.any xD:xD+1, xA` (R429) -/
  | matchAny (p : PReg) (d : XReg) (a : XReg) (l : Bool)
  /-- `match.all xD:xD+1, xA, pB` (R429) -/
  | matchAll (p : PReg) (d : XReg) (a : XReg) (b : PReg) (l : Bool)
  /-- `gred.c xD, xA` (R414) -/
  | gred (p : PReg) (d : XReg) (a : XReg) (c : Fin 64) (l : Bool)
  /-- `gscan.c xD, xA; exclusive when e` (R414) -/
  | gscan (p : PReg) (d : XReg) (a : XReg) (c : Fin 64) (e : Bool) (l : Bool)
  /-- `ddx, or ddx.fine when f` (R395) -/
  | ddx (p : PReg) (d : XReg) (a : XReg) (f : Bool) (l : Bool)
  /-- `ddy, or ddy.fine when f` (R395) -/
  | ddy (p : PReg) (d : XReg) (a : XReg) (f : Bool) (l : Bool)
  /-- `bfly xD, xA, m` (R376) -/
  | bfly (p : PReg) (d : XReg) (a : XReg) (m : Fin 64) (l : Bool)
  /-- `dotp4 xD, xA, xB` (R377) -/
  | dotp4 (p : PReg) (d : XReg) (a : XReg) (b : XReg) (l : Bool)
  /-- `ld.size T, [pair b + idx]` (R422) -/
  | ld (p : PReg) (size : Fin 8) (xm : Fin 4) (idx : XReg) (b : YReg) (t : XReg)
  /-- `st.size T, [pair b + idx]` (R455) -/
  | st (p : PReg) (size : Fin 8) (xm : Fin 4) (idx : XReg) (b : YReg) (t : XReg)
  /-- `atom.op[.w] xT, [pair b]` (R198) -/
  | atom (p : PReg) (op : Fin 32) (w : Bool) (b : YReg) (t : XReg)
  /-- `red.op[.w] [pair b], xT` (R198) -/
  | red (p : PReg) (op : Fin 32) (w : Bool) (b : YReg) (t : XReg)
  /-- `fence.kind.scope[.eng]` (R193) -/
  | fence (p : PReg) (eng : Bool) (kind : Fin 4) (scope : Fin 16)
  /-- `pfetch [pair b + idx]` (R155) -/
  | pfetch (p : PReg) (xm : Fin 4) (idx : XReg) (b : YReg)
  /-- `cflush [pair b + idx]` (R155) -/
  | cflush (p : PReg) (xm : Fin 4) (idx : XReg) (b : YReg)
  /-- `cinv [pair b + idx]` (R155) -/
  | cinv (p : PReg) (xm : Fin 4) (idx : XReg) (b : YReg)
  /-- `cwb [pair b + idx]` (R155) -/
  | cwb (p : PReg) (xm : Fin 4) (idx : XReg) (b : YReg)
  /-- `ldc.w sD, [sA:sA+1]` (R424) -/
  | ldc (p : PReg) (d : YReg) (a : YReg) (w : Fin 4)
  /-- `cpy.mode eE, tTAG, [s pair desc], x pair ofs` (R208) -/
  | cpy (p : PReg) (ectx : Fin 16) (ofs : YReg) (mode : Fin 4) (tag : Fin 64) (desc : Fin 32)
  /-- `wtag.all, or .any when y` (R410) -/
  | wtag (p : PReg) (a : XReg) (y : Bool) (l : Bool)
  /-- `ftag xD:xD+1, xA:xA+1` (R410) -/
  | ftag (p : PReg) (d : XReg) (a : XReg) (l : Bool)
  /-- `tagclr xA:xA+1` (R410) -/
  | tagclr (p : PReg) (a : XReg) (l : Bool)
  /-- `tlwait [xA:xA+1], xB:xB+1` (R462) -/
  | tlwait (p : PReg) (a : XReg) (b : XReg) (l : Bool)
  /-- `tlread xD:xD+3, [xA:xA+1]` (R462) -/
  | tlread (p : PReg) (d : XReg) (a : XReg) (l : Bool)
  /-- `tlnote xD:xD+1, eN` (R463) -/
  | tlnote (p : PReg) (d : XReg)
  /-- `cvset cvD, xA` (R394) -/
  | cvset (p : PReg) (cv : Fin 16) (a : XReg)
  /-- `mma[.z] mACC, A, B, cvV` (R216) -/
  | mma (p : PReg) (acc : Fin 8) (cv : Fin 16) (z : Bool) (sa : Bool) (sb : Bool) (a : XReg) (b : XReg)
  /-- `mzero.f or .i (kind 1)` (R430) -/
  | mzero (p : PReg) (tile : Fin 8) (kind : Fin 8)
  /-- `mld.kind mN, A, B` (R430) -/
  | mld (p : PReg) (tile : Fin 8) (kind : Fin 8) (a : XReg) (b : XReg) (l : Bool)
  /-- `mdrain.kind A, B, mN` (R430) -/
  | mdrain (p : PReg) (tile : Fin 8) (kind : Fin 8) (a : XReg) (b : XReg) (l : Bool)
  /-- `mtile [sA:sA+1]` (R225) -/
  | mtile (p : PReg) (a : YReg)
  /-- `bar` (R230) -/
  | bar (p : PReg)
  /-- `gbar` (R412) -/
  | gbar (p : PReg)
  /-- `lock [xA:xA+1]` (R232) -/
  | lock (p : PReg) (a : XReg) (l : Bool)
  /-- `unlock [xA:xA+1]` (R232) -/
  | unlock (p : PReg) (a : XReg) (l : Bool)
  /-- `phreg xD, xA, mode` (R229) -/
  | phreg (p : PReg) (d : XReg) (a : XReg) (mode : Fin 64) (l : Bool)
  /-- `phsig xD, xA` (R229) -/
  | phsig (p : PReg) (d : XReg) (a : XReg) (l : Bool)
  /-- `phwait xA, xB` (R229) -/
  | phwait (p : PReg) (a : XReg) (b : XReg) (l : Bool)
  /-- `phdrop xA` (R229) -/
  | phdrop (p : PReg) (a : XReg) (l : Bool)
  /-- `trace [xA:xA+1], sB:sB+1` (R248) -/
  | trace (p : PReg) (a : XReg) (b : YReg) (l : Bool)
  /-- `trace.wait xD, [xA:xA+1], sB:sB+1` (R248) -/
  | traceWait (p : PReg) (d : XReg) (a : XReg) (b : YReg) (l : Bool)
  /-- `rayld xD, [xA:xA+1], q` (R249) -/
  | rayld (p : PReg) (d : XReg) (a : XReg) (q : Fin 4) (l : Bool)
  /-- `hitrpt [xA:xA+1], xB` (R256) -/
  | hitrpt (p : PReg) (a : XReg) (b : XReg) (l : Bool)
  /-- `tex xD, xA, sB:sB+1` (R459) -/
  | tex (p : PReg) (d : XReg) (a : XReg) (b : YReg) (l : Bool)
  /-- `texn xD, xA, sB:sB+1` (R460) -/
  | texn (p : PReg) (d : XReg) (a : XReg) (b : YReg) (l : Bool)
  /-- `pxld xD, w` (R268) -/
  | pxld (p : PReg) (d : XReg) (w : Fin 64)
  /-- `pxst w, xA` (R268) -/
  | pxst (p : PReg) (w : Fin 64) (a : XReg) (l : Bool)
  /-- `pxout xA, n` (R268) -/
  | pxout (p : PReg) (a : XReg) (n : Fin 64) (l : Bool)
  /-- `pxout.discard` (R268) -/
  | pxoutDiscard (p : PReg)
  /-- `ipa.m xD, i` (R269) -/
  | ipa (p : PReg) (d : XReg) (m : Fin 64) (i : Fin 64)
  /-- `emit [xA:xA+1], xB` (R398) -/
  | emit (p : PReg) (a : XReg) (b : XReg) (l : Bool)
  /-- `next label` (R437) -/
  | next (off : Fin 1048576)
  /-- `nextp pN, label` (R437) -/
  | nextp (off : Fin 1048576) (q : PReg)
  /-- `nextp.n pN, label` (R437) -/
  | nextpN (off : Fin 1048576) (q : PReg)
  /-- `call label` (R390) -/
  | call (off : Fin 1048576)
  /-- `nop` (R439) -/
  | nop (p : PReg)
  /-- `bkpt` (R387) -/
  | bkpt
  /-- `trap n` (R465) -/
  | trap (p : PReg) (n : Fin 16)
  /-- `tret` (R281) -/
  | tret
  /-- `srd xD, num` (R453) -/
  | srd (p : PReg) (d : XReg) (num : Fin 1024)
  /-- `swr num, xD` (R453) -/
  | swr (p : PReg) (d : XReg) (num : Fin 1024)
  /-- `tstamp xD:xD+1` (R467) -/
  | tstamp (p : PReg) (d : XReg)
  /-- `sleep xA` (R452) -/
  | sleep (p : PReg) (a : XReg)
  /-- `yield` (R469) -/
  | yield
  /-- `exit n` (R399) -/
  | exit (n : Fin 16)
  /-- `ret` (R390) -/
  | ret
  /-- `nextx xA:xA+1` (R437) -/
  | nextx (a : XReg)
  /-- `callx xA:xA+1` (R390) -/
  | callx (a : XReg)
  /-- `launch xD, xA:xA+1` (R420) -/
  | launch (p : PReg) (d : XReg) (a : XReg)
  /-- `joinc` (R418) -/
  | joinc (p : PReg)
  /-- `quota n+1` (R94) -/
  | quota (n : Fin 64)
  /-- `setpri n` (R448) -/
  | setpri (p : PReg) (n : Fin 16)
  /-- `rmat xA:xA+1` (R102) -/
  | rmat (p : PReg) (a : XReg)
  /-- `rdrop xA:xA+1` (R102) -/
  | rdrop (p : PReg) (a : XReg)
  /-- `callk xA:xA+1, xD` (R49) -/
  | callk (d : XReg) (a : XReg)
  /-- host write of value to the notify register of queue q (R61) -/
  | queueNotify (die : Nat) (q : Nat) (value : BitVec 64) (relaxed : Bool)
  /-- the front end of a die reads its next ready slot (R63) -/
  | slotRead (die : Nat)
  /-- reread of the slot at the head of queue q (R63) -/
  | sealReread (die : Nat) (q : Nat)
  /-- queue q has held an unread slot for 1 ms (R67) -/
  | queueStarvation (die : Nat) (q : Nat)
  /-- the accepted slot idx of queue q has a reserved command code (R69) -/
  | errCode (die : Nat) (q : Nat) (idx : Nat)
  /-- LAUNCH command, slot idx of queue q (R70) -/
  | launchCmd (die : Nat) (q : Nat) (idx : Nat)
  /-- GRAPH command, slot idx of queue q (R72) -/
  | graph (die : Nat) (q : Nat) (idx : Nat)
  /-- COPY command, slot idx of queue q (R65) -/
  | copy (die : Nat) (q : Nat) (idx : Nat)
  /-- WAIT command, slot idx of queue q (R65) -/
  | wait (die : Nat) (q : Nat) (idx : Nat)
  /-- a held WAIT completes, slot idx of queue q (R65) -/
  | waitComplete (die : Nat) (q : Nat) (idx : Nat)
  /-- SIGNAL command, slot idx of queue q (R65) -/
  | signal (die : Nat) (q : Nat) (idx : Nat)
  /-- MAPSYNC command, slot idx of queue q (R65) -/
  | mapsync (die : Nat) (q : Nat) (idx : Nat)
  /-- CHECKPOINT command, slot idx of queue q (R304) -/
  | checkpoint (die : Nat) (q : Nat) (idx : Nat)
  /-- MIGRATE command, slot idx of queue q (R300) -/
  | migrate (die : Nat) (q : Nat) (idx : Nat)
  /-- scheduler core 0 of a die serves the request in its mailbox (R322) -/
  | qcreate (die : Nat)
  /-- scheduler core 0 of a die serves the request in its mailbox (R321) -/
  | qdestroy (die : Nat)
  /-- scheduler core 0 of a die serves the request in its mailbox (R321) -/
  | qrestart (die : Nat)
  /-- scheduler core 1 of a die serves the request in its mailbox (R323) -/
  | ctxcreate (die : Nat)
  /-- scheduler core 1 of a die serves the request in its mailbox (R321) -/
  | ctxdestroy (die : Nat)
  /-- scheduler core 1 of a die serves the request in its mailbox (R78) -/
  | vacate (die : Nat)
  /-- scheduler core 1 of a die serves the request in its mailbox (R331) -/
  | coreoff (die : Nat)
  /-- scheduler core 1 of a die serves the request in its mailbox (R331) -/
  | coreon (die : Nat)
  /-- scheduler core 2 of a die serves the request in its mailbox (R321) -/
  | tilemem (die : Nat)
  /-- scheduler core 4 of a die serves the request in its mailbox (R482) -/
  | errring (die : Nat)
  /-- scheduler core 4 of a die serves the request in its mailbox (R171) -/
  | reclaim (die : Nat)
  /-- scheduler core 5 of a die serves the request in its mailbox (R307) -/
  | granary (die : Nat)
  /-- scheduler core 5 of a die serves the request in its mailbox (R303) -/
  | undock (die : Nat)
  /-- scheduler core 5 of a die serves the request in its mailbox (R331) -/
  | linkretrain (die : Nat)
  /-- scheduler core 6 of a die serves the request in its mailbox (R332) -/
  | clockcap (die : Nat)
  /-- scheduler core 6 of a die serves the request in its mailbox (R331) -/
  | chanretrain (die : Nat)
  /-- scheduler core 6 of a die serves the request in its mailbox (R332) -/
  | powercap (die : Nat)
  /-- scheduler core 7 of a die serves the request in its mailbox (R329) -/
  | attest (die : Nat)
  /-- scheduler core 7 of a die serves the request in its mailbox (R330) -/
  | reload (die : Nat)
  /-- a scheduler core answers an unknown function code (R320) -/
  | mbUnknownFunction (die : Nat) (core : Nat)
  /-- host write to MBSTAT(core) (R315) -/
  | mbstatWrite (die : Nat) (core : Nat) (value : BitVec 32)
  /-- host write to FWLOCK (R326) -/
  | fwlock (die : Nat) (value : BitVec 32)
  /-- core 7 verifies the image (R328) -/
  | firmwareVerify (die : Nat)
  /-- conventional or function-level reset of a die (R325) -/
  | deviceReset (die : Nat)
  /-- host write to DOCKSTAT (R315) -/
  | dockstatClear (die : Nat) (value : BitVec 32)
  /-- host write to HCTL of a head (R272) -/
  | hctlWrite (head : Nat) (value : BitVec 32)
  /-- host write to RINGTAIL of a head (R272) -/
  | ringtailWrite (head : Nat) (value : BitVec 32)
  /-- host write of size bytes at a BAR0 offset (R315) -/
  | registerWrite (die : Nat) (off : Nat) (size : Nat) (value : BitVec 64)
  /-- a BAR0 access of a bad width or alignment (R315) -/
  | bar0BadAccess (die : Nat) (off : Nat) (size : Nat) (write : Bool)
  /-- presence detect on the downstream port (R316) -/
  | dockPresence (die : Nat)
  /-- the downstream link trains at a width (R316) -/
  | linkTrained (die : Nat) (width : Nat)
  /-- the far die runs (R316) -/
  | farDieRunning (die : Nat)
  /-- SYNCING completes with the far die, or finds its generation different (R317) -/
  | dockSync (die : Nat) (generation : Nat)
  /-- every context is back (R316) -/
  | undockComplete (die : Nat)
  /-- the link downstream of a die is lost (R308) -/
  | linkLoss (die : Nat)
  /-- core 6 sets the arithmetic clock (R16) -/
  | clockChange (die : Nat) (mhz : Nat)
  /-- TELEMETRY is updated from the sensors (R332) -/
  | telemetryUpdate (die : Nat) (power : Nat) (temp : Nat) (reasons : Nat)
  /-- a junction reaches 120 degrees (R332) -/
  | thermalTrip (die : Nat)
  /-- the function is put into D3hot (R333) -/
  | d3hotEntry (die : Nat)
  /-- place the next team or cohort of a context, member i on core cores[i] (R76) -/
  | teamPlace (die : Nat) (ctx : Nat) (cores : List Nat)
  /-- core 1 grants idle cores to a partition (R59) -/
  | partitionGrant (die : Nat) (ctx : Nat) (cores : List Nat)
  /-- core 2 launches a node team for a batch of count records (R52) -/
  | nodeBatchLaunch (die : Nat) (ctx : Nat) (node : Nat) (count : Nat) (core : Nat)
  /-- the fold of a core forms bundles (R30) -/
  | foldFormationStep (die : Nat) (core : Nat)
  /-- bundle number idx of a core becomes aged (R81) -/
  | bundleAged (die : Nat) (core : Nat) (idx : Nat)
  /-- a sleeping thread returns to selection (R452) -/
  | sleepEnd (team : Nat) (tid : Nat)
  /-- hardware retries a LOCK that found the FIFO full (R233) -/
  | lockRetry (team : Nat) (tid : Nat)
  /-- a waiting quota growth is served (R94) -/
  | quotaGrant (team : Nat) (gang : Nat)
  /-- the hardware drops a kept register (R96) -/
  | registerDrop (team : Nat) (tid : Nat) (reg : Nat)
  /-- the oldest pending register write of a thread completes (R344) -/
  | loadReply (team : Nat) (tid : Nat)
  /-- the oldest pending write of a thread is accepted (R344) -/
  | writeAccept (team : Nat) (tid : Nat)
  /-- the oldest late reply of a thread arrives (R174) -/
  | lateReply (team : Nat) (tid : Nat)
  /-- a page walk for a thread completes (R162) -/
  | translationWalk (team : Nat) (tid : Nat) (va : BitVec 64) (kind : Nat)
  /-- core 3 resolves the oldest fault record with a page-table entry (R164) -/
  | faultResolve (die : Nat) (d0 : BitVec 64) (d1 : BitVec 64)
  /-- core 3 declares the oldest fault record unresolvable (R164) -/
  | faultUnresolvable (die : Nat)
  /-- core 5 moves the page of va of context ctx to a frame pa of die newDie (R167) -/
  | homeMigration (die : Nat) (ctx : Nat) (va : BitVec 64) (newDie : Nat) (pa : Nat)
  /-- the entry of va on a die becomes owned and remotely mapped (R167) -/
  | remoteMap (die : Nat) (ctx : Nat) (va : BitVec 64)
  /-- a first-level line leaves the cache (R187) -/
  | lineExpiry (die : Nat) (core : Nat) (line : Nat)
  /-- the owner of a line has not answered within 1 ms (R170) -/
  | ownerTimeout (line : Nat)
  /-- a late answer of an old owner arrives (R476) -/
  | lateOwnerAnswer (line : Nat)
  /-- the owner of a line answers the awaited snoop (R168) -/
  | snoopAnswer (line : Nat)
  /-- host read (empty data) or write of a location of device or host memory (R203) -/
  | hostRequest (write : Bool) (die : Nat) (addr : Nat) (data : List (BitVec 8)) (relaxed : Bool)
  /-- a stopped thread whose flag counts are zero enters its handler (R280) -/
  | trapEntry (team : Nat) (tid : Nat)
  /-- core 4 copies the oldest trap record of a die (R285) -/
  | trapLogCopy (die : Nat)
  /-- a team is stopped: cause 0 vacate, 1 checkpoint, 2 migration (R287) -/
  | switchOut (team : Nat) (cause : Nat)
  /-- a save handler of a team has run for 10 ms (R291) -/
  | saveTimeout (team : Nat)
  /-- a switch of a team waits 10 ms for a peer-add round (R291) -/
  | peerRoundStall (team : Nat)
  /-- a switched-out team is placed on a core (R292) -/
  | switchIn (team : Nat) (core : Nat)
  /-- a copy operation completes or errors (R207) -/
  | copyComplete (op : Nat)
  /-- the matrix engine applies an accepted MMA (R136) -/
  | mmaApply (op : Nat)
  /-- the data of an MDRAIN is written (R222) -/
  | drainComplete (op : Nat)
  /-- a peer-add contribution is added into the peer tile (R223) -/
  | peerAddApply (op : Nat)
  /-- one MTILE step of a thread applies (R225) -/
  | mtileStep (team : Nat) (tid : Nat)
  /-- the graph engine appends an emitted record (R398) -/
  | emitAppend (op : Nat)
  /-- a note completes (R463) -/
  | tlnoteComplete (op : Nat)
  /-- the ray engine accepts or refuses a hand-off (R248) -/
  | traceAccept (op : Nat)
  /-- the mill of a core dispatches one treelet of a context (R252) -/
  | millDispatch (die : Nat) (ctx : Nat) (core : Nat)
  /-- the ray engine applies a candidate decision (R256) -/
  | hitrptApply (op : Nat)
  /-- the binner takes a pass record (R262) -/
  | passRecord (die : Nat) (ctx : Nat)
  /-- the binner takes a primitive record (R265) -/
  | primitiveRecord (die : Nat) (ctx : Nat)
  /-- the owner of a tile emits the quads of its next primitive (R266) -/
  | rasterise (die : Nat) (ctx : Nat) (tile : Nat)
  /-- the blender applies an accepted PXOUT (R267) -/
  | blendApply (op : Nat)
  /-- a head makes its check for the next deadline (R273) -/
  | refreshCheck (head : Nat)
  /-- the checkpoint interval of a context expires (R304) -/
  | checkpointInterval (die : Nat) (ctx : Nat)
  /-- the commit sequence number of a checkpoint reaches P (R307) -/
  | commitRecord (die : Nat) (ctx : Nat)
  /-- P acknowledges a checkpoint (R304) -/
  | checkpointAck (die : Nat) (ctx : Nat)
  /-- the target die receives an image and grants cores (R300) -/
  | migrationImage (die : Nat) (ctx : Nat) (cores : List Nat)
  /-- the target acknowledges the image of a context (R300) -/
  | migrationAck (die : Nat) (ctx : Nat)
  /-- host write to MBDOOR(core) while BUSY or RESP is set (R320) -/
  | doorbellOverrun (die : Nat) (core : Nat)
  deriving DecidableEq, Repr

end Sys2Proof
end

