-- ==== Sys2Proof/Machine/Operands.lean ====
section
/-! DEFINITION. The register shape of each instruction word: the x registers it reads in the order of R379, those it writes,
those its last-read mark names (R103), its guard (R339) and its recipe bit (R97). -/
namespace Sys2Proof

/-- The pair that starts at `n` (R6). -/
def pairR (n : Nat) : List Nat := [n, n + 1]
/-- The quad that starts at `n` (R6). -/
def quadR (n : Nat) : List Nat := [n, n + 1, n + 2, n + 3]
/-- The index register of format M: none under IDXM 00 (R340). -/
def idxR (xm : Fin 4) (idx : XReg) : List Nat := if xm.val == 0 then [] else [idx.val]
/-- The registers of T by SIZE (R340). -/
def sizeR (size : Fin 8) (t : XReg) : List Nat :=
  if size.val == 5 then pairR t.val else if size.val == 6 then quadR t.val else [t.val]
/-- The operand registers of an atomic (R198). -/
def atomSrc (op : Fin 32) (w : Bool) (t : XReg) : List Nat :=
  if op.val == 9 then (if w then quadR t.val else pairR t.val) else if w then pairR t.val else [t.val]
/-- Whether system register `n` is 64 bits wide (R107). -/
def sr64 (n : Nat) : Bool :=
  (0x12 ≤ n && n ≤ 0x13) || (0x16 ≤ n && n ≤ 0x19) || (0x1E ≤ n && n ≤ 0x21) || (0x30 ≤ n && n ≤ 0x3F) || n == 0x41 || n == 0x42

/-- The x registers an instruction word reads, in the order A, B, C, base, index, stored value (R379, R340). -/
def Instr.srcX : Instr → List Nat
  | .add16 _ s d => [d.val] ++ [s.val]
  | .sub16 _ s d => [d.val] ++ [s.val]
  | .mul16 _ s d => [d.val] ++ [s.val]
  | .and16 _ s d => [d.val] ++ [s.val]
  | .or16 _ s d => [d.val] ++ [s.val]
  | .xor16 _ s d => [d.val] ++ [s.val]
  | .shl16 _ d => [d.val]
  | .shrN16 _ d => [d.val]
  | .mov16 _ s _ => [s.val]
  | .ldi16 _ _ => []
  | .addi16 _ d => [d.val]
  | .fadd16 _ s d => [d.val] ++ [s.val]
  | .fsub16 _ s d => [d.val] ++ [s.val]
  | .fmul16 _ s d => [d.val] ++ [s.val]
  | .ld16 _ s _ => pairR s.val
  | .st16 _ s d => pairR s.val ++ [d.val]
  | .clause _ _ _ _ => []
  | .pfx _ => []
  | .add _ _ a b _ _ => [a.val] ++ [b.val]
  | .addc _ _ a b _ _ => pairR a.val ++ pairR b.val
  | .sub _ _ a b _ _ => [a.val] ++ [b.val]
  | .subb _ _ a b _ _ => pairR a.val ++ pairR b.val
  | .addImm _ _ a _ _ => [a.val]
  | .mul _ _ a b _ _ => [a.val] ++ [b.val]
  | .mulhSS _ _ a b _ _ => [a.val] ++ [b.val]
  | .mulhNN _ _ a b _ _ => [a.val] ++ [b.val]
  | .mulhSN _ _ a b _ _ => [a.val] ++ [b.val]
  | .mad _ _ a b c _ _ => [a.val] ++ [b.val] ++ [c.val]
  | .madw _ _ a b c _ _ => [a.val] ++ [b.val] ++ pairR c.val
  | .div _ _ a b _ _ => [a.val] ++ [b.val]
  | .and _ _ a b _ _ => [a.val] ++ [b.val]
  | .or _ _ a b _ _ => [a.val] ++ [b.val]
  | .xor _ _ a b _ _ => [a.val] ++ [b.val]
  | .andn _ _ a b _ _ => [a.val] ++ [b.val]
  | .shl _ _ a b _ _ => [a.val] ++ [b.val]
  | .shrN _ _ a b _ _ => [a.val] ++ [b.val]
  | .shrS _ _ a b _ _ => [a.val] ++ [b.val]
  | .rot _ _ a b _ _ => [a.val] ++ [b.val]
  | .shf _ _ a b c _ _ => [a.val] ++ [b.val] ++ [c.val]
  | .imin _ _ a b _ _ _ => [a.val] ++ [b.val]
  | .imax _ _ a b _ _ _ => [a.val] ++ [b.val]
  | .popc _ _ a _ _ => [a.val]
  | .clz _ _ a _ _ => [a.val]
  | .brev _ _ a _ _ => [a.val]
  | .iabs _ _ a _ _ => [a.val]
  | .bfe _ _ a b _ _ _ => [a.val] ++ [b.val]
  | .bfi _ d a b _ _ => [a.val] ++ [b.val] ++ [d.val]
  | .lea _ _ a b _ _ _ => pairR a.val ++ [b.val]
  | .icmp _ _ a b _ _ _ => [a.val] ++ [b.val]
  | .fcmp _ _ a b _ _ _ => [a.val] ++ [b.val]
  | .plop _ _ _ _ _ => []
  | .mov _ _ a _ _ => [a.val]
  | .movs _ _ _ _ => []
  | .smov _ _ a _ => [a.val]
  | .movpToReg _ _ => []
  | .movpToPreds _ a _ => [a.val]
  | .sel _ _ a b _ _ => [a.val] ++ [b.val]
  | .ldi _ _ _ => []
  | .ldhi _ _ _ => []
  | .fadd _ _ a b _ _ => [a.val] ++ [b.val]
  | .fsub _ _ a b _ _ => [a.val] ++ [b.val]
  | .fmul _ _ a b _ _ => [a.val] ++ [b.val]
  | .ffma _ _ a b c _ _ => [a.val] ++ [b.val] ++ [c.val]
  | .fmin _ _ a b _ _ _ => [a.val] ++ [b.val]
  | .fmax _ _ a b _ _ _ => [a.val] ++ [b.val]
  | .fsfu _ _ a _ _ _ => [a.val]
  | .fcvt _ _ a c _ _ _ => (if c.val == 5 || c.val == 11 then pairR a.val else [a.val])
  | .frnd _ _ a _ _ _ => [a.val]
  | .fadd2 _ _ a b _ _ _ => [a.val] ++ [b.val]
  | .fmul2 _ _ a b _ _ _ => [a.val] ++ [b.val]
  | .ffma2H _ _ a b c _ _ => [a.val] ++ [b.val] ++ [c.val]
  | .ffma2B _ _ a b c _ _ => [a.val] ++ [b.val] ++ [c.val]
  | .fdot _ _ a b c _ _ => [a.val] ++ [b.val] ++ [c.val]
  | .idot _ _ a b c _ _ => [a.val] ++ [b.val] ++ [c.val]
  | .shfl _ _ a b _ _ => [a.val] ++ [b.val]
  | .vote _ _ _ _ _ => []
  | .matchAny _ _ a _ => [a.val]
  | .matchAll _ _ a _ _ => [a.val]
  | .gred _ _ a _ _ => [a.val]
  | .gscan _ _ a _ _ _ => [a.val]
  | .ddx _ _ a _ _ => [a.val]
  | .ddy _ _ a _ _ => [a.val]
  | .bfly _ _ a _ _ => [a.val]
  | .dotp4 _ _ a b _ => quadR a.val ++ quadR b.val
  | .ld _ _ xm idx b _ => pairR (2 * b.val) ++ idxR xm idx
  | .st _ size xm idx b t => pairR (2 * b.val) ++ idxR xm idx ++ sizeR size t
  | .atom _ op w b t => pairR (2 * b.val) ++ atomSrc op w t
  | .red _ op w b t => pairR (2 * b.val) ++ atomSrc op w t
  | .fence _ _ _ _ => []
  | .pfetch _ xm idx b => pairR (2 * b.val) ++ idxR xm idx
  | .cflush _ xm idx b => pairR (2 * b.val) ++ idxR xm idx
  | .cinv _ xm idx b => pairR (2 * b.val) ++ idxR xm idx
  | .cwb _ xm idx b => pairR (2 * b.val) ++ idxR xm idx
  | .ldc _ _ _ _ => []
  | .cpy _ _ ofs _ _ _ => pairR (2 * ofs.val)
  | .wtag _ a _ _ => pairR a.val
  | .ftag _ _ a _ => pairR a.val
  | .tagclr _ a _ => pairR a.val
  | .tlwait _ a b _ => pairR a.val ++ pairR b.val
  | .tlread _ _ a _ => pairR a.val
  | .tlnote _ _ => []
  | .cvset _ _ a => [a.val]
  | .mma _ _ _ _ sa sb a b => (if sa then [] else (List.range 8).map (a.val + ·)) ++ (if sb then [] else (List.range 8).map (b.val + ·))
  | .mzero _ _ _ => []
  | .mld _ _ kind a b _ => (if kind.val == 2 then pairR a.val ++ [b.val] else [])
  | .mdrain _ _ kind a b _ => (if kind.val == 2 then pairR a.val ++ [b.val] else if kind.val == 3 then [a.val] else if kind.val == 4 then [a.val, b.val] else [])
  | .mtile _ _ => []
  | .bar _ => []
  | .gbar _ => []
  | .lock _ a _ => pairR a.val
  | .unlock _ a _ => pairR a.val
  | .phreg _ _ a _ _ => [a.val]
  | .phsig _ _ a _ => [a.val]
  | .phwait _ a b _ => [a.val] ++ [b.val]
  | .phdrop _ a _ => [a.val]
  | .trace _ a _ _ => pairR a.val
  | .traceWait _ _ a _ _ => pairR a.val
  | .rayld _ _ a _ _ => pairR a.val
  | .hitrpt _ a b _ => pairR a.val ++ [b.val]
  | .tex _ _ a _ _ => quadR a.val
  | .texn _ _ a _ _ => quadR a.val
  | .pxld _ _ _ => []
  | .pxst _ _ a _ => [a.val]
  | .pxout _ a n _ => (List.range n.val).map (a.val + ·)
  | .pxoutDiscard _ => []
  | .ipa _ _ _ _ => []
  | .emit _ a b _ => pairR a.val ++ [b.val]
  | .next _ => []
  | .nextp _ _ => []
  | .nextpN _ _ => []
  | .call _ => []
  | .nop _ => []
  | .bkpt  => []
  | .trap _ _ => []
  | .tret  => []
  | .srd _ _ _ => []
  | .swr _ d num => (if sr64 num.val then pairR d.val else [d.val])
  | .tstamp _ _ => []
  | .sleep _ a => [a.val]
  | .yield  => []
  | .exit _ => []
  | .ret  => []
  | .nextx a => pairR a.val
  | .callx a => pairR a.val
  | .launch _ _ a => pairR a.val
  | .joinc _ => []
  | .quota _ => []
  | .setpri _ _ => []
  | .rmat _ a => pairR a.val
  | .rdrop _ a => pairR a.val
  | .callk d a => pairR a.val ++ [d.val]
  | _ => []

/-- The x registers an instruction word writes (R379). -/
def Instr.dstX : Instr → List Nat
  | .add16 _ _ d => [d.val]
  | .sub16 _ _ d => [d.val]
  | .mul16 _ _ d => [d.val]
  | .and16 _ _ d => [d.val]
  | .or16 _ _ d => [d.val]
  | .xor16 _ _ d => [d.val]
  | .shl16 _ d => [d.val]
  | .shrN16 _ d => [d.val]
  | .mov16 _ _ d => [d.val]
  | .ldi16 _ d => [d.val]
  | .addi16 _ d => [d.val]
  | .fadd16 _ _ d => [d.val]
  | .fsub16 _ _ d => [d.val]
  | .fmul16 _ _ d => [d.val]
  | .ld16 _ _ d => [d.val]
  | .st16 _ _ _ => []
  | .clause _ _ _ _ => []
  | .pfx _ => []
  | .add _ d _ _ _ _ => [d.val]
  | .addc _ d _ _ _ _ => pairR d.val
  | .sub _ d _ _ _ _ => [d.val]
  | .subb _ d _ _ _ _ => pairR d.val
  | .addImm _ d _ _ _ => [d.val]
  | .mul _ d _ _ _ _ => [d.val]
  | .mulhSS _ d _ _ _ _ => [d.val]
  | .mulhNN _ d _ _ _ _ => [d.val]
  | .mulhSN _ d _ _ _ _ => [d.val]
  | .mad _ d _ _ _ _ _ => [d.val]
  | .madw _ d _ _ _ _ _ => pairR d.val
  | .div _ d _ _ _ _ => pairR d.val
  | .and _ d _ _ _ _ => [d.val]
  | .or _ d _ _ _ _ => [d.val]
  | .xor _ d _ _ _ _ => [d.val]
  | .andn _ d _ _ _ _ => [d.val]
  | .shl _ d _ _ _ _ => [d.val]
  | .shrN _ d _ _ _ _ => [d.val]
  | .shrS _ d _ _ _ _ => [d.val]
  | .rot _ d _ _ _ _ => [d.val]
  | .shf _ d _ _ _ _ _ => [d.val]
  | .imin _ d _ _ _ _ _ => [d.val]
  | .imax _ d _ _ _ _ _ => [d.val]
  | .popc _ d _ _ _ => [d.val]
  | .clz _ d _ _ _ => [d.val]
  | .brev _ d _ _ _ => [d.val]
  | .iabs _ d _ _ _ => [d.val]
  | .bfe _ d _ _ _ _ _ => [d.val]
  | .bfi _ d _ _ _ _ => [d.val]
  | .lea _ d _ _ _ _ _ => pairR d.val
  | .icmp _ _ _ _ _ _ _ => []
  | .fcmp _ _ _ _ _ _ _ => []
  | .plop _ _ _ _ _ => []
  | .mov _ d _ _ _ => [d.val]
  | .movs _ d _ _ => [d.val]
  | .smov _ _ _ _ => []
  | .movpToReg _ d => [d.val]
  | .movpToPreds _ _ _ => []
  | .sel _ d _ _ _ _ => [d.val]
  | .ldi _ d _ => [d.val]
  | .ldhi _ d _ => [d.val]
  | .fadd _ d _ _ _ _ => [d.val]
  | .fsub _ d _ _ _ _ => [d.val]
  | .fmul _ d _ _ _ _ => [d.val]
  | .ffma _ d _ _ _ _ _ => [d.val]
  | .fmin _ d _ _ _ _ _ => [d.val]
  | .fmax _ d _ _ _ _ _ => [d.val]
  | .fsfu _ d _ _ _ _ => [d.val]
  | .fcvt _ d _ c _ _ _ => (if c.val == 4 || c.val == 10 then pairR d.val else [d.val])
  | .frnd _ d _ _ _ _ => [d.val]
  | .fadd2 _ d _ _ _ _ _ => [d.val]
  | .fmul2 _ d _ _ _ _ _ => [d.val]
  | .ffma2H _ d _ _ _ _ _ => [d.val]
  | .ffma2B _ d _ _ _ _ _ => [d.val]
  | .fdot _ d _ _ _ _ _ => [d.val]
  | .idot _ d _ _ _ _ _ => [d.val]
  | .shfl _ d _ _ _ _ => [d.val]
  | .vote _ d _ _ mode => (if mode.val == 2 then pairR d.val else if mode.val == 3 then [d.val] else [])
  | .matchAny _ d _ _ => pairR d.val
  | .matchAll _ d _ _ _ => pairR d.val
  | .gred _ d _ _ _ => [d.val]
  | .gscan _ d _ _ _ _ => [d.val]
  | .ddx _ d _ _ _ => [d.val]
  | .ddy _ d _ _ _ => [d.val]
  | .bfly _ d _ _ _ => [d.val]
  | .dotp4 _ d _ _ _ => [d.val]
  | .ld _ size _ _ _ t => sizeR size t
  | .st _ _ _ _ _ _ => []
  | .atom _ _ w _ t => (if w then pairR t.val else [t.val])
  | .red _ _ _ _ _ => []
  | .fence _ _ _ _ => []
  | .pfetch _ _ _ _ => []
  | .cflush _ _ _ _ => []
  | .cinv _ _ _ _ => []
  | .cwb _ _ _ _ => []
  | .ldc _ _ _ _ => []
  | .cpy _ _ _ _ _ _ => []
  | .wtag _ _ _ _ => []
  | .ftag _ d _ _ => pairR d.val
  | .tagclr _ _ _ => []
  | .tlwait _ _ _ _ => []
  | .tlread _ d _ _ => quadR d.val
  | .tlnote _ d => pairR d.val
  | .cvset _ _ _ => []
  | .mma _ _ _ _ _ _ _ _ => []
  | .mzero _ _ _ => []
  | .mld _ _ _ _ _ _ => []
  | .mdrain _ _ _ _ _ _ => []
  | .mtile _ _ => []
  | .bar _ => []
  | .gbar _ => []
  | .lock _ _ _ => []
  | .unlock _ _ _ => []
  | .phreg _ d _ _ _ => [d.val]
  | .phsig _ d _ _ => [d.val]
  | .phwait _ _ _ _ => []
  | .phdrop _ _ _ => []
  | .trace _ _ _ _ => []
  | .traceWait _ d _ _ _ => [d.val]
  | .rayld _ d _ _ _ => quadR d.val
  | .hitrpt _ _ _ _ => []
  | .tex _ d _ _ _ => quadR d.val
  | .texn _ d _ _ _ => quadR d.val
  | .pxld _ d _ => [d.val]
  | .pxst _ _ _ _ => []
  | .pxout _ _ _ _ => []
  | .pxoutDiscard _ => []
  | .ipa _ d _ _ => [d.val]
  | .emit _ _ _ _ => []
  | .next _ => []
  | .nextp _ _ => []
  | .nextpN _ _ => []
  | .call _ => []
  | .nop _ => []
  | .bkpt  => []
  | .trap _ _ => []
  | .tret  => []
  | .srd _ d num => (if sr64 num.val then pairR d.val else [d.val])
  | .swr _ _ _ => []
  | .tstamp _ d => pairR d.val
  | .sleep _ _ => []
  | .yield  => []
  | .exit _ => []
  | .ret  => []
  | .nextx _ => []
  | .callx _ => []
  | .launch _ d _ => [d.val]
  | .joinc _ => []
  | .quota _ => []
  | .setpri _ _ => []
  | .rmat _ _ => []
  | .rdrop _ _ => []
  | .callk _ _ => []
  | _ => []

/-- The x registers the L bit of the word marks (R103). -/
def Instr.markX : Instr → List Nat
  | .add16 l s _ => if l then [s.val] else []
  | .sub16 l s _ => if l then [s.val] else []
  | .mul16 l s _ => if l then [s.val] else []
  | .and16 l s _ => if l then [s.val] else []
  | .or16 l s _ => if l then [s.val] else []
  | .xor16 l s _ => if l then [s.val] else []
  | .shl16 _ _ => []
  | .shrN16 _ _ => []
  | .mov16 l s _ => if l then [s.val] else []
  | .ldi16 _ _ => []
  | .addi16 _ _ => []
  | .fadd16 l s _ => if l then [s.val] else []
  | .fsub16 l s _ => if l then [s.val] else []
  | .fmul16 l s _ => if l then [s.val] else []
  | .ld16 l s _ => if l then pairR s.val else []
  | .st16 l s _ => if l then pairR s.val else []
  | .clause _ _ _ _ => []
  | .pfx _ => []
  | .add _ _ a _ l _ => if l then [a.val] else []
  | .addc _ _ a _ l _ => if l then pairR a.val else []
  | .sub _ _ a _ l _ => if l then [a.val] else []
  | .subb _ _ a _ l _ => if l then pairR a.val else []
  | .addImm _ _ _ _ _ => []
  | .mul _ _ a _ l _ => if l then [a.val] else []
  | .mulhSS _ _ a _ l _ => if l then [a.val] else []
  | .mulhNN _ _ a _ l _ => if l then [a.val] else []
  | .mulhSN _ _ a _ l _ => if l then [a.val] else []
  | .mad _ _ _ _ c l _ => if l then [c.val] else []
  | .madw _ _ _ _ c l _ => if l then pairR c.val else []
  | .div _ _ a _ _ l => if l then [a.val] else []
  | .and _ _ a _ l _ => if l then [a.val] else []
  | .or _ _ a _ l _ => if l then [a.val] else []
  | .xor _ _ a _ l _ => if l then [a.val] else []
  | .andn _ _ a _ l _ => if l then [a.val] else []
  | .shl _ _ a _ l _ => if l then [a.val] else []
  | .shrN _ _ a _ l _ => if l then [a.val] else []
  | .shrS _ _ a _ l _ => if l then [a.val] else []
  | .rot _ _ a _ l _ => if l then [a.val] else []
  | .shf _ _ _ _ c l _ => if l then [c.val] else []
  | .imin _ _ a _ _ l _ => if l then [a.val] else []
  | .imax _ _ a _ _ l _ => if l then [a.val] else []
  | .popc _ _ a l _ => if l then [a.val] else []
  | .clz _ _ a l _ => if l then [a.val] else []
  | .brev _ _ a l _ => if l then [a.val] else []
  | .iabs _ _ a l _ => if l then [a.val] else []
  | .bfe _ _ a _ _ l _ => if l then [a.val] else []
  | .bfi _ _ a _ l _ => if l then [a.val] else []
  | .lea _ _ a _ _ l _ => if l then pairR a.val else []
  | .icmp _ _ a _ _ _ l => if l then [a.val] else []
  | .fcmp _ _ a _ _ _ l => if l then [a.val] else []
  | .plop _ _ _ _ _ => []
  | .mov _ _ a l _ => if l then [a.val] else []
  | .movs _ _ _ _ => []
  | .smov _ _ a l => if l then [a.val] else []
  | .movpToReg _ _ => []
  | .movpToPreds _ a l => if l then [a.val] else []
  | .sel _ _ a _ l _ => if l then [a.val] else []
  | .ldi _ _ _ => []
  | .ldhi _ _ _ => []
  | .fadd _ _ a _ l _ => if l then [a.val] else []
  | .fsub _ _ a _ l _ => if l then [a.val] else []
  | .fmul _ _ a _ l _ => if l then [a.val] else []
  | .ffma _ _ _ _ c l _ => if l then [c.val] else []
  | .fmin _ _ a _ _ l _ => if l then [a.val] else []
  | .fmax _ _ a _ _ l _ => if l then [a.val] else []
  | .fsfu _ _ a _ l _ => if l then [a.val] else []
  | .fcvt _ _ a c _ l _ => if l then (if c.val == 5 || c.val == 11 then pairR a.val else [a.val]) else []
  | .frnd _ _ a _ l _ => if l then [a.val] else []
  | .fadd2 _ _ a _ _ l _ => if l then [a.val] else []
  | .fmul2 _ _ a _ _ l _ => if l then [a.val] else []
  | .ffma2H _ _ _ _ c l _ => if l then [c.val] else []
  | .ffma2B _ _ _ _ c l _ => if l then [c.val] else []
  | .fdot _ _ _ _ c l _ => if l then [c.val] else []
  | .idot _ _ _ _ c l _ => if l then [c.val] else []
  | .shfl _ _ a _ _ l => if l then [a.val] else []
  | .vote _ _ _ _ _ => []
  | .matchAny _ _ a l => if l then [a.val] else []
  | .matchAll _ _ a _ l => if l then [a.val] else []
  | .gred _ _ a _ l => if l then [a.val] else []
  | .gscan _ _ a _ _ l => if l then [a.val] else []
  | .ddx _ _ a _ l => if l then [a.val] else []
  | .ddy _ _ a _ l => if l then [a.val] else []
  | .bfly _ _ a _ l => if l then [a.val] else []
  | .dotp4 _ _ a _ l => if l then quadR a.val else []
  | .ld _ _ _ _ _ _ => []
  | .st _ _ _ _ _ _ => []
  | .atom _ _ _ _ _ => []
  | .red _ _ _ _ _ => []
  | .fence _ _ _ _ => []
  | .pfetch _ _ _ _ => []
  | .cflush _ _ _ _ => []
  | .cinv _ _ _ _ => []
  | .cwb _ _ _ _ => []
  | .ldc _ _ _ _ => []
  | .cpy _ _ _ _ _ _ => []
  | .wtag _ a _ l => if l then pairR a.val else []
  | .ftag _ _ a l => if l then pairR a.val else []
  | .tagclr _ a l => if l then pairR a.val else []
  | .tlwait _ a _ l => if l then pairR a.val else []
  | .tlread _ _ a l => if l then pairR a.val else []
  | .tlnote _ _ => []
  | .cvset _ _ _ => []
  | .mma _ _ _ _ _ _ _ _ => []
  | .mzero _ _ _ => []
  | .mld _ _ kind a _ l => if l then (if kind.val == 2 then pairR a.val else [a.val]) else []
  | .mdrain _ _ kind a _ l => if l then (if kind.val == 2 then pairR a.val else [a.val]) else []
  | .mtile _ _ => []
  | .bar _ => []
  | .gbar _ => []
  | .lock _ a l => if l then pairR a.val else []
  | .unlock _ a l => if l then pairR a.val else []
  | .phreg _ _ a _ l => if l then [a.val] else []
  | .phsig _ _ a l => if l then [a.val] else []
  | .phwait _ a _ l => if l then [a.val] else []
  | .phdrop _ a l => if l then [a.val] else []
  | .trace _ a _ l => if l then pairR a.val else []
  | .traceWait _ _ a _ l => if l then pairR a.val else []
  | .rayld _ _ a _ l => if l then pairR a.val else []
  | .hitrpt _ a _ l => if l then pairR a.val else []
  | .tex _ _ a _ l => if l then quadR a.val else []
  | .texn _ _ a _ l => if l then quadR a.val else []
  | .pxld _ _ _ => []
  | .pxst _ _ a l => if l then [a.val] else []
  | .pxout _ a _ l => if l then [a.val] else []
  | .pxoutDiscard _ => []
  | .ipa _ _ _ _ => []
  | .emit _ a _ l => if l then pairR a.val else []
  | .next _ => []
  | .nextp _ _ => []
  | .nextpN _ _ => []
  | .call _ => []
  | .nop _ => []
  | .bkpt  => []
  | .trap _ _ => []
  | .tret  => []
  | .srd _ _ _ => []
  | .swr _ _ _ => []
  | .tstamp _ _ => []
  | .sleep _ _ => []
  | .yield  => []
  | .exit _ => []
  | .ret  => []
  | .nextx _ => []
  | .callx _ => []
  | .launch _ _ _ => []
  | .joinc _ => []
  | .quota _ => []
  | .setpri _ _ => []
  | .rmat _ _ => []
  | .rdrop _ _ => []
  | .callk _ _ => []
  | _ => []

/-- The guard predicate of an instruction word; none where the format has none or the field is a selector (R338, R447). -/
def Instr.guard? : Instr → Option PReg
  | .add p _ _ _ _ _ => some p
  | .addc p _ _ _ _ _ => some p
  | .sub p _ _ _ _ _ => some p
  | .subb p _ _ _ _ _ => some p
  | .addImm p _ _ _ _ => some p
  | .mul p _ _ _ _ _ => some p
  | .mulhSS p _ _ _ _ _ => some p
  | .mulhNN p _ _ _ _ _ => some p
  | .mulhSN p _ _ _ _ _ => some p
  | .mad p _ _ _ _ _ _ => some p
  | .madw p _ _ _ _ _ _ => some p
  | .div p _ _ _ _ _ => some p
  | .and p _ _ _ _ _ => some p
  | .or p _ _ _ _ _ => some p
  | .xor p _ _ _ _ _ => some p
  | .andn p _ _ _ _ _ => some p
  | .shl p _ _ _ _ _ => some p
  | .shrN p _ _ _ _ _ => some p
  | .shrS p _ _ _ _ _ => some p
  | .rot p _ _ _ _ _ => some p
  | .shf p _ _ _ _ _ _ => some p
  | .imin p _ _ _ _ _ _ => some p
  | .imax p _ _ _ _ _ _ => some p
  | .popc p _ _ _ _ => some p
  | .clz p _ _ _ _ => some p
  | .brev p _ _ _ _ => some p
  | .iabs p _ _ _ _ => some p
  | .bfe p _ _ _ _ _ _ => some p
  | .bfi p _ _ _ _ _ => some p
  | .lea p _ _ _ _ _ _ => some p
  | .icmp p _ _ _ _ _ _ => some p
  | .fcmp p _ _ _ _ _ _ => some p
  | .plop p _ _ _ _ => some p
  | .mov p _ _ _ _ => some p
  | .movs p _ _ _ => some p
  | .smov p _ _ _ => some p
  | .movpToReg p _ => some p
  | .movpToPreds p _ _ => some p
  | .ldi p _ _ => some p
  | .ldhi p _ _ => some p
  | .fadd p _ _ _ _ _ => some p
  | .fsub p _ _ _ _ _ => some p
  | .fmul p _ _ _ _ _ => some p
  | .ffma p _ _ _ _ _ _ => some p
  | .fmin p _ _ _ _ _ _ => some p
  | .fmax p _ _ _ _ _ _ => some p
  | .fsfu p _ _ _ _ _ => some p
  | .fcvt p _ _ _ _ _ _ => some p
  | .frnd p _ _ _ _ _ => some p
  | .fadd2 p _ _ _ _ _ _ => some p
  | .fmul2 p _ _ _ _ _ _ => some p
  | .ffma2H p _ _ _ _ _ _ => some p
  | .ffma2B p _ _ _ _ _ _ => some p
  | .fdot p _ _ _ _ _ _ => some p
  | .idot p _ _ _ _ _ _ => some p
  | .shfl p _ _ _ _ _ => some p
  | .vote p _ _ _ _ => some p
  | .matchAny p _ _ _ => some p
  | .matchAll p _ _ _ _ => some p
  | .gred p _ _ _ _ => some p
  | .gscan p _ _ _ _ _ => some p
  | .ddx p _ _ _ _ => some p
  | .ddy p _ _ _ _ => some p
  | .bfly p _ _ _ _ => some p
  | .dotp4 p _ _ _ _ => some p
  | .ld p _ _ _ _ _ => some p
  | .st p _ _ _ _ _ => some p
  | .atom p _ _ _ _ => some p
  | .red p _ _ _ _ => some p
  | .fence p _ _ _ => some p
  | .pfetch p _ _ _ => some p
  | .cflush p _ _ _ => some p
  | .cinv p _ _ _ => some p
  | .cwb p _ _ _ => some p
  | .ldc p _ _ _ => some p
  | .cpy p _ _ _ _ _ => some p
  | .wtag p _ _ _ => some p
  | .ftag p _ _ _ => some p
  | .tagclr p _ _ => some p
  | .tlwait p _ _ _ => some p
  | .tlread p _ _ _ => some p
  | .tlnote p _ => some p
  | .cvset p _ _ => some p
  | .mma p _ _ _ _ _ _ _ => some p
  | .mzero p _ _ => some p
  | .mld p _ _ _ _ _ => some p
  | .mdrain p _ _ _ _ _ => some p
  | .mtile p _ => some p
  | .bar p => some p
  | .gbar p => some p
  | .lock p _ _ => some p
  | .unlock p _ _ => some p
  | .phreg p _ _ _ _ => some p
  | .phsig p _ _ _ => some p
  | .phwait p _ _ _ => some p
  | .phdrop p _ _ => some p
  | .trace p _ _ _ => some p
  | .traceWait p _ _ _ _ => some p
  | .rayld p _ _ _ _ => some p
  | .hitrpt p _ _ _ => some p
  | .tex p _ _ _ _ => some p
  | .texn p _ _ _ _ => some p
  | .pxld p _ _ => some p
  | .pxst p _ _ _ => some p
  | .pxout p _ _ _ => some p
  | .pxoutDiscard p => some p
  | .ipa p _ _ _ => some p
  | .emit p _ _ _ => some p
  | .nop p => some p
  | .trap p _ => some p
  | .srd p _ _ => some p
  | .swr p _ _ => some p
  | .tstamp p _ => some p
  | .sleep p _ => some p
  | .launch p _ _ => some p
  | .joinc p => some p
  | .setpri p _ => some p
  | .rmat p _ => some p
  | .rdrop p _ => some p
  | _ => none

/-- The recipe bit of the word (R97). -/
def Instr.kBit : Instr → Bool
  | .add _ _ _ _ _ k => k
  | .addc _ _ _ _ _ k => k
  | .sub _ _ _ _ _ k => k
  | .subb _ _ _ _ _ k => k
  | .addImm _ _ _ _ k => k
  | .mul _ _ _ _ _ k => k
  | .mulhSS _ _ _ _ _ k => k
  | .mulhNN _ _ _ _ _ k => k
  | .mulhSN _ _ _ _ _ k => k
  | .mad _ _ _ _ _ _ k => k
  | .madw _ _ _ _ _ _ k => k
  | .and _ _ _ _ _ k => k
  | .or _ _ _ _ _ k => k
  | .xor _ _ _ _ _ k => k
  | .andn _ _ _ _ _ k => k
  | .shl _ _ _ _ _ k => k
  | .shrN _ _ _ _ _ k => k
  | .shrS _ _ _ _ _ k => k
  | .rot _ _ _ _ _ k => k
  | .shf _ _ _ _ _ _ k => k
  | .imin _ _ _ _ _ _ k => k
  | .imax _ _ _ _ _ _ k => k
  | .popc _ _ _ _ k => k
  | .clz _ _ _ _ k => k
  | .brev _ _ _ _ k => k
  | .iabs _ _ _ _ k => k
  | .bfe _ _ _ _ _ _ k => k
  | .bfi _ _ _ _ _ k => k
  | .lea _ _ _ _ _ _ k => k
  | .mov _ _ _ _ k => k
  | .movs _ _ _ k => k
  | .sel _ _ _ _ _ k => k
  | .fadd _ _ _ _ _ k => k
  | .fsub _ _ _ _ _ k => k
  | .fmul _ _ _ _ _ k => k
  | .ffma _ _ _ _ _ _ k => k
  | .fmin _ _ _ _ _ _ k => k
  | .fmax _ _ _ _ _ _ k => k
  | .fsfu _ _ _ _ _ k => k
  | .fcvt _ _ _ _ _ _ k => k
  | .frnd _ _ _ _ _ k => k
  | .fadd2 _ _ _ _ _ _ k => k
  | .fmul2 _ _ _ _ _ _ k => k
  | .ffma2H _ _ _ _ _ _ k => k
  | .ffma2B _ _ _ _ _ _ k => k
  | .fdot _ _ _ _ _ _ k => k
  | .idot _ _ _ _ _ _ k => k
  | _ => false

/-- The last-read mark bit of the word (R103). -/
def Instr.lBit : Instr → Bool
  | .add16 l _ _ => l
  | .sub16 l _ _ => l
  | .mul16 l _ _ => l
  | .and16 l _ _ => l
  | .or16 l _ _ => l
  | .xor16 l _ _ => l
  | .mov16 l _ _ => l
  | .fadd16 l _ _ => l
  | .fsub16 l _ _ => l
  | .fmul16 l _ _ => l
  | .ld16 l _ _ => l
  | .st16 l _ _ => l
  | .add _ _ _ _ l _ => l
  | .addc _ _ _ _ l _ => l
  | .sub _ _ _ _ l _ => l
  | .subb _ _ _ _ l _ => l
  | .mul _ _ _ _ l _ => l
  | .mulhSS _ _ _ _ l _ => l
  | .mulhNN _ _ _ _ l _ => l
  | .mulhSN _ _ _ _ l _ => l
  | .mad _ _ _ _ _ l _ => l
  | .madw _ _ _ _ _ l _ => l
  | .div _ _ _ _ _ l => l
  | .and _ _ _ _ l _ => l
  | .or _ _ _ _ l _ => l
  | .xor _ _ _ _ l _ => l
  | .andn _ _ _ _ l _ => l
  | .shl _ _ _ _ l _ => l
  | .shrN _ _ _ _ l _ => l
  | .shrS _ _ _ _ l _ => l
  | .rot _ _ _ _ l _ => l
  | .shf _ _ _ _ _ l _ => l
  | .imin _ _ _ _ _ l _ => l
  | .imax _ _ _ _ _ l _ => l
  | .popc _ _ _ l _ => l
  | .clz _ _ _ l _ => l
  | .brev _ _ _ l _ => l
  | .iabs _ _ _ l _ => l
  | .bfe _ _ _ _ _ l _ => l
  | .bfi _ _ _ _ l _ => l
  | .lea _ _ _ _ _ l _ => l
  | .icmp _ _ _ _ _ _ l => l
  | .fcmp _ _ _ _ _ _ l => l
  | .mov _ _ _ l _ => l
  | .smov _ _ _ l => l
  | .movpToPreds _ _ l => l
  | .sel _ _ _ _ l _ => l
  | .fadd _ _ _ _ l _ => l
  | .fsub _ _ _ _ l _ => l
  | .fmul _ _ _ _ l _ => l
  | .ffma _ _ _ _ _ l _ => l
  | .fmin _ _ _ _ _ l _ => l
  | .fmax _ _ _ _ _ l _ => l
  | .fsfu _ _ _ _ l _ => l
  | .fcvt _ _ _ _ _ l _ => l
  | .frnd _ _ _ _ l _ => l
  | .fadd2 _ _ _ _ _ l _ => l
  | .fmul2 _ _ _ _ _ l _ => l
  | .ffma2H _ _ _ _ _ l _ => l
  | .ffma2B _ _ _ _ _ l _ => l
  | .fdot _ _ _ _ _ l _ => l
  | .idot _ _ _ _ _ l _ => l
  | .shfl _ _ _ _ _ l => l
  | .matchAny _ _ _ l => l
  | .matchAll _ _ _ _ l => l
  | .gred _ _ _ _ l => l
  | .gscan _ _ _ _ _ l => l
  | .ddx _ _ _ _ l => l
  | .ddy _ _ _ _ l => l
  | .bfly _ _ _ _ l => l
  | .dotp4 _ _ _ _ l => l
  | .wtag _ _ _ l => l
  | .ftag _ _ _ l => l
  | .tagclr _ _ l => l
  | .tlwait _ _ _ l => l
  | .tlread _ _ _ l => l
  | .mld _ _ _ _ _ l => l
  | .mdrain _ _ _ _ _ l => l
  | .lock _ _ l => l
  | .unlock _ _ l => l
  | .phreg _ _ _ _ l => l
  | .phsig _ _ _ l => l
  | .phwait _ _ _ l => l
  | .phdrop _ _ l => l
  | .trace _ _ _ l => l
  | .traceWait _ _ _ _ l => l
  | .rayld _ _ _ _ l => l
  | .hitrpt _ _ _ l => l
  | .tex _ _ _ _ l => l
  | .texn _ _ _ _ l => l
  | .pxst _ _ _ l => l
  | .pxout _ _ _ l => l
  | .emit _ _ _ l => l
  | _ => false

/-- The bits of the word that encodes an instruction; 0 for an operation without a word (R334). -/
def Instr.bits : Instr → Nat
  | .add16 _ _ _ => 16
  | .sub16 _ _ _ => 16
  | .mul16 _ _ _ => 16
  | .and16 _ _ _ => 16
  | .or16 _ _ _ => 16
  | .xor16 _ _ _ => 16
  | .shl16 _ _ => 16
  | .shrN16 _ _ => 16
  | .mov16 _ _ _ => 16
  | .ldi16 _ _ => 16
  | .addi16 _ _ => 16
  | .fadd16 _ _ _ => 16
  | .fsub16 _ _ _ => 16
  | .fmul16 _ _ _ => 16
  | .ld16 _ _ _ => 16
  | .st16 _ _ _ => 16
  | .clause _ _ _ _ => 32
  | .pfx _ => 32
  | .add _ _ _ _ _ _ => 32
  | .addc _ _ _ _ _ _ => 32
  | .sub _ _ _ _ _ _ => 32
  | .subb _ _ _ _ _ _ => 32
  | .addImm _ _ _ _ _ => 32
  | .mul _ _ _ _ _ _ => 32
  | .mulhSS _ _ _ _ _ _ => 32
  | .mulhNN _ _ _ _ _ _ => 32
  | .mulhSN _ _ _ _ _ _ => 32
  | .mad _ _ _ _ _ _ _ => 32
  | .madw _ _ _ _ _ _ _ => 32
  | .div _ _ _ _ _ _ => 32
  | .and _ _ _ _ _ _ => 32
  | .or _ _ _ _ _ _ => 32
  | .xor _ _ _ _ _ _ => 32
  | .andn _ _ _ _ _ _ => 32
  | .shl _ _ _ _ _ _ => 32
  | .shrN _ _ _ _ _ _ => 32
  | .shrS _ _ _ _ _ _ => 32
  | .rot _ _ _ _ _ _ => 32
  | .shf _ _ _ _ _ _ _ => 32
  | .imin _ _ _ _ _ _ _ => 32
  | .imax _ _ _ _ _ _ _ => 32
  | .popc _ _ _ _ _ => 32
  | .clz _ _ _ _ _ => 32
  | .brev _ _ _ _ _ => 32
  | .iabs _ _ _ _ _ => 32
  | .bfe _ _ _ _ _ _ _ => 32
  | .bfi _ _ _ _ _ _ => 32
  | .lea _ _ _ _ _ _ _ => 32
  | .icmp _ _ _ _ _ _ _ => 32
  | .fcmp _ _ _ _ _ _ _ => 32
  | .plop _ _ _ _ _ => 32
  | .mov _ _ _ _ _ => 32
  | .movs _ _ _ _ => 32
  | .smov _ _ _ _ => 32
  | .movpToReg _ _ => 32
  | .movpToPreds _ _ _ => 32
  | .sel _ _ _ _ _ _ => 32
  | .ldi _ _ _ => 32
  | .ldhi _ _ _ => 32
  | .fadd _ _ _ _ _ _ => 32
  | .fsub _ _ _ _ _ _ => 32
  | .fmul _ _ _ _ _ _ => 32
  | .ffma _ _ _ _ _ _ _ => 32
  | .fmin _ _ _ _ _ _ _ => 32
  | .fmax _ _ _ _ _ _ _ => 32
  | .fsfu _ _ _ _ _ _ => 32
  | .fcvt _ _ _ _ _ _ _ => 32
  | .frnd _ _ _ _ _ _ => 32
  | .fadd2 _ _ _ _ _ _ _ => 32
  | .fmul2 _ _ _ _ _ _ _ => 32
  | .ffma2H _ _ _ _ _ _ _ => 32
  | .ffma2B _ _ _ _ _ _ _ => 32
  | .fdot _ _ _ _ _ _ _ => 32
  | .idot _ _ _ _ _ _ _ => 32
  | .shfl _ _ _ _ _ _ => 32
  | .vote _ _ _ _ _ => 32
  | .matchAny _ _ _ _ => 32
  | .matchAll _ _ _ _ _ => 32
  | .gred _ _ _ _ _ => 32
  | .gscan _ _ _ _ _ _ => 32
  | .ddx _ _ _ _ _ => 32
  | .ddy _ _ _ _ _ => 32
  | .bfly _ _ _ _ _ => 32
  | .dotp4 _ _ _ _ _ => 32
  | .ld _ _ _ _ _ _ => 32
  | .st _ _ _ _ _ _ => 32
  | .atom _ _ _ _ _ => 32
  | .red _ _ _ _ _ => 32
  | .fence _ _ _ _ => 32
  | .pfetch _ _ _ _ => 32
  | .cflush _ _ _ _ => 32
  | .cinv _ _ _ _ => 32
  | .cwb _ _ _ _ => 32
  | .ldc _ _ _ _ => 32
  | .cpy _ _ _ _ _ _ => 32
  | .wtag _ _ _ _ => 32
  | .ftag _ _ _ _ => 32
  | .tagclr _ _ _ => 32
  | .tlwait _ _ _ _ => 32
  | .tlread _ _ _ _ => 32
  | .tlnote _ _ => 32
  | .cvset _ _ _ => 32
  | .mma _ _ _ _ _ _ _ _ => 32
  | .mzero _ _ _ => 32
  | .mld _ _ _ _ _ _ => 32
  | .mdrain _ _ _ _ _ _ => 32
  | .mtile _ _ => 32
  | .bar _ => 32
  | .gbar _ => 32
  | .lock _ _ _ => 32
  | .unlock _ _ _ => 32
  | .phreg _ _ _ _ _ => 32
  | .phsig _ _ _ _ => 32
  | .phwait _ _ _ _ => 32
  | .phdrop _ _ _ => 32
  | .trace _ _ _ _ => 32
  | .traceWait _ _ _ _ _ => 32
  | .rayld _ _ _ _ _ => 32
  | .hitrpt _ _ _ _ => 32
  | .tex _ _ _ _ _ => 32
  | .texn _ _ _ _ _ => 32
  | .pxld _ _ _ => 32
  | .pxst _ _ _ _ => 32
  | .pxout _ _ _ _ => 32
  | .pxoutDiscard _ => 32
  | .ipa _ _ _ _ => 32
  | .emit _ _ _ _ => 32
  | .next _ => 32
  | .nextp _ _ => 32
  | .nextpN _ _ => 32
  | .call _ => 32
  | .nop _ => 32
  | .bkpt  => 32
  | .trap _ _ => 32
  | .tret  => 32
  | .srd _ _ _ => 32
  | .swr _ _ _ => 32
  | .tstamp _ _ => 32
  | .sleep _ _ => 32
  | .yield  => 32
  | .exit _ => 32
  | .ret  => 32
  | .nextx _ => 32
  | .callx _ => 32
  | .launch _ _ _ => 32
  | .joinc _ => 32
  | .quota _ => 32
  | .setpri _ _ => 32
  | .rmat _ _ => 32
  | .rdrop _ _ => 32
  | .callk _ _ => 32
  | _ => 0


end Sys2Proof
end

