-- ==== Sys2Proof/WellFormed.lean ====
section
/-! DEFINITION. Well-formedness: the decode checks of R364 that a word's fields do not settle by themselves, each with the info
code it raises (0 where the rule names none), and the checks of a prefix payload against its instruction (R347, R348). -/
namespace Sys2Proof

/-- The register limits of FCVT by conversion code (R368, R403). -/
def fcvtOk (d a : XReg) (c : Fin 64) (r : Fin 4) : Bool :=
  c.val ≤ 0x15 && (!(c.val == 4 || c.val == 10) || d.val % 2 == 0) && (!(c.val == 5 || c.val == 11) || a.val % 2 == 0)
    && (!((2 ≤ c.val && c.val ≤ 4) || 0x11 ≤ c.val) || r.val == 0)
/-- The destination limits of VOTE (R468). -/
def voteOk (d : XReg) (mode : Fin 4) : Bool :=
  if mode.val ≤ 1 then d.val < 8 else if mode.val == 2 then d.val % 2 == 0 else true
/-- A power of two below 64 (R376). -/
def isPow2 (m : Nat) : Bool := [1, 2, 4, 8, 16, 32].contains m
/-- The limits on T by SIZE (R340). -/
def memRegOk (size : Fin 8) (t : XReg) : Bool :=
  if size.val == 5 then t.val % 2 == 0 else if size.val == 6 then t.val % 4 == 0 else true
/-- The OP codes and limits on T of an atomic (R198, R199). -/
def atomOk (op : Fin 32) (w : Bool) (t : XReg) : Bool :=
  op.val ≤ 16 && (!w || op.val < 12)
    && (if op.val == 9 then (if w then t.val % 4 == 0 else t.val % 2 == 0) else !w || t.val % 2 == 0)
/-- The operand limits of LDC (R365). -/
def ldcOk (d a : YReg) (w : Fin 4) : Bool :=
  w.val ≤ 2 && a.val % 2 == 0 && 16 ≤ d.val && (w.val != 1 || d.val % 2 == 0) && (w.val != 2 || d.val % 4 == 0)
/-- The operand limits of an MMA operand (R216). -/
def mmaRegOk (s : Bool) (n : XReg) : Bool := if s then n.val ≤ 30 && n.val % 2 == 0 else n.val % 8 == 0
/-- The kinds and operand limits of MLD (R221, R430); L only where A names an x register (R364). -/
def mldOk (kind : Fin 8) (a b : XReg) (l : Bool) : Bool :=
  match kind.val with
  | 0 => b.val == 0
  | 1 => a.val ≤ 30 && a.val % 2 == 0 && b.val == 0 && !l
  | 2 => a.val % 2 == 0
  | _ => false
/-- The kinds and operand limits of MDRAIN (R221, R430). -/
def mdrainOk (kind : Fin 8) (a b : XReg) (l : Bool) : Bool :=
  match kind.val with
  | 0 => b.val == 0
  | 1 => a.val ≤ 30 && a.val % 2 == 0 && b.val == 0 && !l
  | 2 => a.val % 2 == 0
  | 3 => b.val == 0
  | 4 => true
  | _ => false
/-- Whether a system register number is assigned (R107). -/
def srKnown (n : Nat) : Bool := n ≤ 0x21 || (0x30 ≤ n && n ≤ 0x44 )
/-- SRD: an assigned number, and an even destination for 64 bits (R106). -/
def srdOk (n : Fin 1024) (d : XReg) : Bool := srKnown n.val && (!sr64 n.val || d.val % 2 == 0)
/-- The system registers SWR may name: FSTAT, FMODE, MFMT, MSTEP, SEED, TRAPPC (R107). -/
def srWritable (n : Nat) : Bool := (0x1A ≤ n && n ≤ 0x1E) || n == 0x41
/-- SWR: a register that is not RO, and an even source for 64 bits (R106). -/
def swrOk (n : Fin 1024) (d : XReg) : Bool := srWritable n.val && (!sr64 n.val || d.val % 2 == 0)

/-- The field limits of each instruction word that its format leaves to the entry (R338, R364 to R370). -/
def Instr.fieldsOk : Instr → Bool
  | .ld16 _ s _ => s.val % 2 == 0
  | .st16 _ s _ => s.val % 2 == 0
  | .addc _ d a b _ _ => d.val % 2 == 0 && a.val % 2 == 0 && b.val % 2 == 0
  | .subb _ d a b _ _ => d.val % 2 == 0 && a.val % 2 == 0 && b.val % 2 == 0
  | .madw _ d _ _ c _ _ => d.val % 2 == 0 && c.val % 2 == 0
  | .div _ d _ _ _ _ => d.val % 2 == 0
  | .lea _ d a _ _ _ _ => d.val % 2 == 0 && a.val % 2 == 0
  | .movs _ _ a k => !k || a.val < 16
  | .smov _ d _ _ => d.val >= 16
  | .fsfu _ _ _ f _ _ => f.val <= 10
  | .fcvt _ d a c r _ _ => fcvtOk d a c r
  | .vote _ d _ _ mode => voteOk d mode
  | .matchAny _ d _ _ => d.val % 2 == 0
  | .matchAll _ d _ _ _ => d.val % 2 == 0
  | .gred _ _ _ c _ => c.val <= 10
  | .gscan _ _ _ c _ _ => c.val <= 10
  | .bfly _ _ _ m _ => isPow2 m.val && m.val <= 32
  | .dotp4 _ d a b _ => a.val % 4 == 0 && b.val % 4 == 0 && d.val / 4 != a.val / 4 && d.val / 4 != b.val / 4
  | .ld _ size xm idx _ t => memRegOk size t && (xm.val != 0 || idx.val == 0)
  | .st _ size xm idx _ t => memRegOk size t && (xm.val != 0 || idx.val == 0)
  | .atom _ op w _ t => atomOk op w t
  | .red _ op w _ t => atomOk op w t && op.val != 8 && op.val != 9
  | .fence _ _ _ scope => scope.val <= 10
  | .pfetch _ xm idx _ => (xm.val != 0 || idx.val == 0)
  | .cflush _ xm idx _ => (xm.val != 0 || idx.val == 0)
  | .cinv _ xm idx _ => (xm.val != 0 || idx.val == 0)
  | .cwb _ xm idx _ => (xm.val != 0 || idx.val == 0)
  | .ldc _ d a w => ldcOk d a w
  | .cpy _ _ _ _ _ desc => desc.val < 16
  | .wtag _ a _ _ => a.val % 2 == 0
  | .ftag _ d a _ => d.val % 2 == 0 && a.val % 2 == 0
  | .tagclr _ a _ => a.val % 2 == 0
  | .tlwait _ a b _ => a.val % 2 == 0 && b.val % 2 == 0
  | .tlread _ d a _ => d.val % 4 == 0 && a.val % 2 == 0
  | .tlnote _ d => d.val % 2 == 0
  | .mma _ _ _ _ sa sb a b => mmaRegOk sa a && mmaRegOk sb b
  | .mzero _ _ kind => kind.val <= 1
  | .mld _ _ kind a b l => mldOk kind a b l
  | .mdrain _ _ kind a b l => mdrainOk kind a b l
  | .mtile _ a => a.val % 2 == 0
  | .lock _ a _ => a.val % 2 == 0
  | .unlock _ a _ => a.val % 2 == 0
  | .phreg _ _ _ mode _ => 1 <= mode.val && mode.val <= 3
  | .trace _ a b _ => a.val % 2 == 0 && b.val % 2 == 0
  | .traceWait _ _ a b _ => a.val % 2 == 0 && b.val % 2 == 0
  | .rayld _ d a _ _ => a.val % 2 == 0 && d.val % 4 == 0
  | .hitrpt _ a _ _ => a.val % 2 == 0
  | .tex _ d a b _ => d.val % 4 == 0 && a.val % 4 == 0 && b.val % 2 == 0
  | .texn _ d a b _ => d.val % 4 == 0 && a.val % 4 == 0 && b.val % 2 == 0
  | .pxout _ a n _ => n.val != 0 && a.val + n.val <= 64
  | .ipa _ _ m i => m.val <= 2 && i.val <= 15
  | .emit _ a _ _ => a.val % 2 == 0
  | .srd _ d num => srdOk num d
  | .swr _ d num => swrOk num d
  | .tstamp _ d => d.val % 2 == 0
  | .nextx a => a.val % 2 == 0
  | .callx a => a.val % 2 == 0
  | .launch _ _ a => a.val % 2 == 0
  | .setpri _ n => n.val <= 7
  | .rmat _ a => a.val % 2 == 0
  | .rdrop _ a => a.val % 2 == 0
  | .callk _ a => a.val % 2 == 0
  | _ => true

/-- Whether a destination of the instruction is also one of its sources (R99). -/
def Instr.selfRead (i : Instr) : Bool := i.dstX.any i.srcX.contains

/-- The info codes of R108 that a decode check of this chapter raises. -/
def codeKself : Nat := 0x05
/-- Info code KLAST (R108). -/
def codeKlast : Nat := 0x06

/-- The decode check of one instruction word: the info code of the check that fails, if any. A K bit with an L mark is KLAST,
and with a destination that is also a source KSELF (R99). -/
def Instr.wfCode (i : Instr) : Option Nat :=
  if !i.fieldsOk then some 0
  else if i.kBit && i.lBit then some codeKlast
  else if i.kBit && i.selfRead then some codeKself
  else none

/-- An instruction that no decode check of its word refuses (R364). -/
def Instr.wf (i : Instr) : Bool := i.wfCode.isNone

/-- Info code FMTPAIR (R234). -/
def codeFmtpair : Nat := 0x19
/-- Info code PHSCOPE (R234). -/
def codePhscope : Nat := 0x1C

/-- The classes of a prefix payload (R348). -/
inductive PfxClass where
  | memory | float | engine | matrix
  deriving DecidableEq, Repr

/-- The class of a payload, its bits 24 and 23 (R348). -/
def pfxClass (payload : Nat) : PfxClass :=
  match payload / 2 ^ 23 % 4 with
  | 0 => .memory | 1 => .float | 2 => .engine | _ => .matrix

/-- A two's complement reading of the low `n` bits of `v` (R339). -/
def signedField (v n : Nat) : Int := if v % 2 ^ n < 2 ^ (n - 1) then (v % 2 ^ n : Nat) else (v % 2 ^ n : Nat) - (2 ^ n : Nat)

/-- The fields of a memory-class payload (R371). -/
structure MemPfx where
  scope : Nat
  order : Nat
  hint : Nat := 0
  scale : Nat := 0
  lb : Bool := false
  li : Bool := false
  k : Bool := false
  off : Int := 0
  deriving DecidableEq, Repr

/-- The two forms of the memory class (R371). -/
def memPfx (w : Nat) : MemPfx :=
  if w / 2 ^ 22 % 2 == 0 then
    { scope := w / 2 ^ 18 % 16, order := w / 2 ^ 16 % 4, off := signedField w 16 }
  else
    { scope := w / 2 ^ 10 % 16, order := w / 2 ^ 8 % 4, hint := w / 2 ^ 17 % 4, scale := w / 2 ^ 19 % 8,
      lb := w / 2 ^ 16 % 2 == 1, li := w / 2 ^ 15 % 2 == 1, k := w / 2 ^ 14 % 2 == 1, off := signedField w 8 }

/-- The fields of a float-class payload (R373). -/
structure FloatPfx where
  rnd : Nat := 0
  ftz : Bool := false
  sat : Bool := false
  sr : Bool := false
  dfmt : Nat := 0
  na : Bool := false
  nb : Bool := false
  deriving DecidableEq, Repr

/-- The float class (R373). -/
def floatPfx (w : Nat) : FloatPfx :=
  { rnd := w / 2 ^ 21 % 4, ftz := w / 2 ^ 20 % 2 == 1, sat := w / 2 ^ 19 % 2 == 1, sr := w / 2 ^ 18 % 2 == 1,
    dfmt := w / 2 ^ 14 % 16, na := w / 2 ^ 13 % 2 == 1, nb := w / 2 ^ 12 % 2 == 1 }

/-- The fields of an engine-class payload (R374). -/
structure EngPfx where
  ectx : Nat := 0
  scope : Nat := 0
  own : Bool := false
  untrk : Bool := false
  deriving DecidableEq, Repr

/-- The engine class (R374). -/
def engPfx (w : Nat) : EngPfx :=
  { ectx := w / 2 ^ 19 % 16, scope := w / 2 ^ 15 % 16, own := w / 2 ^ 14 % 2 == 1, untrk := w / 2 ^ 13 % 2 == 1 }

/-- The fields of a matrix-class payload as MDRAIN and MLD read it (R375). -/
structure DrainPfx where
  trk : Bool := false
  ectx : Nat := 0
  scope : Nat := 0
  own : Bool := false
  fmt : Nat := 0
  rnd : Nat := 0
  sr : Bool := false
  sat : Bool := false
  deriving DecidableEq, Repr

/-- The matrix class on MDRAIN; MLD takes `fmt` alone (R375). -/
def drainPfx (w : Nat) : DrainPfx :=
  { trk := w / 2 ^ 22 % 2 == 1, ectx := w / 2 ^ 18 % 16, scope := w / 2 ^ 14 % 16, own := w / 2 ^ 13 % 2 == 1,
    fmt := w / 2 ^ 10 % 8, rnd := w / 2 ^ 8 % 4, sr := w / 2 ^ 7 % 2 == 1, sat := w / 2 ^ 6 % 2 == 1 }

/-- The operand formats of an MMA payload (R375). -/
def mmaAfmt (w : Nat) : Nat := w / 2 ^ 18 % 32
/-- The B format of an MMA payload (R375). -/
def mmaBfmt (w : Nat) : Nat := w / 2 ^ 13 % 32

/-- `some 0` unless the condition holds: a reserved payload (R348). -/
def orReserved (c : Bool) : Option Nat := if c then none else some 0

/-- The memory-class limits shared by every instruction: the scope and the scale codes (R371). -/
def MemPfx.ok (m : MemPfx) : Bool := m.scope ≤ 10 && m.scale ≤ 5
/-- No field but scope, order, hint and offset is set. -/
def MemPfx.plain (m : MemPfx) : Bool := m.scale == 0 && !m.lb && !m.li && !m.k

/-- The memory-class fields each instruction may set (R372, R183). -/
def memPfxCode (w : Nat) : Instr → Option Nat
  | .ld _ size xm idx b t =>
    let m := memPfx w
    if !(m.ok && m.order ≤ 1 && (!m.li || xm.val != 0) && (!m.k || m.order == 0)) then some 0
    else if m.k && (m.lb || m.li) then some codeKlast
    else if m.k && (sizeR size t).any (pairR (2 * b.val) ++ idxR xm idx).contains then some codeKself
    else none
  | .st _ _ xm _ _ _ =>
    let m := memPfx w
    orReserved (m.ok && (m.order == 0 || m.order == 2) && (!m.li || xm.val != 0) && !m.k)
  | .pfetch _ xm _ _ | .cflush _ xm _ _ | .cinv _ xm _ _ | .cwb _ xm _ _ =>
    let m := memPfx w
    orReserved (m.ok && m.order == 0 && m.scope == 0 && m.hint == 0 && (!m.li || xm.val != 0) && !m.k)
  | .atom .. => let m := memPfx w; orReserved (m.ok && m.scale == 0 && !m.li && !m.k)
  | .red .. => let m := memPfx w; orReserved (m.ok && (m.order == 0 || m.order == 2) && m.scale == 0 && !m.li && !m.k)
  | .ldc .. => let m := memPfx w; orReserved (m.ok && m.order ≤ 1 && m.plain)
  | .lock .. | .unlock .. => let m := memPfx w; orReserved (m.ok && m.order == 0 && m.hint == 0 && m.plain)
  | .phreg .. =>
    let m := memPfx w
    if !(m.order == 0 && m.hint == 0 && m.plain && m.off == 0) then some 0
    else if m.scope ≤ 10 then none else some codePhscope
  | .rayld .. => let m := memPfx w; orReserved (m.ok && m.order ≤ 1 && m.plain && m.off == 0)
  | _ => some 0

/-- Which float-class fields an instruction takes: RND, SAT, SR, DFMT and the signedness bits (R373). -/
def floatPfxOk (f : FloatPfx) (rnd ftz sat sr dfmt sgn : Bool) : Bool :=
  (rnd || f.rnd == 0) && (ftz || !f.ftz) && (sat || !f.sat) && (sr || !f.sr) && (!f.sr || f.rnd == 0)
    && (if dfmt then f.dfmt ≤ 3 else f.dfmt == 0) && (sgn || (!f.na && !f.nb))

/-- The FCVT codes that allow stochastic rounding (R368, R119). -/
def srConversion (c : Nat) : Bool := c ≤ 1 || (0x0C ≤ c && c ≤ 0x10)

/-- The float-class fields each instruction may set (R373, R369, R115). -/
def floatPfxCode (w : Nat) (i : Instr) : Option Nat :=
  let f := floatPfx w
  let low := w % 2 ^ 12 == 0
  match i with
  | .fadd .. | .fsub .. | .fmul .. | .ffma .. | .fadd2 .. | .fmul2 .. | .ffma2H .. | .ffma2B .. =>
    orReserved (low && floatPfxOk f true true true false false false)
  | .fsfu .. => orReserved (low && floatPfxOk f true true false false false false)
  | .fmin .. | .fmax .. => orReserved (low && floatPfxOk f false true true false false false)
  | .fcvt _ _ _ c _ _ k => orReserved (low && floatPfxOk f false true true (srConversion c.val && !k) false false)
  | .frnd .. | .fcmp .. => orReserved (low && floatPfxOk f false true false false false false)
  | .fdot .. => orReserved (low && floatPfxOk f true true true false true false)
  | .idot .. => orReserved (low && floatPfxOk f false false true false false true)
  | .gred _ _ _ c _ | .gscan _ _ _ c _ _ => orReserved (8 ≤ c.val && low && floatPfxOk f true true false false false false)
  | _ => some 0

/-- The engine-class combinations each instruction may carry (R374). -/
def engPfxCode (w : Nat) (i : Instr) : Option Nat :=
  let e := engPfx w
  let base := w % 2 ^ 13 == 0 && e.scope ≤ 10 && (!e.own || e.scope == 0)
  match i with
  | .trace .. | .traceWait .. | .mdrain .. => orReserved (base && (!e.untrk || (e.ectx == 0 && !e.own)))
  | .tlwait .. | .tlread .. => orReserved (base && !e.untrk && (e.own || e.ectx == 0))
  | .tlnote .. => orReserved (base && !e.untrk)
  | _ => some 0

/-- The matrix-class combinations each instruction may carry (R375, R218, R119, R221). -/
def matrixPfxCode (w : Nat) (i : Instr) : Option Nat :=
  match i with
  | .mma _ _ _ _ sa sb _ _ =>
    if !(w % 2 ^ 13 == 0 && mmaAfmt w ≤ 13 && mmaBfmt w ≤ 13) then some 0
    else if (!sa && 1 ≤ mmaAfmt w && mmaAfmt w ≤ 9) || (!sb && 1 ≤ mmaBfmt w && mmaBfmt w ≤ 9) then some codeFmtpair
    else none
  | .mld _ _ kind _ _ _ =>
    let f := (drainPfx w).fmt
    orReserved (w % 2 ^ 10 == 0 && w / 2 ^ 13 % 2 ^ 10 == 0 && f != 6 && !(kind.val == 0 && f == 7))
  | .mdrain _ _ kind _ _ _ =>
    let m := drainPfx w
    orReserved (w % 2 ^ 6 == 0 && m.scope ≤ 10 && (m.trk || (m.ectx == 0 && m.scope == 0 && !m.own))
      && (!m.own || m.scope == 0) && (!m.sr || (1 ≤ m.fmt && m.fmt ≤ 4)) && !(kind.val == 0 && m.fmt == 7))
  | _ => some 0

/-- The check of a unit: the info code of the ILLEGAL that a payload raises on the instruction after it, if any (R347, R348). -/
def pfxCode (payload : Nat) (i : Instr) : Option Nat :=
  match pfxClass payload with
  | .memory => memPfxCode payload i
  | .float => floatPfxCode payload i
  | .engine => engPfxCode payload i
  | .matrix => matrixPfxCode payload i

end Sys2Proof
end

