-- ==== Sys2Proof/Decode.lean ====
section
/-! DEFINITION. Decoding: a 16-bit or 32-bit word to an instruction or the info code of the ILLEGAL it raises (R334, R364), in the
three stages of 14_opcodes.md: the length bit, the major opcode or op4, and the selector inside the format; then the encoder,
written from the same tables. Every field is taken by division, so that no bit is named twice. -/
namespace Sys2Proof

/-- The field of `n` bits of `w` at bit `lo`. -/
def fld (w lo n : Nat) : Nat := w / 2 ^ lo % 2 ^ n
/-- Bit `lo` of `w`. -/
def bitAt (w lo : Nat) : Bool := w / 2 ^ lo % 2 == 1
/-- The field at bit `lo` as a number below `n`, for `n` a power of two. -/
def fin {n : Nat} [NeZero n] (w lo : Nat) : Fin n := Fin.ofNat n (w / 2 ^ lo)

/-- Why a word does not decode: ILLEGAL with an info code, 0 for none (R364). -/
structure DecodeError where
  code : Nat
  deriving DecidableEq, Repr

/-- A reserved encoding: info code 0 (R364). -/
def reserved : Except DecodeError Instr := .error ⟨0⟩

/-- The instruction, when the fixed fields of its encoding hold (R364). -/
def whenFixed (c : Bool) (i : Instr) : Except DecodeError Instr := if c then .ok i else reserved

/-- The 16-bit table by op4 (R337). -/
def decode16 (w : Nat) : Except DecodeError Instr :=
  match fld w 1 4 with
  | 0 => whenFixed (true) (.add16 (bitAt w 15) (fin w 10) (fin w 5))
  | 1 => whenFixed (true) (.sub16 (bitAt w 15) (fin w 10) (fin w 5))
  | 2 => whenFixed (true) (.mul16 (bitAt w 15) (fin w 10) (fin w 5))
  | 3 => whenFixed (true) (.and16 (bitAt w 15) (fin w 10) (fin w 5))
  | 4 => whenFixed (true) (.or16 (bitAt w 15) (fin w 10) (fin w 5))
  | 5 => whenFixed (true) (.xor16 (bitAt w 15) (fin w 10) (fin w 5))
  | 6 => whenFixed (fld w 15 1 == 0) (.shl16 (fin w 10) (fin w 5))
  | 7 => whenFixed (fld w 15 1 == 0) (.shrN16 (fin w 10) (fin w 5))
  | 8 => whenFixed (true) (.mov16 (bitAt w 15) (fin w 10) (fin w 5))
  | 9 => whenFixed (fld w 15 1 == 0) (.ldi16 (fin w 10) (fin w 5))
  | 10 => whenFixed (fld w 15 1 == 0) (.addi16 (fin w 10) (fin w 5))
  | 11 => whenFixed (true) (.fadd16 (bitAt w 15) (fin w 10) (fin w 5))
  | 12 => whenFixed (true) (.fsub16 (bitAt w 15) (fin w 10) (fin w 5))
  | 13 => whenFixed (true) (.fmul16 (bitAt w 15) (fin w 10) (fin w 5))
  | 14 => whenFixed (true) (.ld16 (bitAt w 15) (fin w 10) (fin w 5))
  | 15 => whenFixed (true) (.st16 (bitAt w 15) (fin w 10) (fin w 5))
  | _ => reserved

/-- Major 0x00 (R365). -/
def decodeMajor00 (w : Nat) : Except DecodeError Instr :=
  .ok (.clause (fin w 27) (fin w 23) (fin w 19) (fin w 7))

/-- Major 0x01 (R365). -/
def decodeMajor01 (w : Nat) : Except DecodeError Instr :=
  .ok (.pfx (fin w 7))

/-- Major 0x02 (R365). -/
def decodeMajor02 (w : Nat) : Except DecodeError Instr :=
  if fld w 12 2 == 0 then .ok (.add (fin w 7) (fin w 14) (fin w 20) (fin w 26) (bitAt w 11) (bitAt w 10))
  else if fld w 12 2 == 1 then .ok (.addc (fin w 7) (fin w 14) (fin w 20) (fin w 26) (bitAt w 11) (bitAt w 10))
  else if fld w 12 2 == 2 then .ok (.sub (fin w 7) (fin w 14) (fin w 20) (fin w 26) (bitAt w 11) (bitAt w 10))
  else if fld w 12 2 == 3 then .ok (.subb (fin w 7) (fin w 14) (fin w 20) (fin w 26) (bitAt w 11) (bitAt w 10))
  else reserved

/-- Major 0x03 (R365). -/
def decodeMajor03 (w : Nat) : Except DecodeError Instr :=
  .ok (.addImm (fin w 7) (fin w 11) (fin w 17) (fin w 23) (bitAt w 10))

/-- Major 0x04 (R365). -/
def decodeMajor04 (w : Nat) : Except DecodeError Instr :=
  if fld w 12 2 == 0 then .ok (.mul (fin w 7) (fin w 14) (fin w 20) (fin w 26) (bitAt w 11) (bitAt w 10))
  else if fld w 12 2 == 1 then .ok (.mulhSS (fin w 7) (fin w 14) (fin w 20) (fin w 26) (bitAt w 11) (bitAt w 10))
  else if fld w 12 2 == 2 then .ok (.mulhNN (fin w 7) (fin w 14) (fin w 20) (fin w 26) (bitAt w 11) (bitAt w 10))
  else if fld w 12 2 == 3 then .ok (.mulhSN (fin w 7) (fin w 14) (fin w 20) (fin w 26) (bitAt w 11) (bitAt w 10))
  else reserved

/-- Major 0x05 (R365). -/
def decodeMajor05 (w : Nat) : Except DecodeError Instr :=
  .ok (.mad (fin w 7) (fin w 11) (fin w 16) (fin w 21) (fin w 26) (bitAt w 31) (bitAt w 10))

/-- Major 0x06 (R365). -/
def decodeMajor06 (w : Nat) : Except DecodeError Instr :=
  .ok (.madw (fin w 7) (fin w 11) (fin w 16) (fin w 21) (fin w 26) (bitAt w 31) (bitAt w 10))

/-- Major 0x07 (R365). -/
def decodeMajor07 (w : Nat) : Except DecodeError Instr :=
  if fld w 10 1 == 0 && fld w 13 1 == 0 then .ok (.div (fin w 7) (fin w 14) (fin w 20) (fin w 26) (bitAt w 12) (bitAt w 11))
  else reserved

/-- Major 0x08 (R365). -/
def decodeMajor08 (w : Nat) : Except DecodeError Instr :=
  if fld w 12 2 == 0 then .ok (.and (fin w 7) (fin w 14) (fin w 20) (fin w 26) (bitAt w 11) (bitAt w 10))
  else if fld w 12 2 == 1 then .ok (.or (fin w 7) (fin w 14) (fin w 20) (fin w 26) (bitAt w 11) (bitAt w 10))
  else if fld w 12 2 == 2 then .ok (.xor (fin w 7) (fin w 14) (fin w 20) (fin w 26) (bitAt w 11) (bitAt w 10))
  else if fld w 12 2 == 3 then .ok (.andn (fin w 7) (fin w 14) (fin w 20) (fin w 26) (bitAt w 11) (bitAt w 10))
  else reserved

/-- Major 0x09 (R365). -/
def decodeMajor09 (w : Nat) : Except DecodeError Instr :=
  if fld w 12 2 == 0 then .ok (.shl (fin w 7) (fin w 14) (fin w 20) (fin w 26) (bitAt w 11) (bitAt w 10))
  else if fld w 12 2 == 1 then .ok (.shrN (fin w 7) (fin w 14) (fin w 20) (fin w 26) (bitAt w 11) (bitAt w 10))
  else if fld w 12 2 == 2 then .ok (.shrS (fin w 7) (fin w 14) (fin w 20) (fin w 26) (bitAt w 11) (bitAt w 10))
  else if fld w 12 2 == 3 then .ok (.rot (fin w 7) (fin w 14) (fin w 20) (fin w 26) (bitAt w 11) (bitAt w 10))
  else reserved

/-- Major 0x0A (R365). -/
def decodeMajor0A (w : Nat) : Except DecodeError Instr :=
  .ok (.shf (fin w 7) (fin w 11) (fin w 16) (fin w 21) (fin w 26) (bitAt w 31) (bitAt w 10))

/-- Major 0x0B (R365). -/
def decodeMajor0B (w : Nat) : Except DecodeError Instr :=
  if fld w 13 1 == 0 then .ok (.imin (fin w 7) (fin w 14) (fin w 20) (fin w 26) (bitAt w 12) (bitAt w 11) (bitAt w 10))
  else if fld w 13 1 == 1 then .ok (.imax (fin w 7) (fin w 14) (fin w 20) (fin w 26) (bitAt w 12) (bitAt w 11) (bitAt w 10))
  else reserved

/-- Major 0x0C (R365). -/
def decodeMajor0C (w : Nat) : Except DecodeError Instr :=
  if fld w 12 2 == 0 && fld w 26 6 == 0 then .ok (.popc (fin w 7) (fin w 14) (fin w 20) (bitAt w 11) (bitAt w 10))
  else if fld w 12 2 == 1 && fld w 26 6 == 0 then .ok (.clz (fin w 7) (fin w 14) (fin w 20) (bitAt w 11) (bitAt w 10))
  else if fld w 12 2 == 2 && fld w 26 6 == 0 then .ok (.brev (fin w 7) (fin w 14) (fin w 20) (bitAt w 11) (bitAt w 10))
  else if fld w 12 2 == 3 && fld w 26 6 == 0 then .ok (.iabs (fin w 7) (fin w 14) (fin w 20) (bitAt w 11) (bitAt w 10))
  else reserved

/-- Major 0x0D (R365). -/
def decodeMajor0D (w : Nat) : Except DecodeError Instr :=
  if fld w 13 1 == 0 then .ok (.bfe (fin w 7) (fin w 14) (fin w 20) (fin w 26) (bitAt w 12) (bitAt w 11) (bitAt w 10))
  else if fld w 12 2 == 2 then .ok (.bfi (fin w 7) (fin w 14) (fin w 20) (fin w 26) (bitAt w 11) (bitAt w 10))
  else reserved

/-- Major 0x0E (R365). -/
def decodeMajor0E (w : Nat) : Except DecodeError Instr :=
  .ok (.lea (fin w 7) (fin w 14) (fin w 20) (fin w 26) (fin w 12) (bitAt w 11) (bitAt w 10))

/-- Major 0x0F (R365). -/
def decodeMajor0F (w : Nat) : Except DecodeError Instr :=
  if fld w 10 1 == 0 then .ok (.icmp (fin w 7) (fin w 14) (fin w 20) (fin w 26) (fin w 17) (fin w 12) (bitAt w 11))
  else reserved

/-- Major 0x10 (R365). -/
def decodeMajor10 (w : Nat) : Except DecodeError Instr :=
  if fld w 10 1 == 0 then .ok (.fcmp (fin w 7) (fin w 14) (fin w 20) (fin w 26) (fin w 17) (fin w 12) (bitAt w 11))
  else reserved

/-- Major 0x11 (R365). -/
def decodeMajor11 (w : Nat) : Except DecodeError Instr :=
  if fld w 10 2 == 0 && fld w 17 3 == 0 && fld w 23 3 == 0 && fld w 29 3 == 0 then .ok (.plop (fin w 7) (fin w 14) (fin w 20) (fin w 26) (fin w 12))
  else reserved

/-- Major 0x12 (R365). -/
def decodeMajor12 (w : Nat) : Except DecodeError Instr :=
  if fld w 12 2 == 0 && fld w 26 6 == 0 then .ok (.mov (fin w 7) (fin w 14) (fin w 20) (bitAt w 11) (bitAt w 10))
  else if fld w 11 3 == 2 && fld w 25 7 == 0 then .ok (.movs (fin w 7) (fin w 14) (fin w 20) (bitAt w 10))
  else if fld w 10 1 == 0 && fld w 12 2 == 2 && fld w 19 1 == 0 && fld w 26 6 == 0 then .ok (.smov (fin w 7) (fin w 14) (fin w 20) (bitAt w 11))
  else if fld w 10 4 == 12 && fld w 20 12 == 0 then .ok (.movpToReg (fin w 7) (fin w 14))
  else if fld w 10 1 == 0 && fld w 12 8 == 3 && fld w 26 6 == 1 then .ok (.movpToPreds (fin w 7) (fin w 20) (bitAt w 11))
  else reserved

/-- Major 0x13 (R365). -/
def decodeMajor13 (w : Nat) : Except DecodeError Instr :=
  if fld w 12 2 == 0 then .ok (.sel (fin w 7) (fin w 14) (fin w 20) (fin w 26) (bitAt w 11) (bitAt w 10))
  else reserved

/-- Major 0x14 (R365). -/
def decodeMajor14 (w : Nat) : Except DecodeError Instr :=
  .ok (.ldi (fin w 7) (fin w 10) (fin w 16))

/-- Major 0x15 (R365). -/
def decodeMajor15 (w : Nat) : Except DecodeError Instr :=
  .ok (.ldhi (fin w 7) (fin w 10) (fin w 16))

/-- Major 0x16 (R365). -/
def decodeMajor16 (w : Nat) : Except DecodeError Instr :=
  if fld w 12 2 == 0 then .ok (.fadd (fin w 7) (fin w 14) (fin w 20) (fin w 26) (bitAt w 11) (bitAt w 10))
  else if fld w 12 2 == 1 then .ok (.fsub (fin w 7) (fin w 14) (fin w 20) (fin w 26) (bitAt w 11) (bitAt w 10))
  else if fld w 12 2 == 2 then .ok (.fmul (fin w 7) (fin w 14) (fin w 20) (fin w 26) (bitAt w 11) (bitAt w 10))
  else reserved

/-- Major 0x17 (R365). -/
def decodeMajor17 (w : Nat) : Except DecodeError Instr :=
  .ok (.ffma (fin w 7) (fin w 11) (fin w 16) (fin w 21) (fin w 26) (bitAt w 31) (bitAt w 10))

/-- Major 0x18 (R365). -/
def decodeMajor18 (w : Nat) : Except DecodeError Instr :=
  if fld w 12 1 == 0 then .ok (.fmin (fin w 7) (fin w 14) (fin w 20) (fin w 26) (bitAt w 13) (bitAt w 11) (bitAt w 10))
  else if fld w 12 1 == 1 then .ok (.fmax (fin w 7) (fin w 14) (fin w 20) (fin w 26) (bitAt w 13) (bitAt w 11) (bitAt w 10))
  else reserved

/-- Major 0x19 (R365). -/
def decodeMajor19 (w : Nat) : Except DecodeError Instr :=
  if fld w 12 2 == 0 then .ok (.fsfu (fin w 7) (fin w 14) (fin w 20) (fin w 26) (bitAt w 11) (bitAt w 10))
  else reserved

/-- Major 0x1A (R365). -/
def decodeMajor1A (w : Nat) : Except DecodeError Instr :=
  .ok (.fcvt (fin w 7) (fin w 14) (fin w 20) (fin w 26) (fin w 12) (bitAt w 11) (bitAt w 10))

/-- Major 0x1B (R365). -/
def decodeMajor1B (w : Nat) : Except DecodeError Instr :=
  if fld w 26 6 == 0 then .ok (.frnd (fin w 7) (fin w 14) (fin w 20) (fin w 12) (bitAt w 11) (bitAt w 10))
  else reserved

/-- Major 0x1C (R365). -/
def decodeMajor1C (w : Nat) : Except DecodeError Instr :=
  if fld w 13 1 == 0 then .ok (.fadd2 (fin w 7) (fin w 14) (fin w 20) (fin w 26) (bitAt w 12) (bitAt w 11) (bitAt w 10))
  else if fld w 13 1 == 1 then .ok (.fmul2 (fin w 7) (fin w 14) (fin w 20) (fin w 26) (bitAt w 12) (bitAt w 11) (bitAt w 10))
  else reserved

/-- Major 0x1D (R365). -/
def decodeMajor1D (w : Nat) : Except DecodeError Instr :=
  .ok (.ffma2H (fin w 7) (fin w 11) (fin w 16) (fin w 21) (fin w 26) (bitAt w 31) (bitAt w 10))

/-- Major 0x1E (R365). -/
def decodeMajor1E (w : Nat) : Except DecodeError Instr :=
  .ok (.ffma2B (fin w 7) (fin w 11) (fin w 16) (fin w 21) (fin w 26) (bitAt w 31) (bitAt w 10))

/-- Major 0x1F (R365). -/
def decodeMajor1F (w : Nat) : Except DecodeError Instr :=
  .ok (.fdot (fin w 7) (fin w 11) (fin w 16) (fin w 21) (fin w 26) (bitAt w 31) (bitAt w 10))

/-- Major 0x20 (R365). -/
def decodeMajor20 (w : Nat) : Except DecodeError Instr :=
  .ok (.idot (fin w 7) (fin w 11) (fin w 16) (fin w 21) (fin w 26) (bitAt w 31) (bitAt w 10))

/-- Major 0x21 (R365). -/
def decodeMajor21 (w : Nat) : Except DecodeError Instr :=
  if fld w 10 1 == 0 then .ok (.shfl (fin w 7) (fin w 14) (fin w 20) (fin w 26) (fin w 12) (bitAt w 11))
  else reserved

/-- Major 0x22 (R365). -/
def decodeMajor22 (w : Nat) : Except DecodeError Instr :=
  if fld w 10 2 == 0 && fld w 23 3 == 0 && fld w 27 5 == 0 then .ok (.vote (fin w 7) (fin w 14) (fin w 20) (bitAt w 26) (fin w 12))
  else reserved

/-- Major 0x23 (R365). -/
def decodeMajor23 (w : Nat) : Except DecodeError Instr :=
  if fld w 10 1 == 0 && fld w 12 2 == 0 && fld w 26 6 == 0 then .ok (.matchAny (fin w 7) (fin w 14) (fin w 20) (bitAt w 11))
  else if fld w 10 1 == 0 && fld w 12 2 == 1 && fld w 29 3 == 0 then .ok (.matchAll (fin w 7) (fin w 14) (fin w 20) (fin w 26) (bitAt w 11))
  else reserved

/-- Major 0x24 (R365). -/
def decodeMajor24 (w : Nat) : Except DecodeError Instr :=
  if fld w 10 1 == 0 && fld w 12 2 == 0 then .ok (.gred (fin w 7) (fin w 14) (fin w 20) (fin w 26) (bitAt w 11))
  else reserved

/-- Major 0x25 (R365). -/
def decodeMajor25 (w : Nat) : Except DecodeError Instr :=
  if fld w 10 1 == 0 && fld w 13 1 == 0 then .ok (.gscan (fin w 7) (fin w 14) (fin w 20) (fin w 26) (bitAt w 12) (bitAt w 11))
  else reserved

/-- Major 0x26 (R365). -/
def decodeMajor26 (w : Nat) : Except DecodeError Instr :=
  if fld w 10 1 == 0 && fld w 12 1 == 0 && fld w 26 6 == 0 then .ok (.ddx (fin w 7) (fin w 14) (fin w 20) (bitAt w 13) (bitAt w 11))
  else if fld w 10 1 == 0 && fld w 12 1 == 1 && fld w 26 6 == 0 then .ok (.ddy (fin w 7) (fin w 14) (fin w 20) (bitAt w 13) (bitAt w 11))
  else reserved

/-- Major 0x27 (R365). -/
def decodeMajor27 (w : Nat) : Except DecodeError Instr :=
  if fld w 10 1 == 0 && fld w 12 2 == 0 then .ok (.bfly (fin w 7) (fin w 14) (fin w 20) (fin w 26) (bitAt w 11))
  else reserved

/-- Major 0x28 (R365). -/
def decodeMajor28 (w : Nat) : Except DecodeError Instr :=
  if fld w 10 1 == 0 && fld w 12 2 == 0 then .ok (.dotp4 (fin w 7) (fin w 14) (fin w 20) (fin w 26) (bitAt w 11))
  else reserved

/-- Major 0x29 (R365). -/
def decodeMajor29 (w : Nat) : Except DecodeError Instr :=
  .ok (.ld (fin w 7) (fin w 29) (fin w 27) (fin w 21) (fin w 16) (fin w 10))

/-- Major 0x2A (R365). -/
def decodeMajor2A (w : Nat) : Except DecodeError Instr :=
  .ok (.st (fin w 7) (fin w 29) (fin w 27) (fin w 21) (fin w 16) (fin w 10))

/-- Major 0x2B (R365). -/
def decodeMajor2B (w : Nat) : Except DecodeError Instr :=
  if fld w 21 5 == 0 then .ok (.atom (fin w 7) (fin w 27) (bitAt w 26) (fin w 16) (fin w 10))
  else reserved

/-- Major 0x2C (R365). -/
def decodeMajor2C (w : Nat) : Except DecodeError Instr :=
  if fld w 21 5 == 0 then .ok (.red (fin w 7) (fin w 27) (bitAt w 26) (fin w 16) (fin w 10))
  else reserved

/-- Major 0x2D (R365). -/
def decodeMajor2D (w : Nat) : Except DecodeError Instr :=
  if fld w 17 15 == 0 then .ok (.fence (fin w 7) (bitAt w 16) (fin w 14) (fin w 10))
  else reserved

/-- Major 0x2E (R365). -/
def decodeMajor2E (w : Nat) : Except DecodeError Instr :=
  if fld w 10 6 == 0 && fld w 29 3 == 0 then .ok (.pfetch (fin w 7) (fin w 27) (fin w 21) (fin w 16))
  else if fld w 10 6 == 0 && fld w 29 3 == 1 then .ok (.cflush (fin w 7) (fin w 27) (fin w 21) (fin w 16))
  else if fld w 10 6 == 0 && fld w 29 3 == 2 then .ok (.cinv (fin w 7) (fin w 27) (fin w 21) (fin w 16))
  else if fld w 10 6 == 0 && fld w 29 3 == 3 then .ok (.cwb (fin w 7) (fin w 27) (fin w 21) (fin w 16))
  else reserved

/-- Major 0x2F (R365). -/
def decodeMajor2F (w : Nat) : Except DecodeError Instr :=
  if fld w 10 2 == 0 && fld w 19 1 == 0 && fld w 25 7 == 0 then .ok (.ldc (fin w 7) (fin w 14) (fin w 20) (fin w 12))
  else reserved

/-- Major 0x30 (R365). -/
def decodeMajor30 (w : Nat) : Except DecodeError Instr :=
  .ok (.cpy (fin w 7) (fin w 28) (fin w 23) (fin w 21) (fin w 15) (fin w 10))

/-- Major 0x31 (R365). -/
def decodeMajor31 (w : Nat) : Except DecodeError Instr :=
  if fld w 10 1 == 0 && fld w 13 7 == 0 && fld w 26 6 == 0 then .ok (.wtag (fin w 7) (fin w 20) (bitAt w 12) (bitAt w 11))
  else if fld w 10 1 == 0 && fld w 12 2 == 2 && fld w 26 6 == 0 then .ok (.ftag (fin w 7) (fin w 14) (fin w 20) (bitAt w 11))
  else if fld w 10 1 == 0 && fld w 12 8 == 3 && fld w 26 6 == 0 then .ok (.tagclr (fin w 7) (fin w 20) (bitAt w 11))
  else reserved

/-- Major 0x32 (R365). -/
def decodeMajor32 (w : Nat) : Except DecodeError Instr :=
  if fld w 10 1 == 0 && fld w 12 8 == 0 then .ok (.tlwait (fin w 7) (fin w 20) (fin w 26) (bitAt w 11))
  else if fld w 10 1 == 0 && fld w 12 2 == 1 && fld w 26 6 == 0 then .ok (.tlread (fin w 7) (fin w 14) (fin w 20) (bitAt w 11))
  else if fld w 10 4 == 8 && fld w 20 12 == 0 then .ok (.tlnote (fin w 7) (fin w 14))
  else reserved

/-- Major 0x33 (R365). -/
def decodeMajor33 (w : Nat) : Except DecodeError Instr :=
  if fld w 10 4 == 0 && fld w 18 2 == 0 && fld w 26 6 == 0 then .ok (.cvset (fin w 7) (fin w 14) (fin w 20))
  else reserved

/-- Major 0x34 (R365). -/
def decodeMajor34 (w : Nat) : Except DecodeError Instr :=
  .ok (.mma (fin w 7) (fin w 14) (fin w 10) (bitAt w 17) (bitAt w 18) (bitAt w 19) (fin w 20) (fin w 26))

/-- Major 0x35 (R365). -/
def decodeMajor35 (w : Nat) : Except DecodeError Instr :=
  if fld w 10 4 == 0 && fld w 20 12 == 0 then .ok (.mzero (fin w 7) (fin w 14) (fin w 17))
  else if fld w 10 1 == 0 && fld w 12 2 == 1 then .ok (.mld (fin w 7) (fin w 14) (fin w 17) (fin w 20) (fin w 26) (bitAt w 11))
  else if fld w 10 1 == 0 && fld w 12 2 == 2 then .ok (.mdrain (fin w 7) (fin w 14) (fin w 17) (fin w 20) (fin w 26) (bitAt w 11))
  else reserved

/-- Major 0x36 (R365). -/
def decodeMajor36 (w : Nat) : Except DecodeError Instr :=
  if fld w 10 10 == 0 && fld w 25 7 == 0 then .ok (.mtile (fin w 7) (fin w 20))
  else reserved

/-- Major 0x37 (R365). -/
def decodeMajor37 (w : Nat) : Except DecodeError Instr :=
  if fld w 10 22 == 0 then .ok (.bar (fin w 7))
  else if fld w 10 22 == 4 then .ok (.gbar (fin w 7))
  else if fld w 10 1 == 0 && fld w 12 8 == 2 && fld w 26 6 == 0 then .ok (.lock (fin w 7) (fin w 20) (bitAt w 11))
  else if fld w 10 1 == 0 && fld w 12 8 == 3 && fld w 26 6 == 0 then .ok (.unlock (fin w 7) (fin w 20) (bitAt w 11))
  else reserved

/-- Major 0x38 (R365). -/
def decodeMajor38 (w : Nat) : Except DecodeError Instr :=
  if fld w 10 1 == 0 && fld w 12 2 == 0 then .ok (.phreg (fin w 7) (fin w 14) (fin w 20) (fin w 26) (bitAt w 11))
  else if fld w 10 1 == 0 && fld w 12 2 == 1 && fld w 26 6 == 0 then .ok (.phsig (fin w 7) (fin w 14) (fin w 20) (bitAt w 11))
  else if fld w 10 1 == 0 && fld w 12 8 == 2 then .ok (.phwait (fin w 7) (fin w 20) (fin w 26) (bitAt w 11))
  else if fld w 10 1 == 0 && fld w 12 8 == 3 && fld w 26 6 == 0 then .ok (.phdrop (fin w 7) (fin w 20) (bitAt w 11))
  else reserved

/-- Major 0x39 (R365). -/
def decodeMajor39 (w : Nat) : Except DecodeError Instr :=
  if fld w 10 1 == 0 && fld w 12 8 == 0 && fld w 31 1 == 0 then .ok (.trace (fin w 7) (fin w 20) (fin w 26) (bitAt w 11))
  else if fld w 10 1 == 0 && fld w 12 2 == 1 && fld w 31 1 == 0 then .ok (.traceWait (fin w 7) (fin w 14) (fin w 20) (fin w 26) (bitAt w 11))
  else reserved

/-- Major 0x3A (R365). -/
def decodeMajor3A (w : Nat) : Except DecodeError Instr :=
  if fld w 10 1 == 0 && fld w 12 2 == 0 && fld w 28 4 == 0 then .ok (.rayld (fin w 7) (fin w 14) (fin w 20) (fin w 26) (bitAt w 11))
  else if fld w 10 1 == 0 && fld w 12 8 == 1 then .ok (.hitrpt (fin w 7) (fin w 20) (fin w 26) (bitAt w 11))
  else reserved

/-- Major 0x3B (R365). -/
def decodeMajor3B (w : Nat) : Except DecodeError Instr :=
  if fld w 10 1 == 0 && fld w 12 2 == 0 && fld w 31 1 == 0 then .ok (.tex (fin w 7) (fin w 14) (fin w 20) (fin w 26) (bitAt w 11))
  else if fld w 10 1 == 0 && fld w 12 2 == 1 && fld w 31 1 == 0 then .ok (.texn (fin w 7) (fin w 14) (fin w 20) (fin w 26) (bitAt w 11))
  else reserved

/-- Major 0x3C (R365). -/
def decodeMajor3C (w : Nat) : Except DecodeError Instr :=
  if fld w 10 22 == 8 then .ok (.pxoutDiscard (fin w 7))
  else if fld w 10 4 == 0 && fld w 20 6 == 0 then .ok (.pxld (fin w 7) (fin w 14) (fin w 26))
  else if fld w 10 1 == 0 && fld w 12 8 == 1 then .ok (.pxst (fin w 7) (fin w 26) (fin w 20) (bitAt w 11))
  else if fld w 10 1 == 0 && fld w 12 8 == 2 then .ok (.pxout (fin w 7) (fin w 20) (fin w 26) (bitAt w 11))
  else if fld w 10 4 == 12 then .ok (.ipa (fin w 7) (fin w 14) (fin w 20) (fin w 26))
  else reserved

/-- Major 0x3D (R365). -/
def decodeMajor3D (w : Nat) : Except DecodeError Instr :=
  if fld w 10 1 == 0 && fld w 12 8 == 0 then .ok (.emit (fin w 7) (fin w 20) (fin w 26) (bitAt w 11))
  else reserved

/-- Major 0x3E (R365). -/
def decodeMajor3E (w : Nat) : Except DecodeError Instr :=
  if fld w 7 5 == 0 then .ok (.next (fin w 12))
  else if fld w 10 2 == 1 then .ok (.nextp (fin w 12) (fin w 7))
  else if fld w 10 2 == 2 then .ok (.nextpN (fin w 12) (fin w 7))
  else if fld w 7 5 == 24 then .ok (.call (fin w 12))
  else reserved

/-- Major 0x3F (R365). -/
def decodeMajor3F (w : Nat) : Except DecodeError Instr :=
  if fld w 10 22 == 0 then .ok (.nop (fin w 7))
  else if fld w 7 25 == 8 then .ok .bkpt
  else if fld w 10 18 == 2 then .ok (.trap (fin w 7) (fin w 28))
  else if fld w 7 25 == 24 then .ok .tret
  else if fld w 10 6 == 4 then .ok (.srd (fin w 7) (fin w 16) (fin w 22))
  else if fld w 10 6 == 5 then .ok (.swr (fin w 7) (fin w 16) (fin w 22))
  else if fld w 10 6 == 6 && fld w 22 10 == 0 then .ok (.tstamp (fin w 7) (fin w 16))
  else if fld w 10 12 == 7 && fld w 28 4 == 0 then .ok (.sleep (fin w 7) (fin w 22))
  else if fld w 7 25 == 64 then .ok .yield
  else if fld w 7 21 == 72 then .ok (.exit (fin w 28))
  else if fld w 7 25 == 80 then .ok .ret
  else if fld w 7 15 == 88 && fld w 28 4 == 0 then .ok (.nextx (fin w 22))
  else if fld w 7 15 == 96 && fld w 28 4 == 0 then .ok (.callx (fin w 22))
  else if fld w 10 6 == 13 && fld w 28 4 == 0 then .ok (.launch (fin w 7) (fin w 16) (fin w 22))
  else if fld w 10 22 == 14 then .ok (.joinc (fin w 7))
  else if fld w 7 9 == 120 && fld w 22 10 == 0 then .ok (.quota (fin w 16))
  else if fld w 10 18 == 16 then .ok (.setpri (fin w 7) (fin w 28))
  else if fld w 10 12 == 17 && fld w 28 4 == 0 then .ok (.rmat (fin w 7) (fin w 22))
  else if fld w 10 12 == 18 && fld w 28 4 == 0 then .ok (.rdrop (fin w 7) (fin w 22))
  else if fld w 7 9 == 152 && fld w 28 4 == 0 then .ok (.callk (fin w 16) (fin w 22))
  else reserved

/-- The 32-bit table by major opcode (R365). -/
def decode32 (w : Nat) : Except DecodeError Instr :=
  match fld w 1 6 with
  | 0 => decodeMajor00 w
  | 1 => decodeMajor01 w
  | 2 => decodeMajor02 w
  | 3 => decodeMajor03 w
  | 4 => decodeMajor04 w
  | 5 => decodeMajor05 w
  | 6 => decodeMajor06 w
  | 7 => decodeMajor07 w
  | 8 => decodeMajor08 w
  | 9 => decodeMajor09 w
  | 10 => decodeMajor0A w
  | 11 => decodeMajor0B w
  | 12 => decodeMajor0C w
  | 13 => decodeMajor0D w
  | 14 => decodeMajor0E w
  | 15 => decodeMajor0F w
  | 16 => decodeMajor10 w
  | 17 => decodeMajor11 w
  | 18 => decodeMajor12 w
  | 19 => decodeMajor13 w
  | 20 => decodeMajor14 w
  | 21 => decodeMajor15 w
  | 22 => decodeMajor16 w
  | 23 => decodeMajor17 w
  | 24 => decodeMajor18 w
  | 25 => decodeMajor19 w
  | 26 => decodeMajor1A w
  | 27 => decodeMajor1B w
  | 28 => decodeMajor1C w
  | 29 => decodeMajor1D w
  | 30 => decodeMajor1E w
  | 31 => decodeMajor1F w
  | 32 => decodeMajor20 w
  | 33 => decodeMajor21 w
  | 34 => decodeMajor22 w
  | 35 => decodeMajor23 w
  | 36 => decodeMajor24 w
  | 37 => decodeMajor25 w
  | 38 => decodeMajor26 w
  | 39 => decodeMajor27 w
  | 40 => decodeMajor28 w
  | 41 => decodeMajor29 w
  | 42 => decodeMajor2A w
  | 43 => decodeMajor2B w
  | 44 => decodeMajor2C w
  | 45 => decodeMajor2D w
  | 46 => decodeMajor2E w
  | 47 => decodeMajor2F w
  | 48 => decodeMajor30 w
  | 49 => decodeMajor31 w
  | 50 => decodeMajor32 w
  | 51 => decodeMajor33 w
  | 52 => decodeMajor34 w
  | 53 => decodeMajor35 w
  | 54 => decodeMajor36 w
  | 55 => decodeMajor37 w
  | 56 => decodeMajor38 w
  | 57 => decodeMajor39 w
  | 58 => decodeMajor3A w
  | 59 => decodeMajor3B w
  | 60 => decodeMajor3C w
  | 61 => decodeMajor3D w
  | 62 => decodeMajor3E w
  | 63 => decodeMajor3F w
  | _ => reserved

/-- The fields of a word as an instruction, before the checks that relate fields (R364). -/
def decodeFields (w : Nat) : Except DecodeError Instr := if bitAt w 0 then decode32 w else decode16 w

/-- Decode one word: bit 0 selects the length (R334), the fields are read, and every decode check of the word is made (R364). -/
def decode (w : Nat) : Except DecodeError Instr :=
  match decodeFields w with
  | .error e => .error e
  | .ok i => match i.wfCode with
    | some c => .error ⟨c⟩
    | none => .ok i

/-- The bytes of an instruction by its first halfword: two or four (R334). -/
def unitBytes (w : Nat) : Nat := if bitAt w 0 then 4 else 2

/-- The instruction that a table word of `nbits` bits encodes; the words of this part have no operand words beyond it. -/
def decodeTableWord (nbits w : Nat) : Option Instr :=
  if nbits == 8 * unitBytes w then (decode w).toOption else none

/-- The word of an instruction, from the encoding tables of R336 to R370; none for an operation that has no word. -/
def encode : Instr → Option Nat
  | .add16 l s d => some (0 + l.toNat * 32768 + s.val * 1024 + d.val * 32)
  | .sub16 l s d => some (2 + l.toNat * 32768 + s.val * 1024 + d.val * 32)
  | .mul16 l s d => some (4 + l.toNat * 32768 + s.val * 1024 + d.val * 32)
  | .and16 l s d => some (6 + l.toNat * 32768 + s.val * 1024 + d.val * 32)
  | .or16 l s d => some (8 + l.toNat * 32768 + s.val * 1024 + d.val * 32)
  | .xor16 l s d => some (10 + l.toNat * 32768 + s.val * 1024 + d.val * 32)
  | .shl16 i d => some (12 + i.val * 1024 + d.val * 32)
  | .shrN16 i d => some (14 + i.val * 1024 + d.val * 32)
  | .mov16 l s d => some (16 + l.toNat * 32768 + s.val * 1024 + d.val * 32)
  | .ldi16 i d => some (18 + i.val * 1024 + d.val * 32)
  | .addi16 i d => some (20 + i.val * 1024 + d.val * 32)
  | .fadd16 l s d => some (22 + l.toNat * 32768 + s.val * 1024 + d.val * 32)
  | .fsub16 l s d => some (24 + l.toNat * 32768 + s.val * 1024 + d.val * 32)
  | .fmul16 l s d => some (26 + l.toNat * 32768 + s.val * 1024 + d.val * 32)
  | .ld16 l s d => some (28 + l.toNat * 32768 + s.val * 1024 + d.val * 32)
  | .st16 l s d => some (30 + l.toNat * 32768 + s.val * 1024 + d.val * 32)
  | .clause len setB setA wait => some (1 + len.val * 134217728 + setB.val * 8388608 + setA.val * 524288 + wait.val * 128)
  | .pfx payload => some (3 + payload.val * 128)
  | .add p d a b l k => some (5 + p.val * 128 + d.val * 16384 + a.val * 1048576 + b.val * 67108864 + l.toNat * 2048 + k.toNat * 1024)
  | .addc p d a b l k => some (4101 + p.val * 128 + d.val * 16384 + a.val * 1048576 + b.val * 67108864 + l.toNat * 2048 + k.toNat * 1024)
  | .sub p d a b l k => some (8197 + p.val * 128 + d.val * 16384 + a.val * 1048576 + b.val * 67108864 + l.toNat * 2048 + k.toNat * 1024)
  | .subb p d a b l k => some (12293 + p.val * 128 + d.val * 16384 + a.val * 1048576 + b.val * 67108864 + l.toNat * 2048 + k.toNat * 1024)
  | .addImm p d a imm k => some (7 + p.val * 128 + d.val * 2048 + a.val * 131072 + imm.val * 8388608 + k.toNat * 1024)
  | .mul p d a b l k => some (9 + p.val * 128 + d.val * 16384 + a.val * 1048576 + b.val * 67108864 + l.toNat * 2048 + k.toNat * 1024)
  | .mulhSS p d a b l k => some (4105 + p.val * 128 + d.val * 16384 + a.val * 1048576 + b.val * 67108864 + l.toNat * 2048 + k.toNat * 1024)
  | .mulhNN p d a b l k => some (8201 + p.val * 128 + d.val * 16384 + a.val * 1048576 + b.val * 67108864 + l.toNat * 2048 + k.toNat * 1024)
  | .mulhSN p d a b l k => some (12297 + p.val * 128 + d.val * 16384 + a.val * 1048576 + b.val * 67108864 + l.toNat * 2048 + k.toNat * 1024)
  | .mad p d a b c l k => some (11 + p.val * 128 + d.val * 2048 + a.val * 65536 + b.val * 2097152 + c.val * 67108864 + l.toNat * 2147483648 + k.toNat * 1024)
  | .madw p d a b c l k => some (13 + p.val * 128 + d.val * 2048 + a.val * 65536 + b.val * 2097152 + c.val * 67108864 + l.toNat * 2147483648 + k.toNat * 1024)
  | .div p d a b n l => some (15 + p.val * 128 + d.val * 16384 + a.val * 1048576 + b.val * 67108864 + n.toNat * 4096 + l.toNat * 2048)
  | .and p d a b l k => some (17 + p.val * 128 + d.val * 16384 + a.val * 1048576 + b.val * 67108864 + l.toNat * 2048 + k.toNat * 1024)
  | .or p d a b l k => some (4113 + p.val * 128 + d.val * 16384 + a.val * 1048576 + b.val * 67108864 + l.toNat * 2048 + k.toNat * 1024)
  | .xor p d a b l k => some (8209 + p.val * 128 + d.val * 16384 + a.val * 1048576 + b.val * 67108864 + l.toNat * 2048 + k.toNat * 1024)
  | .andn p d a b l k => some (12305 + p.val * 128 + d.val * 16384 + a.val * 1048576 + b.val * 67108864 + l.toNat * 2048 + k.toNat * 1024)
  | .shl p d a b l k => some (19 + p.val * 128 + d.val * 16384 + a.val * 1048576 + b.val * 67108864 + l.toNat * 2048 + k.toNat * 1024)
  | .shrN p d a b l k => some (4115 + p.val * 128 + d.val * 16384 + a.val * 1048576 + b.val * 67108864 + l.toNat * 2048 + k.toNat * 1024)
  | .shrS p d a b l k => some (8211 + p.val * 128 + d.val * 16384 + a.val * 1048576 + b.val * 67108864 + l.toNat * 2048 + k.toNat * 1024)
  | .rot p d a b l k => some (12307 + p.val * 128 + d.val * 16384 + a.val * 1048576 + b.val * 67108864 + l.toNat * 2048 + k.toNat * 1024)
  | .shf p d a b c l k => some (21 + p.val * 128 + d.val * 2048 + a.val * 65536 + b.val * 2097152 + c.val * 67108864 + l.toNat * 2147483648 + k.toNat * 1024)
  | .imin p d a b n l k => some (23 + p.val * 128 + d.val * 16384 + a.val * 1048576 + b.val * 67108864 + n.toNat * 4096 + l.toNat * 2048 + k.toNat * 1024)
  | .imax p d a b n l k => some (8215 + p.val * 128 + d.val * 16384 + a.val * 1048576 + b.val * 67108864 + n.toNat * 4096 + l.toNat * 2048 + k.toNat * 1024)
  | .popc p d a l k => some (25 + p.val * 128 + d.val * 16384 + a.val * 1048576 + l.toNat * 2048 + k.toNat * 1024)
  | .clz p d a l k => some (4121 + p.val * 128 + d.val * 16384 + a.val * 1048576 + l.toNat * 2048 + k.toNat * 1024)
  | .brev p d a l k => some (8217 + p.val * 128 + d.val * 16384 + a.val * 1048576 + l.toNat * 2048 + k.toNat * 1024)
  | .iabs p d a l k => some (12313 + p.val * 128 + d.val * 16384 + a.val * 1048576 + l.toNat * 2048 + k.toNat * 1024)
  | .bfe p d a b s l k => some (27 + p.val * 128 + d.val * 16384 + a.val * 1048576 + b.val * 67108864 + s.toNat * 4096 + l.toNat * 2048 + k.toNat * 1024)
  | .bfi p d a b l k => some (8219 + p.val * 128 + d.val * 16384 + a.val * 1048576 + b.val * 67108864 + l.toNat * 2048 + k.toNat * 1024)
  | .lea p d a b sh l k => some (29 + p.val * 128 + d.val * 16384 + a.val * 1048576 + b.val * 67108864 + sh.val * 4096 + l.toNat * 2048 + k.toNat * 1024)
  | .icmp p q a b cond comb l => some (31 + p.val * 128 + q.val * 16384 + a.val * 1048576 + b.val * 67108864 + cond.val * 131072 + comb.val * 4096 + l.toNat * 2048)
  | .fcmp p q a b cond comb l => some (33 + p.val * 128 + q.val * 16384 + a.val * 1048576 + b.val * 67108864 + cond.val * 131072 + comb.val * 4096 + l.toNat * 2048)
  | .plop p d a b op => some (35 + p.val * 128 + d.val * 16384 + a.val * 1048576 + b.val * 67108864 + op.val * 4096)
  | .mov p d a l k => some (37 + p.val * 128 + d.val * 16384 + a.val * 1048576 + l.toNat * 2048 + k.toNat * 1024)
  | .movs p d a k => some (4133 + p.val * 128 + d.val * 16384 + a.val * 1048576 + k.toNat * 1024)
  | .smov p d a l => some (8229 + p.val * 128 + d.val * 16384 + a.val * 1048576 + l.toNat * 2048)
  | .movpToReg p d => some (12325 + p.val * 128 + d.val * 16384)
  | .movpToPreds p a l => some (67121189 + p.val * 128 + a.val * 1048576 + l.toNat * 2048)
  | .sel q d a b l k => some (39 + q.val * 128 + d.val * 16384 + a.val * 1048576 + b.val * 67108864 + l.toNat * 2048 + k.toNat * 1024)
  | .ldi p d imm => some (41 + p.val * 128 + d.val * 1024 + imm.val * 65536)
  | .ldhi p d imm => some (43 + p.val * 128 + d.val * 1024 + imm.val * 65536)
  | .fadd p d a b l k => some (45 + p.val * 128 + d.val * 16384 + a.val * 1048576 + b.val * 67108864 + l.toNat * 2048 + k.toNat * 1024)
  | .fsub p d a b l k => some (4141 + p.val * 128 + d.val * 16384 + a.val * 1048576 + b.val * 67108864 + l.toNat * 2048 + k.toNat * 1024)
  | .fmul p d a b l k => some (8237 + p.val * 128 + d.val * 16384 + a.val * 1048576 + b.val * 67108864 + l.toNat * 2048 + k.toNat * 1024)
  | .ffma p d a b c l k => some (47 + p.val * 128 + d.val * 2048 + a.val * 65536 + b.val * 2097152 + c.val * 67108864 + l.toNat * 2147483648 + k.toNat * 1024)
  | .fmin p d a b u l k => some (49 + p.val * 128 + d.val * 16384 + a.val * 1048576 + b.val * 67108864 + u.toNat * 8192 + l.toNat * 2048 + k.toNat * 1024)
  | .fmax p d a b u l k => some (4145 + p.val * 128 + d.val * 16384 + a.val * 1048576 + b.val * 67108864 + u.toNat * 8192 + l.toNat * 2048 + k.toNat * 1024)
  | .fsfu p d a f l k => some (51 + p.val * 128 + d.val * 16384 + a.val * 1048576 + f.val * 67108864 + l.toNat * 2048 + k.toNat * 1024)
  | .fcvt p d a c r l k => some (53 + p.val * 128 + d.val * 16384 + a.val * 1048576 + c.val * 67108864 + r.val * 4096 + l.toNat * 2048 + k.toNat * 1024)
  | .frnd p d a r l k => some (55 + p.val * 128 + d.val * 16384 + a.val * 1048576 + r.val * 4096 + l.toNat * 2048 + k.toNat * 1024)
  | .fadd2 p d a b t l k => some (57 + p.val * 128 + d.val * 16384 + a.val * 1048576 + b.val * 67108864 + t.toNat * 4096 + l.toNat * 2048 + k.toNat * 1024)
  | .fmul2 p d a b t l k => some (8249 + p.val * 128 + d.val * 16384 + a.val * 1048576 + b.val * 67108864 + t.toNat * 4096 + l.toNat * 2048 + k.toNat * 1024)
  | .ffma2H p d a b c l k => some (59 + p.val * 128 + d.val * 2048 + a.val * 65536 + b.val * 2097152 + c.val * 67108864 + l.toNat * 2147483648 + k.toNat * 1024)
  | .ffma2B p d a b c l k => some (61 + p.val * 128 + d.val * 2048 + a.val * 65536 + b.val * 2097152 + c.val * 67108864 + l.toNat * 2147483648 + k.toNat * 1024)
  | .fdot p d a b c l k => some (63 + p.val * 128 + d.val * 2048 + a.val * 65536 + b.val * 2097152 + c.val * 67108864 + l.toNat * 2147483648 + k.toNat * 1024)
  | .idot p d a b c l k => some (65 + p.val * 128 + d.val * 2048 + a.val * 65536 + b.val * 2097152 + c.val * 67108864 + l.toNat * 2147483648 + k.toNat * 1024)
  | .shfl p d a b mode l => some (67 + p.val * 128 + d.val * 16384 + a.val * 1048576 + b.val * 67108864 + mode.val * 4096 + l.toNat * 2048)
  | .vote p d a n mode => some (69 + p.val * 128 + d.val * 16384 + a.val * 1048576 + n.toNat * 67108864 + mode.val * 4096)
  | .matchAny p d a l => some (71 + p.val * 128 + d.val * 16384 + a.val * 1048576 + l.toNat * 2048)
  | .matchAll p d a b l => some (4167 + p.val * 128 + d.val * 16384 + a.val * 1048576 + b.val * 67108864 + l.toNat * 2048)
  | .gred p d a c l => some (73 + p.val * 128 + d.val * 16384 + a.val * 1048576 + c.val * 67108864 + l.toNat * 2048)
  | .gscan p d a c e l => some (75 + p.val * 128 + d.val * 16384 + a.val * 1048576 + c.val * 67108864 + e.toNat * 4096 + l.toNat * 2048)
  | .ddx p d a f l => some (77 + p.val * 128 + d.val * 16384 + a.val * 1048576 + f.toNat * 8192 + l.toNat * 2048)
  | .ddy p d a f l => some (4173 + p.val * 128 + d.val * 16384 + a.val * 1048576 + f.toNat * 8192 + l.toNat * 2048)
  | .bfly p d a m l => some (79 + p.val * 128 + d.val * 16384 + a.val * 1048576 + m.val * 67108864 + l.toNat * 2048)
  | .dotp4 p d a b l => some (81 + p.val * 128 + d.val * 16384 + a.val * 1048576 + b.val * 67108864 + l.toNat * 2048)
  | .ld p size xm idx b t => some (83 + p.val * 128 + size.val * 536870912 + xm.val * 134217728 + idx.val * 2097152 + b.val * 65536 + t.val * 1024)
  | .st p size xm idx b t => some (85 + p.val * 128 + size.val * 536870912 + xm.val * 134217728 + idx.val * 2097152 + b.val * 65536 + t.val * 1024)
  | .atom p op w b t => some (87 + p.val * 128 + op.val * 134217728 + w.toNat * 67108864 + b.val * 65536 + t.val * 1024)
  | .red p op w b t => some (89 + p.val * 128 + op.val * 134217728 + w.toNat * 67108864 + b.val * 65536 + t.val * 1024)
  | .fence p eng kind scope => some (91 + p.val * 128 + eng.toNat * 65536 + kind.val * 16384 + scope.val * 1024)
  | .pfetch p xm idx b => some (93 + p.val * 128 + xm.val * 134217728 + idx.val * 2097152 + b.val * 65536)
  | .cflush p xm idx b => some (536871005 + p.val * 128 + xm.val * 134217728 + idx.val * 2097152 + b.val * 65536)
  | .cinv p xm idx b => some (1073741917 + p.val * 128 + xm.val * 134217728 + idx.val * 2097152 + b.val * 65536)
  | .cwb p xm idx b => some (1610612829 + p.val * 128 + xm.val * 134217728 + idx.val * 2097152 + b.val * 65536)
  | .ldc p d a w => some (95 + p.val * 128 + d.val * 16384 + a.val * 1048576 + w.val * 4096)
  | .cpy p ectx ofs mode tag desc => some (97 + p.val * 128 + ectx.val * 268435456 + ofs.val * 8388608 + mode.val * 2097152 + tag.val * 32768 + desc.val * 1024)
  | .wtag p a y l => some (99 + p.val * 128 + a.val * 1048576 + y.toNat * 4096 + l.toNat * 2048)
  | .ftag p d a l => some (8291 + p.val * 128 + d.val * 16384 + a.val * 1048576 + l.toNat * 2048)
  | .tagclr p a l => some (12387 + p.val * 128 + a.val * 1048576 + l.toNat * 2048)
  | .tlwait p a b l => some (101 + p.val * 128 + a.val * 1048576 + b.val * 67108864 + l.toNat * 2048)
  | .tlread p d a l => some (4197 + p.val * 128 + d.val * 16384 + a.val * 1048576 + l.toNat * 2048)
  | .tlnote p d => some (8293 + p.val * 128 + d.val * 16384)
  | .cvset p cv a => some (103 + p.val * 128 + cv.val * 16384 + a.val * 1048576)
  | .mma p acc cv z sa sb a b => some (105 + p.val * 128 + acc.val * 16384 + cv.val * 1024 + z.toNat * 131072 + sa.toNat * 262144 + sb.toNat * 524288 + a.val * 1048576 + b.val * 67108864)
  | .mzero p tile kind => some (107 + p.val * 128 + tile.val * 16384 + kind.val * 131072)
  | .mld p tile kind a b l => some (4203 + p.val * 128 + tile.val * 16384 + kind.val * 131072 + a.val * 1048576 + b.val * 67108864 + l.toNat * 2048)
  | .mdrain p tile kind a b l => some (8299 + p.val * 128 + tile.val * 16384 + kind.val * 131072 + a.val * 1048576 + b.val * 67108864 + l.toNat * 2048)
  | .mtile p a => some (109 + p.val * 128 + a.val * 1048576)
  | .bar p => some (111 + p.val * 128)
  | .gbar p => some (4207 + p.val * 128)
  | .lock p a l => some (8303 + p.val * 128 + a.val * 1048576 + l.toNat * 2048)
  | .unlock p a l => some (12399 + p.val * 128 + a.val * 1048576 + l.toNat * 2048)
  | .phreg p d a mode l => some (113 + p.val * 128 + d.val * 16384 + a.val * 1048576 + mode.val * 67108864 + l.toNat * 2048)
  | .phsig p d a l => some (4209 + p.val * 128 + d.val * 16384 + a.val * 1048576 + l.toNat * 2048)
  | .phwait p a b l => some (8305 + p.val * 128 + a.val * 1048576 + b.val * 67108864 + l.toNat * 2048)
  | .phdrop p a l => some (12401 + p.val * 128 + a.val * 1048576 + l.toNat * 2048)
  | .trace p a b l => some (115 + p.val * 128 + a.val * 1048576 + b.val * 67108864 + l.toNat * 2048)
  | .traceWait p d a b l => some (4211 + p.val * 128 + d.val * 16384 + a.val * 1048576 + b.val * 67108864 + l.toNat * 2048)
  | .rayld p d a q l => some (117 + p.val * 128 + d.val * 16384 + a.val * 1048576 + q.val * 67108864 + l.toNat * 2048)
  | .hitrpt p a b l => some (4213 + p.val * 128 + a.val * 1048576 + b.val * 67108864 + l.toNat * 2048)
  | .tex p d a b l => some (119 + p.val * 128 + d.val * 16384 + a.val * 1048576 + b.val * 67108864 + l.toNat * 2048)
  | .texn p d a b l => some (4215 + p.val * 128 + d.val * 16384 + a.val * 1048576 + b.val * 67108864 + l.toNat * 2048)
  | .pxld p d w => some (121 + p.val * 128 + d.val * 16384 + w.val * 67108864)
  | .pxst p w a l => some (4217 + p.val * 128 + w.val * 67108864 + a.val * 1048576 + l.toNat * 2048)
  | .pxout p a n l => some (8313 + p.val * 128 + a.val * 1048576 + n.val * 67108864 + l.toNat * 2048)
  | .pxoutDiscard p => some (8313 + p.val * 128)
  | .ipa p d m i => some (12409 + p.val * 128 + d.val * 16384 + m.val * 1048576 + i.val * 67108864)
  | .emit p a b l => some (123 + p.val * 128 + a.val * 1048576 + b.val * 67108864 + l.toNat * 2048)
  | .next off => some (125 + off.val * 4096)
  | .nextp off q => some (1149 + off.val * 4096 + q.val * 128)
  | .nextpN off q => some (2173 + off.val * 4096 + q.val * 128)
  | .call off => some (3197 + off.val * 4096)
  | .nop p => some (127 + p.val * 128)
  | .bkpt  => some (1151)
  | .trap p n => some (2175 + p.val * 128 + n.val * 268435456)
  | .tret  => some (3199)
  | .srd p d num => some (4223 + p.val * 128 + d.val * 65536 + num.val * 4194304)
  | .swr p d num => some (5247 + p.val * 128 + d.val * 65536 + num.val * 4194304)
  | .tstamp p d => some (6271 + p.val * 128 + d.val * 65536)
  | .sleep p a => some (7295 + p.val * 128 + a.val * 4194304)
  | .yield  => some (8319)
  | .exit n => some (9343 + n.val * 268435456)
  | .ret  => some (10367)
  | .nextx a => some (11391 + a.val * 4194304)
  | .callx a => some (12415 + a.val * 4194304)
  | .launch p d a => some (13439 + p.val * 128 + d.val * 65536 + a.val * 4194304)
  | .joinc p => some (14463 + p.val * 128)
  | .quota n => some (15487 + n.val * 65536)
  | .setpri p n => some (16511 + p.val * 128 + n.val * 268435456)
  | .rmat p a => some (17535 + p.val * 128 + a.val * 4194304)
  | .rdrop p a => some (18559 + p.val * 128 + a.val * 4194304)
  | .callk d a => some (19583 + d.val * 65536 + a.val * 4194304)
  | _ => none

end Sys2Proof
end

