-- ==== Sys2Proof/Machine/Thread.lean ====
section
/-! DEFINITION. The plain data of threads, gangs, teams and grids: 02_execution.md, 04_registers.md, 08_engines.md and the
parts of 11_traps.md that a thread carries. Every register of R85 has one home here. -/
namespace Sys2Proof.Machine

/-- One x register of one thread: its backing slot, its dead mark, its recipe index and whether the slot holds the tagged value
(R86, R89, R96, R97). The six states of R96 follow from these and the gang's quota. -/
structure XCell where
  val : Word := 0
  dead : Bool := true
  tag : Nat := 0
  stored : Bool := false
  deriving DecidableEq, Repr

/-- The kinds of a translated access (R159). -/
inductive AccKind where
  | read | write | execute | atomic
  deriving DecidableEq, Repr

/-- What a trap delivers: cause, the fields of TRAPINFO, TRAPADDR (R108, R278). -/
structure TrapRec where
  cause : Nat
  code : Nat := 0
  step : Nat := 0
  reg : Nat := 0
  depth : Nat := 0
  addr : DWord := 0
  deriving DecidableEq, Repr

/-- TRAPINFO of a trap (R108). -/
def TrapRec.info (r : TrapRec) : Word :=
  BitVec.ofNat 32 (r.code % 256 * 2 ^ 24 + r.step % 256 * 2 ^ 16 + r.reg % 64 * 2 ^ 10 + r.depth % 4 * 2 ^ 8)

/-- What a blocked thread waits for (R55). `coll` carries what the thread contributes to a gang or quad collective: whether
its guard is true, and its operand values. -/
inductive Wait where
  | coll (quad active : Bool) (vals : List Word)
  | bar | gbar | joinc | lock | phsig | phwait | tlwait | wtag (any : Bool) (mask : Nat) | emit | quota | mma (cv : Nat) | mtile (a : Nat) | ray | engine | exitHelper | snoop | retry
  deriving DecidableEq, Repr

/-- Where a thread stands (R29, R31, R55, R90, R163, R282, R287, R452). -/
inductive Status where
  /-- In the fold, keyed by its pc, since a step number (R29). -/
  | fold (since : Nat)
  /-- In a bundle (R30). -/
  | bundled
  /-- Blocked at its instruction (R55). -/
  | blocked (w : Wait)
  /-- Parked on a translation (R163), with its reason; for a replayed load, the register and depth R102 reports. -/
  | parked (va : Nat) (kind : AccKind) (reason : Nat) (replay : Option (Nat × Nat))
  /-- Asleep for some arithmetic cycles (R452). -/
  | sleeping (cycles : Nat)
  /-- Out of selection until its quarter's next selection round (R82). -/
  | yielding
  /-- Stopped by a trap, waiting for its flag counts before the handler (R280): the trap, and the timestamp and the core's
  sequence number taken when the instruction stopped (R284, R285). -/
  | stopping (r : TrapRec) (time seq : Nat)
  /-- Halted (R282). -/
  | halted
  /-- Ended (R399). -/
  | ended
  /-- Saved, off the core (R288). -/
  | out
  deriving DecidableEq, Repr

/-- The handler a thread runs (R280, R287, R292). -/
inductive Handler where
  | none | trap | save | restore
  deriving DecidableEq, Repr

/-- Quad state (R21, R38). -/
inductive QuadState where
  | live | helper | exited
  deriving DecidableEq, Repr

/-- The clause a thread is in: halfwords left (none when open or resumed), the flags it counts, the WAIT mask still to be
checked, whether it holds an instruction yet, and whether its instructions count (R342 to R346). -/
structure Clause where
  left : Option Nat
  setA : Nat := 15
  setB : Nat := 15
  wait : Nat := 0
  fresh : Bool := true
  counts : Bool := true
  deriving DecidableEq, Repr

/-- A memory access or hand-off whose completion is still to come: the flag it counts, the register values it will write,
the s register values, and the late trap that comes with it (R344, R174). -/
structure Flight where
  isWrite : Bool
  flag : Option (Fin 12)
  dsts : List (Nat × Word) := []
  sdsts : List (Nat × Word) := []
  late : Option TrapRec := none
  /-- When the access was issued, by the model's step count (R174). -/
  issued : Nat := 0
  /-- The number of the engine operation whose step completes it; none for an access that needs no further step. -/
  op : Option Nat := none
  deriving DecidableEq, Repr

/-- The handler frame of R290. -/
structure Frame where
  k : Vector Word 8
  pc : DWord
  addr : DWord
  cause : Word
  info : Word
  seq : Word
  deriving DecidableEq, Repr

/-- What the device keeps of the code that a handler interrupts, beside its registers: where it stopped, the clause it was in (R346) and the entry of its segment (R27), its arrival state
(R289), the progress of a macro instruction that a handler itself was running (R224), and its exemption from watch checks (R283). -/
structure Level where
  pc : Option DWord := none
  clause : Option Clause := none
  entry : Option DWord := none
  arrKind : Nat := 0
  arrOp : Nat := 0
  arrVal : Word := 0
  hstep : Word := 0
  unwatched : Bool := false
  deriving DecidableEq, Repr

/-- A thread (R21), with its trap registers (R107) and the model's bookkeeping of where it stands. -/
structure Thread where
  tid : Nat
  pc : DWord
  x : Vector XCell 64 := Vector.replicate 64 {}
  p : Vector Bool 8 := #v[true, false, false, false, false, false, false, false]
  f : Vector Nat 12 := Vector.replicate 12 0
  k : Vector Word 8 := Vector.replicate 8 0
  mstep : Word := 0
  /-- The progress of a macro instruction inside a handler, where MSTEP is the interrupted one's (R224, log 79). -/
  hstep : Word := 0
  fstat : Word := 0
  quad : QuadState := .live
  handler : Handler := .none
  frame : Option Frame := none
  /-- The interrupted code, the innermost first (R280, R287). -/
  levels : List Level := []
  trapCause : Word := 0
  trapPc : DWord := 0
  trapAddr : DWord := 0
  trapInfo : Word := 0
  trapSeq : Word := 0
  /-- Linear lane (R23). -/
  lane : Nat := 0
  /-- The coherence key of the CALLK by which it entered the fold (R49). -/
  dissolve : Option Word := none
  status : Status := .fold 0
  clause : Option Clause := none
  /-- The entry of the segment being run, for the 4,096-byte limit (R25, R27). -/
  entry : Option DWord := none
  infl : List Flight := []
  /-- Late replies that have arrived, by when their access was issued (R174). -/
  late : List (Nat × TrapRec) := []
  /-- The last timestamp taken (R302, R467). -/
  stamp : Nat := 0
  /-- Arrival kind, operand and value (R289). -/
  arrKind : Nat := 0
  arrOp : Nat := 0
  arrVal : Word := 0
  /-- The result a collective left for this thread to write when it runs again. -/
  reply : Option (List Word) := none
  /-- The instruction that raised the WATCH whose handler runs (R283). -/
  watchPc : Option DWord := none
  /-- The next execution runs without watch checks (R283). -/
  unwatched : Bool := false
  /-- The trap every thread of a team takes at its first instruction, after a failed first read (R481). -/
  firstTrap : Option TrapRec := none
  /-- FMODE and MFMT as this thread uses them (R109). -/
  fmode : Word := 0
  mfmt : Word := 0
  deriving DecidableEq, Repr

/-- A recipe: the word, the payload of its prefix, and FTZ (R97). -/
structure Recipe where
  word : Nat
  payload : Option Nat
  ftz : Bool
  deriving DecidableEq, Repr

/-- A gang: quota, priority, the slice offset of its register block, its recipe table by index, and the words of its block that
back no thread (R89, R91, R93, R97, R448). -/
structure Gang where
  quota : Nat
  /-- The quota its block was allocated for: words of the block beyond it are padding (R90, R91). -/
  alloc : Nat := 0
  prio : Nat := 0
  base : Nat := 0
  recipes : List (Nat × Recipe) := []
  pad : List (Nat × Word) := []
  deriving DecidableEq, Repr

/-- An engine context (R204). -/
structure ECtx where
  tl : Nat := 0
  next : DWord := 0
  scope : Nat := 0
  deriving DecidableEq, Repr

/-- One signature of a convergence set: who, and the register fragments of A and B (R216, R219). -/
structure Signer where
  tid : Nat
  word : Nat
  payload : Option Nat
  a : List Word
  b : List Word
  deriving DecidableEq, Repr

/-- A convergence register (R215): size 0 is unset; the arrival count is the number of signers. -/
structure Cv where
  size : Nat := 0
  signers : List Signer := []
  deriving DecidableEq, Repr

/-- An accumulator tile: mode, and 1,024 elements as a 56-bit value with its companion (R138, R220). -/
structure Tile where
  isInt : Bool := false
  elems : List (BitVec 56 × Nat) := List.replicate 1024 (0, 0)
  deriving DecidableEq, Repr

/-- An ordered peer-add round on one tile: the mask of its first contribution and the ranks applied (R223). -/
structure PeerRound where
  tile : Nat
  mask : Nat
  done : List Nat
  deriving DecidableEq, Repr

/-- Why a team is leaving its core (R287): vacate, checkpoint or migration. -/
inductive SwitchCause where
  | vacate | checkpoint | migrate
  deriving DecidableEq, Repr

/-- Where a team stands. -/
inductive TeamStatus where
  /-- On its core. -/
  | resident
  /-- Being switched out (R287). -/
  | leaving (c : SwitchCause)
  /-- Off its core, in its save slot (R288). -/
  | out
  /-- On its core, its restore handlers running (R292). -/
  | entering
  /-- Every thread has ended (R47). -/
  | ended
  deriving DecidableEq, Repr

/-- A team (R41) and what it owns. -/
structure Team where
  uid : Nat
  die : Nat
  ctx : Nat
  core : Nat
  grid : Nat
  /-- Linear team number (R42). -/
  num : Nat
  /-- The declared gang width, 0 for none (R32). -/
  declared : Nat
  quads : Bool := false
  laneBase : Nat := 0
  threads : List Thread
  gangs : List Gang
  s : Vector Word 32 := Vector.replicate 32 0
  fmode : Word := 0
  mfmt : Word := 0
  tags : DWord := BitVec.allOnes 64
  tagErr : DWord := 0
  tagCount : Vector Nat 64 := Vector.replicate 64 0
  ectx : Vector ECtx 16 := Vector.replicate 16 {}
  cv : Vector Cv 16 := Vector.replicate 16 {}
  tiles : List Tile := []
  scrBase : Nat := 0
  scrSize : Nat := 0
  /-- The launch record's quota, which fixes the pool (R93), and its recipe entries per gang (R97). -/
  quota0 : Nat
  recipeMax : Nat := 0
  /-- The built-in phaser: counter, and the threads that have signalled the current phase (R230). -/
  bphase : Word := 0
  bsignals : List Nat := []
  /-- The team has arrived at GBAR (R231, R294). -/
  gbarArrived : Bool := false
  rounds : List PeerRound := []
  /-- Gangs waiting in a quota growth, in arrival order (R94). -/
  quotaQ : List Nat := []
  /-- The save slot's address (R293). -/
  slot : Option Nat := none
  /-- The phaser numbers of its registrations, fixed when it was stopped (R294). -/
  regs : List Nat := []
  status : TeamStatus := .resident
  /-- It was switched out to make room while it waited: at JOINC, else at GBAR (R56). -/
  gave : Option Bool := none
  /-- The bound code version (R360). -/
  version : Nat := 0
  /-- The launch sequencer's run of a prologue (R74): queue uid, command index, and instructions retired. -/
  prologue : Option (Nat × Nat × Nat) := none
  deriving DecidableEq, Repr

/-- The gang width as stored: the declared width, or 64 (R32, R89). -/
def Team.width (t : Team) : Nat := if t.declared == 0 then 64 else t.declared

/-- A launch record, as read (R70). -/
structure LaunchRec where
  entry : Nat := 0
  x : Nat := 1
  y : Nat := 1
  z : Nat := 1
  teamSize : Nat := 1
  widthCode : Nat := 0
  cohort : Nat := 1
  gridsync : Bool := false
  quads : Bool := false
  quota : Nat := 64
  recipes : Nat := 0
  scratch : Nat := 0
  tiles : Nat := 0
  param : Nat := 0
  ctlAddr : Nat := 0
  ctlVal : Nat := 0
  deriving DecidableEq, Repr

/-- The engine context records of a parameter block (R204): address, stride, scope. -/
structure ECtxRec where
  tl : Nat
  stride : Nat
  scope : Nat
  deriving DecidableEq, Repr

/-- A live grid (R42 to R47, R296). -/
structure Grid where
  uid : Nat
  die : Nat
  ctx : Nat
  /-- Grid number (R107). -/
  num : Nat
  lrec : LaunchRec
  ectx : List ECtxRec := []
  /-- The launching team (its uid), and the parent grid. -/
  parentTeam : Option Nat := none
  parent : Option Nat := none
  depth : Nat
  prio : Nat := 0
  /-- The queue and slot of the launching command, by queue uid and slot sequence. -/
  queue : Nat := 0
  slotSeq : Nat := 0
  /-- The first team never tried; the teams whose first placement waits on a translation, with its address; those to be tried again; and the
  pages declared unresolvable (R481). -/
  nextTeam : Nat := 0
  parked : List (Nat × Nat) := []
  again : List Nat := []
  lost : List Nat := []
  /-- The number of teams ended, and the barrier count and generation (R231). -/
  ended : Nat := 0
  gbar : Nat := 0
  gbarGen : Word := 0
  version : Nat := 0
  /-- The prologue entry that runs again when the grid retires (R75). -/
  rerun : Bool := false
  /-- The node of the active graph this grid runs, for node teams (R52). -/
  node : Option Nat := none
  /-- The record address, size and count of its batch, and the quads of its fragments (R52, R87, R266). -/
  batch : Option (Nat × Nat × Nat) := none
  frags : List Nat := []
  /-- Its retirement waits on a translation of its completion timeline (R480). -/
  held : Option Nat := none
  retired : Bool := false
  deriving DecidableEq, Repr

end Sys2Proof.Machine
end

