-- ==== Sys2Proof/Machine/Die.lean ====
section
/-! DEFINITION. The plain data of contexts, queues, cores and dies, and of the engine work in flight: 01_machine.md,
03_scheduling.md, 06_memory.md, 07_consistency.md, 11_traps.md, 12_platform.md. -/
namespace Sys2Proof.Machine

/-- A watch range (R283, R323). -/
structure WatchRange where
  base : Nat
  log2len : Nat
  kinds : Nat
  deriving DecidableEq, Repr

/-- The kinds of an entry record (R357). -/
inductive EntryKind where
  | kernel | node | prologue
  deriving DecidableEq, Repr

/-- One entry of the loader's table (R483): address, kind, and the record size of a node. -/
structure EntryRec where
  addr : Nat
  kind : EntryKind
  recSize : Nat := 0
  deriving DecidableEq, Repr

/-- A code version (R360, R483): the ranges of its code sections, its frames, its tables. -/
structure CodeVersion where
  num : Nat
  ranges : List (Nat × Nat)
  entries : List EntryRec
  dissolve : List Nat := []
  /-- Leaf translations that this version replaces: page address, and home and physical address of its own frame (R361). -/
  frames : List (Nat × Nat × Nat) := []
  deriving DecidableEq, Repr

/-- A node of an active graph (R72): kind 0 unused, 1 shader, 2 binner, 3 rasteriser, 4 blender, and its queue of records. -/
structure Node where
  kind : Nat
  lrec : LaunchRec := {}
  ectx : List ECtxRec := []
  recSize : Nat
  cap : Nat
  batch : Nat
  succ : List Nat
  queue : List (List Byte) := []
  deriving DecidableEq, Repr

/-- An active graph (R73), with the GRAPH command that waits for it to become idle (queue uid and slot sequence). -/
structure Graph where
  nodes : List Node
  waiting : Option (Nat × Nat) := none
  /-- Entry records that wait for room in their node's queue, in array order (R73). -/
  pend : List (Nat × List Byte) := []
  /-- The queue pool's address, and the address whose translation a batch waits for (R72, R481). -/
  pool : Nat := 0
  held : Option Nat := none
  version : Nat
  prio : Nat
  deriving DecidableEq, Repr

/-- A held outside effect of a checkpointed context (R305): the key of its first byte, its bytes, its order and scope (R306). -/
structure HeldWrite where
  key : Nat
  data : List Byte
  /-- The bits of its bytes that it writes, byte by byte; empty for all of them (R132). -/
  mask : List Byte := []
  /-- A RED held as its operation and operand: the OP and W of R199. -/
  red : Option (Nat × Bool) := none
  order : Nat := 0
  scope : Nat := 0
  deriving DecidableEq, Repr

/-- A save slot of a team (R293): its address and size, and the team. -/
structure SaveSlot where
  addr : Nat
  size : Nat
  team : Nat
  deriving DecidableEq, Repr

/-- A context (R58, R323). -/
structure Context where
  die : Nat
  num : Nat
  root : Nat
  checkpoint : Bool := false
  detatom : Bool := false
  migratable : Bool := false
  acceptDock : Bool := false
  errVector : Nat := 0
  interval : Nat := 16
  trapEntry : Nat := 0
  saveEntry : Nat := 0
  restoreEntry : Nat := 0
  seed : DWord := 0
  watch : List WatchRange := []
  phBase : Nat := 0
  phCount : Nat := 0
  poolAddr : Nat := 0
  poolSize : Nat := 0
  trapRing : Nat := 0
  trapRingN : Nat := 0
  trapProd : Nat := 0
  commitSize : Nat := 0
  hot : List Nat := []
  ectx : Vector ECtx 16 := Vector.replicate 16 {}
  /-- The descriptor as read, for the context record of an image (R297). -/
  descr : List Byte := []
  /-- The cores of its partition (R59). -/
  part : List Nat := []
  failed : Bool := false
  /-- It ends once the last words of its queues are written (R333). -/
  ending : Bool := false
  versions : List CodeVersion := []
  current : Nat := 1
  /-- The open version, if one exists (R361). -/
  openVer : Option CodeVersion := none
  codeBase : Nat := 0
  graph : Option Graph := none
  nextGrid : Nat := 0
  slots : List SaveSlot := []
  /-- Save slots reserved at LAUNCH and not yet given: the grid, the size of each, how many (R44, R293). -/
  reserved : List (Nat × Nat × Nat) := []
  /-- Held outside effects (R305), and those of the scheduler cores that found no room in the commit buffer. -/
  held : List HeldWrite := []
  heldMore : List HeldWrite := []
  /-- Checkpoint sequence number, and whether one is in progress or waits for its commit or acknowledgement (R304). -/
  ckptSeq : Nat := 0
  ckpt : Nat := 0
  /-- A checkpoint is to be taken as soon as it can: the commit buffer is full, or a command or the interval asks (R304, R305). -/
  ckptWanted : Bool := false
  /-- A migration in progress, to a die (R300). -/
  migrating : Option Nat := none
  /-- The cores the target has granted it, once the target has its image (R300). -/
  sent : Option (List Nat) := none
  /-- Cores being vacated (R78). -/
  vacating : List Nat := []
  /-- Dispatches of its mills on this die (R252), and the tile slots of each core (R321). -/
  dispatches : Nat := 0
  tileSlots : Nat := 0
  stalled : Bool := false
  deriving DecidableEq, Repr

/-- What a started command of a queue waits for. -/
inductive CmdState where
  /-- A WAIT for a timeline value (R65). -/
  | waiting (tl n : Nat)
  /-- A COPY handed to the engine as an operation number. -/
  | copying (op : Nat)
  /-- A LAUNCH: its record, its prologue entry, the code version bound, the grid running, and whether the prologue runs again when it
  retires; without a grid, its prologue runs, or it is about to launch (R71, R75). -/
  | launching (lrec prologue version : Nat) (grid : Option Nat) (rerun : Bool)
  /-- A GRAPH whose records are appended (R73). -/
  | graphing
  | migrating
  | checkpointing
  /-- Its effect is done: the status code it still has to write, and the address its completion is held for (R66, R68, R480). -/
  | finishing (status : Option Nat) (held : Option Nat)
  | done
  deriving DecidableEq, Repr

/-- A command accepted from a slot (R62, R65): its free-running index, its 64 bytes, and its progress. -/
structure Cmd where
  idx : Nat
  slot : List Byte
  /-- It has been started (R66). -/
  st : Option CmdState := none
  deriving DecidableEq, Repr

/-- A submission queue (R60, R61, R298). -/
structure Queue where
  uid : Nat
  die : Nat
  num : Nat
  ctx : Nat
  base : Nat
  k : Nat
  prio : Nat
  vector : Nat
  ctl : Nat
  statusAddr : Nat
  /-- The next slot to read, and the last tail notified (free-running, mod 2^32). -/
  head : Nat := 0
  tail : Nat := 0
  /-- Commands read and not yet retired from the completion order, oldest first. -/
  cmds : List Cmd := []
  /-- Commands completed in order since creation: the value of the completion timeline (R66). -/
  completed : Nat := 0
  stopped : Option Nat := none
  /-- Reads of the slot at the head that have failed (R63). -/
  rereads : Nat := 0
  /-- It has held an unread slot for 1 ms; the model's step when it was last read (R67). -/
  starved : Bool := false
  served : Nat := 0
  destroyed : Bool := false
  /-- The queue's reading, or the start of a command, waits on a translation: the address, and the slot's index (R480). -/
  held : Option (Nat × Nat) := none
  /-- The write of its completion timeline waits on a translation of this address (R480). -/
  tlHeld : Option Nat := none
  deriving DecidableEq, Repr

/-- A cached leaf translation (R162): the context, the page it covers, and the entry's two dwords; `level` gives its size. -/
structure TlbEntry where
  ctx : Nat
  /-- The code version it was walked for, for execute translations (R360); 0 for data. -/
  version : Nat := 0
  page : Nat
  level : Nat
  d0 : DWord
  d1 : DWord
  deriving DecidableEq, Repr

/-- A first-level line (R152): the key of its first byte, its bytes, and whether its page carries IMM. -/
structure L1Line where
  key : Nat
  data : List Byte
  imm : Bool
  deriving DecidableEq, Repr

/-- A region of a slice (R147). -/
inductive RegionKind where
  | block (team gang : Nat) | scratch (team : Nat) | tile
  deriving DecidableEq, Repr

/-- A region: slice offset, bytes, owning context. -/
structure Region where
  kind : RegionKind
  base : Nat
  size : Nat
  ctx : Nat
  deriving DecidableEq, Repr

/-- The name of a thread on the machine: team uid and TID. -/
abbrev ThreadId := Nat × Nat

/-- A ready bundle (R30): its quarter, its threads in ascending home lane, the model's step number when it became ready or last
issued (R81), and whether it has become aged. -/
structure Bundle where
  quarter : Nat
  members : List ThreadId
  since : Nat
  aged : Bool := false
  deriving DecidableEq, Repr

/-- A core (R13): what it holds beside its threads. -/
structure CoreState where
  die : Nat
  num : Nat
  tlb : List TlbEntry := []
  l1 : List L1Line := []
  regions : List Region := []
  bundles : List Bundle := []
  trapSeq : Nat := 0
  /-- Stochastic-rounding counters of the lanes that have used one (R122). -/
  srCtr : List (Nat × Nat) := []
  deriving DecidableEq, Repr

/-- A member of a phaser (R227, R229): mode 1 signal, 2 wait, 3 both; its next phase; whether it is pending and whether it leaves. -/
structure PhMember where
  team : Nat
  tid : Nat
  mode : Nat
  next : Word
  pending : Bool := false
  leaving : Bool := false
  deriving DecidableEq, Repr

/-- An open phaser (R227). -/
structure Phaser where
  die : Nat
  num : Nat
  counter : Word := 0
  scope : Nat := 3
  members : List PhMember := []
  signals : Nat := 0
  /-- A PHSIG has reached it since it opened (R229). -/
  signalled : Bool := false
  deriving DecidableEq, Repr

/-- The identity of a lock holder or waiter (R232): context die and number, grid number, linear team, TID. -/
structure LockId where
  ctxDie : Nat
  ctx : Nat
  grid : Nat
  team : Nat
  tid : Nat
  deriving DecidableEq, Repr

/-- The record of one lock word (R232): the key of the word, the holder and whether its LOCK has still to return, the FIFO. -/
structure LockRec where
  key : Nat
  holder : Option LockId
  granted : Bool := false
  fifo : List LockId := []
  deriving DecidableEq, Repr

/-- Directory states (R168). -/
inductive DirState where
  | shared (agents : List Nat)
  | exclusive (owner : Nat)
  | modified (owner : Nat) (data : List Byte)
  | ownerLost
  deriving DecidableEq, Repr

/-- A directory entry of a pair-coherent line (R168 to R170, R475): its line key and state; the number of the snoop it awaits, and who
waits for the answer (a thread, or (0, operation)), each with whether its request returns a value; the old owner whose late answer may
still come; and, once the owner is lost, the state it held, the requests discarded and answered, and the index of its error record. -/
structure DirEntry where
  key : Nat
  st : DirState
  snoop : Option Nat := none
  waiters : List (ThreadId × Bool) := []
  /-- The numbers of the waiting requests that come from agents (R169). -/
  nums : List (ThreadId × Nat) := []
  oldOwner : Option Nat := none
  prev : Nat := 0
  writes : Nat := 0
  returns : Nat := 0
  errIdx : Option Nat := none
  deriving DecidableEq, Repr

/-- A caching agent's requests to a home die (R169): the number of the last one sent; the number of the last one served and the reply it got,
the line's bytes, or none for an error reply. -/
structure DirAgent where
  agent : Nat
  home : Nat
  sent : Nat := 0
  served : Nat := 0
  reply : Option (List Byte) := none
  deriving DecidableEq, Repr

/-- A host request of device memory that waits for the owner of a line (R168): a write's bytes, or a read's length. -/
structure HostReq where
  op : Nat
  write : Bool
  die : Nat
  addr : Nat
  data : List Byte
  deriving DecidableEq, Repr

/-- A fault record in a die's queue (R164), with the number of the issue that wrote it, 0 for an engine, and the threads parked on it
(R471, R472). -/
structure FaultRec where
  va : Nat
  pc : DWord
  time : Nat
  ctx : Nat
  core : Nat
  kind : AccKind
  reason : Nat
  count : Nat
  issue : Nat := 0
  who : List ThreadId := []
  deriving DecidableEq, Repr

/-- A mailbox of a scheduler core (R315, R320). -/
structure Mailbox where
  req : List Byte := List.replicate 64 0
  rsp : List Byte := List.replicate 64 0
  door : Word := 0
  busy : Bool := false
  resp : Bool := false
  overrun : Bool := false
  deriving DecidableEq, Repr

/-- A display head (R272, R273). -/
structure Head where
  hctl : Word := 0
  hmode : DWord := 0
  ringBase : DWord := 0
  /-- Within 4 to 12; 4 at reset (log 92). -/
  ringSize : Word := 4
  ringTail : Word := 0
  ringHead : Word := 0
  hstat : Word := 0
  hvector : Word := 0
  /-- The record being shown, if any: its free-running index; and whether this refresh shows it re-projected (R273). -/
  shown : Option Nat := none
  warped : Bool := false
  /-- The record whose pose is the newest (R274), and the periods since the deadline of the shown one. -/
  newest : Nat := 0
  age : Nat := 0
  /-- The pixel last driven: column, row and the codes of its channels (R274). -/
  pixel : Option (Nat × Nat × List Nat) := none
  /-- Records past RINGHEAD whose outcome is final (R273). -/
  final : List Nat := []
  deriving DecidableEq, Repr

/-- Dock states (R316). -/
inductive DockState where
  | undocked | training | booting | syncing | docked | undocking
  deriving DecidableEq, Repr

/-- The number DOCKSTAT shows (R316). -/
def DockState.code : DockState → Nat
  | .undocked => 0 | .training => 1 | .booting => 2 | .syncing => 3 | .docked => 4 | .undocking => 5

/-- Boot states (R325). -/
inductive BootState where
  | reset | awaiting | verifying | running | rejected
  deriving DecidableEq, Repr

/-- The number BOOTSTAT shows (R325). -/
def BootState.code : BootState → Nat
  | .reset => 0 | .awaiting => 1 | .verifying => 2 | .running => 3 | .rejected => 4

/-- An entry of the measurement log (R329). -/
structure LogEntry where
  time : Nat
  component : Nat
  event : Nat
  version : Nat
  digest : List Byte
  deriving DecidableEq, Repr

/-- A die (R14, R315): registers, firmware state and the queues it keeps. -/
structure Die where
  code : Nat
  /-- The package is a D; otherwise P (R9). -/
  isD : Bool
  present : Bool
  boot : BootState := .awaiting
  reject : Nat := 0
  carveBase : Nat := 0
  carveSize : Nat := 0
  locked : Bool := false
  dock : DockState := .undocked
  /-- The lost bits of DOCKSTAT: D0, D1 (R315). -/
  lost0 : Bool := false
  lost1 : Bool := false
  mail : Vector Mailbox 8 := Vector.replicate 8 {}
  power : Nat := 0
  temp : Nat := 0
  reasons : Nat := 0
  clock : Nat := 400
  clockCap : Nat := 1200
  powerCap : Nat := 0
  msix : List (Nat × Byte) := []
  pending : List Nat := []
  /-- The error ring: address, entries, producer count; and records dropped (R324, R482). -/
  errRing : Option (Nat × Nat) := none
  errProd : Nat := 0
  errDropped : Nat := 0
  faults : List FaultRec := []
  traps : List (List Byte) := []
  trapDropped : Nat := 0
  /-- The ring address whose translation core 4 waits for, and whether its fault was declared unresolvable (R285). -/
  trapHeld : Option Nat := none
  trapDoomed : Bool := false
  /-- The granary range on P (R307). -/
  granary : Option (Nat × Nat) := none
  /-- Granary frames that have become pages of a restarted context (R309): address and size. -/
  given : List (Nat × Nat) := []
  coresOff : List Nat := []
  measure : List Byte := List.replicate 64 0
  log : List LogEntry := []
  heads : List Head := []
  /-- Stochastic-rounding counters of the home nodes that have used one (R122). -/
  srCtr : List (Nat × Nat) := []
  /-- Running or tripped (R332). -/
  tripped : Bool := false
  /-- Mailbox requests whose function has still to complete: the scheduler core, and the function's numbers (R320). -/
  waiting : List (Nat × List Nat) := []
  d3hot : Bool := false
  /-- The record of a generation that differs stands written for this docking (R317). -/
  refused : Bool := false
  /-- The scheduler core that RELOAD has stopped, and the security version, digest of its new firmware (R330). -/
  stopped : Option (Nat × Nat × List Byte) := none
  /-- The hardware mailboxes (R319): sender, receiver, and the 64-byte messages between them, oldest first. -/
  fifos : List (Nat × Nat × List (List Byte)) := []
  /-- Corrected soft errors by block (R172): those of the last 65,536. -/
  soft : List (Nat × Nat) := []
  deriving DecidableEq, Repr

/-- A copy handed to a copy engine (R208), and how far it has walked. -/
structure CopyOp where
  op : Nat
  die : Nat
  core : Nat
  ctx : Nat
  /-- The issuing thread, none for a COPY command (R65). -/
  who : Option ThreadId
  desc : Nat
  sofs : Int
  dofs : Int
  mode : Nat
  tag : Nat
  /-- Engine context and number, when tracked: the context index and k. -/
  ectx : Nat
  k : Option Nat
  /-- The receiving teams by rank, and the multicast mask when valid (R208). -/
  receivers : List Nat
  mask : Option Nat
  poisoned : Bool := false
  pc : DWord := 0
  cmd : Option (Nat × Nat) := none
  /-- The descriptor as read at the first step, the walk index reached, the translation the operation is held for (address and kind),
  whether that fault was declared unresolvable, and the receivers that have failed. -/
  dbytes : List Byte := []
  walk : Nat := 0
  held : Option (Nat × AccKind) := none
  doomed : Bool := false
  failedRanks : List Nat := []
  /-- An uncorrectable error that meets a receiver's bank: its place among the receivers, and the walk index (R214). -/
  bank : Option (Nat × Nat) := none
  deriving DecidableEq, Repr

/-- An accepted MMA (R136, R216): the tile, and the operand elements as raw bytes of 32 rows each with their scales. -/
structure MmaOp where
  op : Nat
  team : Nat
  tile : Nat
  zero : Bool
  afmt : Nat
  bfmt : Nat
  a : List (List Nat)
  b : List (List Nat)
  ascale : List Nat
  bscale : List Nat
  deriving DecidableEq, Repr

/-- The destination of a drain (R221): chunks of one size by key, home and COH, in row order (16 bytes in memory, single bytes in a scratchpad), or a
peer tile. -/
inductive DrainDest where
  | chunks (size : Nat) (cs : List (Nat × Nat × Nat))
  | peer (rank tile : Nat) (mask : Option Nat)
  deriving DecidableEq, Repr

/-- An accepted MDRAIN of kinds 1 to 4 (R222, R223): the bytes it writes, or the tile it sends. -/
structure DrainOp where
  op : Nat
  team : Nat
  who : ThreadId
  data : List Byte := []
  tile : Tile := {}
  dest : DrainDest
  /-- Its engine context and number, when tracked (R205). -/
  num : Option (Nat × Nat) := none
  deriving DecidableEq, Repr

/-- An EMIT handed to the graph engine (R398). -/
structure EmitOp where
  op : Nat
  who : ThreadId
  ctxDie : Nat
  ctx : Nat
  va : Nat
  size : Nat
  node : Nat
  /-- The address whose translation it waits for (R213). -/
  held : Option Nat := none
  deriving DecidableEq, Repr

/-- A TLNOTE handed to an engine context (R463). -/
structure NoteOp where
  op : Nat
  team : Nat
  ectx : Nat
  k : Nat
  scope : Nat
  deriving DecidableEq, Repr

/-- An operation handed to a tracked engine context (R205): its team (none for a queue's context), the context index, its number, the
timeline it advances, and whether it has completed while a lower one has not. -/
structure OpOut where
  team : Option Nat
  die : Nat
  ctx : Nat
  ectx : Nat
  k : Nat
  tl : Nat
  scope : Nat
  done : Bool := false
  deriving DecidableEq, Repr

/-- A timeline's advance to k, or the status word of its first errored operation (number and KIND), that is still to be written (R196, R205):
its own operation name, the engine it is written by, and the address whose translation it waits for (R213). -/
structure TlWrite where
  op : Nat
  die : Nat
  core : Nat
  ctx : Nat
  tl : Nat
  k : Nat := 0
  err : Option (Nat × Nat) := none
  /-- A word stored at the address as it is: the status word of a queue (R301). -/
  word : Option Nat := none
  held : Option Nat := none
  deriving DecidableEq, Repr

/-- A trace handed to the ray engine and not yet accepted (R248): its thread, whether it is TRACE.wait, the record and the scene, its
number and scope, the tracing node, and the translation it waits for. -/
structure TraceOp where
  op : Nat
  die : Nat
  core : Nat
  ctx : Nat
  who : ThreadId
  wait : Bool
  ra : Nat
  sd : Nat
  num : Option (Nat × Nat)
  scope : Nat
  node : Option Nat
  isNode : Bool
  held : Option Nat := none
  doomed : Bool := false
  deriving DecidableEq, Repr

/-- An any-hit candidate (R255): token, instance, primitive, tr, barycentrics, and the node team, by its grid, whose batch holds its record. -/
structure Cand where
  token : Nat
  inst : Nat
  prim : Nat
  tr : Nat
  bary : Nat
  user : Nat
  grid : Option Nat := none
  deriving DecidableEq, Repr

/-- Where a ray in flight stands (R250, R252, R257). -/
inductive RayPlace where
  /-- In a treelet's queue, since a dispatch count of its context. -/
  | queued (treelet enq : Nat)
  /-- In one of a core's two mill buffers: its traversal of a treelet still to run, or its leave still to come. -/
  | mill (core buf treelet : Nat) (ran : Bool)
  /-- Its traversal is done; candidates are outstanding. -/
  | judged
  /-- It has ended; its status is still to write. -/
  | ending (status : Nat)
  /-- Its status is written; its continuation is still to act. -/
  | ended (status : Nat)
  /-- Its waiting thread has the status; kind 00 is still to write. -/
  | closing
  deriving DecidableEq, Repr

/-- A ray in flight (R236 to R257). -/
structure Ray where
  op : Nat
  die : Nat
  core : Nat
  ctx : Nat
  who : ThreadId
  wait : Bool
  handle : Nat
  ra : Nat
  sd : Nat
  num : Option (Nat × Nat)
  scope : Nat
  place : RayPlace
  cands : List Cand := []
  /-- Candidates found and not yet appended, the next token, and the exits of the treelet just run. -/
  pend : List Cand := []
  token : Nat := 0
  exits : List Nat := []
  /-- Its record as it stands, where that is still to write (R257, R260). -/
  record : Option (List Byte) := none
  /-- The chunk of the spill pool that holds its queue entry; none while it stands in the queue's head (R250). -/
  chunk : Option Nat := none
  /-- It will end with status terminated (R237). -/
  term : Bool := false
  /-- The record is its own: false when the hand-off was refused (R248). -/
  owns : Bool := true
  /-- The KIND of its error. -/
  err : Nat := 0
  deriving DecidableEq, Repr

/-- An admitted scene (R241, R251). -/
structure Scene where
  die : Nat
  ctx : Nat
  sd : Nat
  tt : Nat
  count : Nat
  root : Nat
  it : Nat
  icount : Nat
  age : Nat
  maxRays : Nat
  anyhit : Nat
  /-- The spill pool: its address, and its size in 4 KiB chunks (R241, R250). -/
  pool : Nat := 0
  chunks : Nat := 0
  deriving DecidableEq, Repr

/-- A candidate decision handed to the ray engine by a thread of a grid (R256). -/
structure HitOp where
  op : Nat
  die : Nat
  core : Nat
  ctx : Nat
  grid : Nat := 0
  ca : Nat
  dec : Nat
  held : Option Nat := none
  doomed : Bool := false
  deriving DecidableEq, Repr

/-- A page that rays or dispatches wait for (R260), by the names of the rays. -/
structure MillHold where
  die : Nat
  ctx : Nat
  who : List Nat
  va : Nat
  doomed : Bool := false
  deriving DecidableEq, Repr

/-- A pass (R262). -/
structure Pass where
  surface : Nat
  width : Nat
  height : Nat
  words : Nat
  load : Nat
  ops : List Nat
  clears : List Nat
  tl : Nat
  ordinal : Nat
  deriving DecidableEq, Repr

/-- A primitive (R265): its sequence number, its culling flags, fragment node, the x, y, z, 1/w words of its vertices and its attributes. -/
structure Prim where
  seq : Nat
  cull : Nat
  node : Nat
  v : List Nat
  na : Nat
  attrs : List Nat
  deriving DecidableEq, Repr

/-- A fragment (R266, R267): its primitive, pixel, coverage, the thread that has it, and whether its turn has ended. -/
structure Frag where
  quad : Nat
  k : Nat
  prim : Prim
  x : Nat
  y : Nat
  covered : Bool
  who : Option ThreadId := none
  ended : Bool := false
  deriving DecidableEq, Repr

/-- A tile of a pass (R263): its place, owner, the primitives binned to it, the slot it is open in, whether it has been open in this pass,
and the sequence number of its newest primitive. -/
structure TileWork where
  tx : Nat
  ty : Nat
  owner : Nat
  prims : List Prim := []
  slot : Option Nat := none
  opened : Bool := false
  newest : Nat := 0
  deriving DecidableEq, Repr

/-- The raster and blend path of a context (R262 to R267). -/
structure Gfx where
  die : Nat
  ctx : Nat
  pass : Option Pass := none
  ordinal : Nat := 0
  /-- The cores of the partition when the pass began, and those that remained after each vacate since (R263, R264). -/
  cores : List Nat := []
  remain : List (List Nat) := []
  /-- The values that words of pixels have held in this pass: column, row, word and value (R267). -/
  past : List (Nat × Nat × Nat × Nat) := []
  lastSeq : Option Nat := none
  tiles : List TileWork := []
  frags : List Frag := []
  quads : Nat := 0
  /-- The surface address whose translation the path waits for, and the pages declared unresolvable. -/
  held : Option Nat := none
  doomed : List Nat := []
  deriving DecidableEq, Repr

/-- A PXOUT handed to the blender (R267, R268). -/
structure BlendOp where
  op : Nat
  die : Nat
  ctx : Nat
  who : ThreadId
  x : Nat
  y : Nat
  vals : List Nat
  deriving DecidableEq, Repr

/-- A page mirrored into the granary (R304): its virtual address, level, frame, and its entry's two dwords. -/
structure Mirror where
  va : Nat
  level : Nat
  frame : Nat
  d0 : Nat
  d1 : Nat
  deriving DecidableEq, Repr

/-- The last committed checkpoint of a context (R297, R304, R307): what its image holds, the mirrored pages, and the other leaves of its
tables; the address of its commit record in the granary; and the die and number the context has now. -/
structure Commit where
  die : Nat
  num : Nat
  seq : Nat
  time : Nat
  recordVa : Nat
  ctx : Context
  queues : List Queue
  grids : List Grid
  teams : List Team
  phasers : List Phaser
  locks : List LockRec
  rays : List Ray
  scenes : List Scene
  gfx : List Gfx
  pages : List Mirror
  leaves : List Mirror
  deriving DecidableEq, Repr

end Sys2Proof.Machine
end

