-- ==== Sys2Proof/Machine/State.lean ====
section
/-! DEFINITION. The state of the machine, all of it plain data: what 01_machine.md to 12_platform.md give the pair, and the
model's own bookkeeping of what issues next. -/
namespace Sys2Proof.Machine

/-- Why the machine stops with a fault. -/
inductive Fault where
  /-- An instruction word executed in a state that issues to no thread. Raised by every meaning of an instruction word;
  `step` never reaches it. Safe. -/
  | noIssuingThread
  deriving DecidableEq, Repr

/-- Why the model has no meaning for a step. -/
inductive Refusal where
  /-- An instruction not modelled yet, by its mnemonic. Raised by exec's arms alone. Safe. -/
  | notModelled (mnemonic : String)
  deriving DecidableEq, Repr

/-- The last application of float atomics at a location (R142, R201, R202): its key, the context and what the parts have in common, the
issue it came from, the value before it, its parts in order, and the draw of an SR application. -/
structure Merge where
  key : Nat
  ctx : Nat × Nat
  op : Nat
  order : Nat
  scope : Nat
  issue : Option Nat
  base : Nat
  parts : List Nat
  draw : Nat
  deriving DecidableEq, Repr

/-- The instruction a bundle is issuing (R21, R81): its core, the threads still to run it, those that have run it and stay in the
bundle, the instruction's pc, the stores it has made, and a number that names it. -/
structure Issue where
  die : Nat
  core : Nat
  quarter : Nat
  pc : DWord
  todo : List ThreadId
  done : List ThreadId := []
  since : Nat := 0
  /-- A prefix latched for the instruction that follows it (R347). -/
  pfx : Option Nat := none
  num : Nat := 0
  /-- The stores this issue has made: key, bytes, home lane and whether in the window (R150, R456). -/
  stores : List (Nat × Nat × Nat) := []
  /-- The threads that stood in the bundle when it issued (R470). -/
  all : List ThreadId := []
  deriving DecidableEq, Repr

/-- The machine. -/
structure State where
  /-- Which configuration is attached (R9). -/
  conf : Config.Conf
  dies : List Die
  ctxs : List Context := []
  queues : List Queue := []
  grids : List Grid := []
  teams : List Team := []
  cores : List CoreState := []
  phasers : List Phaser := []
  locks : List LockRec := []
  dirs : List DirEntry := []
  dirAgents : List DirAgent := []
  /-- Host requests that wait for the owner of a line (R168). -/
  hostReqs : List HostReq := []
  /-- Memory: (key, byte), keys strictly rising, no byte 0 (R143, R144, R146). -/
  mem : List Host.Cell := []
  /-- Poisoned lines by the key of their first byte (R172). -/
  poison : List Nat := []
  /-- Pages lost with a die: context die and number, and page address (R310). -/
  lostPages : List (Nat × Nat × Nat) := []
  copies : List CopyOp := []
  mmas : List MmaOp := []
  drains : List DrainOp := []
  emits : List EmitOp := []
  notes : List NoteOp := []
  traces : List TraceOp := []
  rays : List Ray := []
  scenes : List Scene := []
  hits : List HitOp := []
  millHolds : List MillHold := []
  gfx : List Gfx := []
  blends : List BlendOp := []
  /-- The committed checkpoints that P holds (R307). -/
  commits : List Commit := []
  ops : List OpOut := []
  /-- Writes of timelines that wait (R196, R205, R213). -/
  tlWrites : List TlWrite := []
  /-- Float atomics that a later request may join (R142, R202), each until its location is written otherwise. -/
  merges : List Merge := []
  /-- Global timestamp in 1 ns ticks (R286). -/
  time : Nat := 0
  /-- The next engine operation number, team, grid and queue identity of the model. -/
  nextId : Nat := 1
  /-- Operations and inputs to come, oldest first (the model's own). -/
  agenda : List Instr := []
  /-- The instruction being issued (the model's own). -/
  issue : Option Issue := none
  /-- The draws made from the free values (the model's own). -/
  free : Nat := 0
  /-- Steps taken (the model's own). -/
  steps : Nat := 0
  deriving DecidableEq, Repr

/-- What an address that memory does not list reads as (log 1). -/
def unlistedByte : Byte := 0

/-- P after reset (R315, R325): awaiting its image, undocked, at 400 MHz, its heads idle. -/
def Die.resetP : Die := { code := 0, isD := false, present := true, powerCap := 20, heads := [{}, {}] }

/-- A dock die after reset (R315, R325). -/
def Die.resetD (code : Nat) (present : Bool) : Die := { code := code, isD := true, present := present, powerCap := 650 }

/-- The machine right after reset: the hand-held configuration, undocked (log 2); no context, queue, team or thread exists. -/
def State.reset : State :=
  { conf := .handheld, dies := [Die.resetP, Die.resetD 1 false, Die.resetD 2 false] }

end Sys2Proof.Machine
end

