-- ==== Sys2Proof/Machine/Mem.lean ====
section
/-! DEFINITION. Memory and translation: the canonical cell list, the keys of device, pair, host and commons locations, the
five-level walk with its checks and tracking bits, first-level lines, poison and the pair-coherent directory (06_memory.md). -/
namespace Sys2Proof.Machine

/-- The byte at a key. -/
def Memory.get : List Host.Cell → Nat → Byte
  | [], _ => unlistedByte
  | (a, b) :: m, k => if k < a then unlistedByte else if k = a then b else Memory.get m k

/-- A byte written at a key; writing what an unlisted key reads as removes the entry. -/
def Memory.put : List Host.Cell → Nat → Byte → List Host.Cell
  | [], k, v => if v = unlistedByte then [] else [(k, v)]
  | (a, b) :: m, k, v =>
    if k < a then (if v = unlistedByte then (a, b) :: m else (k, v) :: (a, b) :: m)
    else if k = a then (if v = unlistedByte then m else (k, v) :: m)
    else (a, b) :: Memory.put m k v

/-- Every key of `m` is above `k`, and `m` is in canonical form above it. -/
def Memory.wfAbove : Option Nat → List Host.Cell → Bool
  | _, [] => true
  | lo, (a, b) :: m => (match lo with | none => true | some k => decide (k < a)) && b != unlistedByte && Memory.wfAbove (some a) m

/-- The canonical form: keys strictly rising, no entry equal to what an unlisted key reads as. -/
def Memory.wf (m : List Host.Cell) : Bool := Memory.wfAbove none m

/-- The bytes from a key on. -/
def Memory.read (m : List Host.Cell) (k n : Nat) : List Byte := (List.range n).map fun i => Memory.get m (k + i)

/-- Bytes written from a key on, lowest first. -/
def Memory.write : List Host.Cell → Nat → List Byte → List Host.Cell
  | m, _, [] => m
  | m, k, b :: bs => Memory.write (Memory.put m k b) (k + 1) bs

/-- A range of keys cleared to zero. -/
def Memory.clear (m : List Host.Cell) (k n : Nat) : List Host.Cell := m.filter fun c => !(k ≤ c.1 && c.1 < k + n)

/-- The little-endian value of bytes in memory (R3). -/
def Memory.readNat (m : List Host.Cell) (k n : Nat) : Nat := natLE (Memory.read m k n)

/-- The key of a physical address by home code: 0 to 2 a die, 3 the host (R143, R144, R157). -/
def physKey (home pa : Nat) : Nat := home * 2 ^ 52 + pa % 2 ^ 52
/-- The key of a commons byte (R146): above every physical address. -/
def commonsKey (die core off : Nat) : Nat := 2 ^ 56 + die * 2 ^ 28 + core * 2 ^ 20 + off
/-- The line of a key (R152). -/
def lineKey (k : Nat) : Nat := k / 64 * 64

/-- The field of `n` bits at `lo`. -/
def bitsAt (v : Nat) (lo n : Nat) : Nat := v / 2 ^ lo % 2 ^ n
/-- One bit as a Bool. -/
def flagAt (v : Nat) (lo : Nat) : Bool := v / 2 ^ lo % 2 == 1

/-- The fields of a page-table entry (R157). -/
structure Pte where
  d0 : Nat
  d1 : Nat
  deriving DecidableEq, Repr

def Pte.v (e : Pte) : Bool := flagAt e.d0 0
def Pte.leaf (e : Pte) : Bool := flagAt e.d0 1
def Pte.r (e : Pte) : Bool := flagAt e.d0 2
def Pte.w (e : Pte) : Bool := flagAt e.d0 3
def Pte.x (e : Pte) : Bool := flagAt e.d0 4
def Pte.imm (e : Pte) : Bool := flagAt e.d0 5
def Pte.code (e : Pte) : Bool := flagAt e.d0 8
def Pte.dirty (e : Pte) : Bool := flagAt e.d0 7
def Pte.ckd (e : Pte) : Bool := flagAt e.d0 9
def Pte.home (e : Pte) : Nat := bitsAt e.d0 10 2
def Pte.addr (e : Pte) : Nat := bitsAt e.d0 13 39 * 2 ^ 13
def Pte.fmt (e : Pte) : Nat := bitsAt e.d0 52 8
def Pte.coh (e : Pte) : Nat := bitsAt e.d1 0 2
def Pte.uc (e : Pte) : Bool := flagAt e.d1 2
def Pte.ns (e : Pte) : Bool := flagAt e.d1 3

/-- The reasons of a fault record (R164). -/
def reasonNotPresent : Nat := 0
def reasonRights : Nat := 1
def reasonHome : Nat := 2
def reasonCodeWrite : Nat := 3
def reasonEntryBad : Nat := 4

/-- The entries a walker rejects with ENTRYBAD, at a level (R158). -/
def Pte.bad (e : Pte) (level : Nat) : Bool :=
  bitsAt e.d0 60 4 != 0 || flagAt e.d0 12 || e.d1 / 2 ^ 4 != 0
    || (!e.leaf && (bitsAt e.d0 2 10 != 0 || e.fmt != 0 || e.d1 != 0))
    || (e.leaf && 3 ≤ level) || (!e.leaf && level == 0)
    || (e.leaf && level == 1 && bitsAt e.d0 13 9 != 0) || (e.leaf && level == 2 && bitsAt e.d0 13 18 != 0)
    || (e.imm && e.w) || (e.code && e.w)
    || e.coh == 3 || (e.coh == 2 && e.home == 3) || (e.ns && e.home != 3)

/-- What a walk finds: the leaf, its level and the key where it stands. -/
structure Leaf where
  pte : Pte
  level : Nat
  key : Nat
  deriving DecidableEq, Repr

/-- The five-level walk in the device memory of die `die`, from a table at a level; a reason of R164 when it fails (R156, R158). -/
def walkFrom (m : List Host.Cell) (die va : Nat) : Nat → Nat → Except Nat Leaf
  | level, table =>
    let k := physKey die (table + 16 * bitsAt va (13 + 9 * level) (if level == 4 then 8 else 9))
    let e : Pte := ⟨Memory.readNat m k 8, Memory.readNat m (k + 8) 8⟩
    if !e.v then .error reasonNotPresent
    else if e.bad level then .error reasonEntryBad
    else if e.leaf then .ok ⟨e, level, k⟩
    else match level with
      | 0 => .error reasonEntryBad
      | l + 1 => walkFrom m die va l e.addr

/-- The rights of R159 for a kind of access; the reason when they fail. -/
def Pte.rights (e : Pte) : AccKind → Option Nat
  | .read => if e.r then none else some reasonRights
  | .write => if e.w then none else some (if e.code then reasonCodeWrite else reasonRights)
  | .atomic => if e.r && e.w then none else some (if e.code then reasonCodeWrite else reasonRights)
  | .execute => if e.x then none else some reasonRights

/-- The bytes a leaf at a level covers (R156). -/
def pageBytes (level : Nat) : Nat := 2 ^ (13 + 9 * level)
/-- The physical address a leaf gives a virtual address (R156). -/
def Pte.phys (e : Pte) (level va : Nat) : Nat := e.addr / pageBytes level * pageBytes level + va % pageBytes level

/-- The reserved page formats (R128, R484). -/
def fmtBad (fmt : Nat) : Bool :=
  let f := fmt / 8
  14 ≤ f || fmt / 2 % 4 != 0 || (fmt % 2 == 1 && (f == 0 || 10 ≤ f))

/-- A canonical address (R143). -/
def canonical (va : Nat) : Bool := bitsAt va 56 8 == 0 || bitsAt va 56 8 == 255

/-- Where a checked access goes: the key of its first byte, its home (4 for the commons), and the page's attributes. -/
structure Loc where
  key : Nat
  home : Nat
  coh : Nat := 0
  uc : Bool := false
  imm : Bool := false
  fmt : Nat := 0
  code : Bool := false
  deriving DecidableEq, Repr

/-- Why a check of R143 fails: a direct trap (cause, info code), or a park with a reason. -/
inductive AccErr where
  | trap (cause code : Nat)
  | park (reason : Nat)
  deriving DecidableEq, Repr

def causeIllegal : Nat := 0x01
def causePriv : Nat := 0x02
def causeAlign : Nat := 0x03
def causeAccess : Nat := 0x04
def causeXlate : Nat := 0x05
def causePoison : Nat := 0x06
def causeRecipe : Nat := 0x07
def causeRegquota : Nat := 0x08
def causeDeadread : Nat := 0x09
def causeCvmismatch : Nat := 0x0A
def causeCopyerr : Nat := 0x0B
def causeBkpt : Nat := 0x0C
def causeSwtrap : Nat := 0x0D
def causeWatch : Nat := 0x0E
def causePreempt : Nat := 0x0F
def causeMigrate : Nat := 0x10
def causeLinkloss : Nat := 0x11

/-- The info codes of R108, R128, R165, R234, R312 that this file raises. -/
def codeWindowBusy : Nat := 0x01
def codeWindowKind : Nat := 0x02
def codeFormatBad : Nat := 0x09
def codeTypedRange : Nat := 0x0A
def codeNotMapped : Nat := 0x0B
def codeNoRight : Nat := 0x0C
def codeEntryBad : Nat := 0x0D
def codeHomeAbsent : Nat := 0x0E
def codeNonCanon : Nat := 0x0F
def codeWindowHole : Nat := 0x10
def codeCrossCtx : Nat := 0x11
def codeOwnerLost : Nat := 0x12
def codeUncorrectable : Nat := 0x13
def codeHostAtomic : Nat := 0x14
def codeCarveout : Nat := 0x15
def codePageLost : Nat := 0x25

/-- The die of a code. -/
def State.die? (s : State) (code : Nat) : Option Die := s.dies.find? (·.code == code)
/-- Whether a die of a code is present (R9). -/
def State.present (s : State) (code : Nat) : Bool := match s.die? code with | some d => d.present | none => false
/-- Whether a die is a D (R9): codes 1 and 2. -/
def isDie (code : Nat) : Bool := code != 0
/-- A context by die and number (R58). -/
def State.ctx? (s : State) (die num : Nat) : Option Context := s.ctxs.find? fun c => c.die == die && c.num == num
/-- A core's state: empty until something changes it. -/
def State.core (s : State) (die num : Nat) : CoreState :=
  match s.cores.find? (fun c => c.die == die && c.num == num) with
  | some c => c
  | none => { die := die, num := num }
/-- A core's state replaced. -/
def State.setCore (s : State) (c : CoreState) : State :=
  { s with cores := c :: s.cores.filter fun o => !(o.die == c.die && o.num == c.num) }
/-- A context's state changed. -/
def State.updCtx (s : State) (die num : Nat) (f : Context → Context) : State :=
  { s with ctxs := s.ctxs.map fun c => if c.die == die && c.num == num then f c else c }
/-- A die's state changed. -/
def State.updDie (s : State) (code : Nat) (f : Die → Die) : State :=
  { s with dies := s.dies.map fun d => if d.code == code then f d else d }

/-- The timestamp of a die, and of a core: within the skew bounds of R286, 20 ns in a die and 250 ns between dies. -/
def State.dieTime (s : State) (die : Nat) : Nat := (s.time + Config.dieSkew die % 231) % 2 ^ 64
def State.coreTime (s : State) (die core : Nat) : Nat := (s.time + Config.dieSkew die % 231 + Config.coreSkew die core % 20) % 2 ^ 64

/-- The access tables of R175 on a physical address of a die: the carve-out after FWLOCK, the granary, and device memory. -/
def State.tableRefuses (s : State) (home pa n : Nat) : Option Nat :=
  match s.die? home with
  | none => none
  | some d =>
    if d.locked && pa < d.carveBase + d.carveSize && d.carveBase < pa + n then some codeCarveout
    else match d.granary with
      | some (b, sz) => if pa < b + sz && b < pa + n && !(d.given.any fun f => f.1 ≤ pa && pa + n ≤ f.1 + f.2) then some codeCarveout
          else if Config.memoryBytes d.isD < pa + n then some 0 else none
      | none => if Config.memoryBytes d.isD < pa + n then some 0 else none

/-- The tracking bits a walk sets in the leaf (R160): A always, D for a write or an atomic, CKD with D under CHECKPOINT. -/
def trackBits (e : Pte) (kind : AccKind) (ckpt : Bool) : Nat :=
  let w := kind == .write || kind == .atomic
  e.d0 ||| 64 ||| (if w then 128 else 0) ||| (if w && ckpt then 512 else 0)

/-- A cached leaf that serves an access (R160, R162). -/
def TlbEntry.serves (t : TlbEntry) (ctx version va : Nat) (kind : AccKind) (ckpt : Bool) : Bool :=
  let e : Pte := ⟨t.d0.toNat, t.d1.toNat⟩
  t.ctx == ctx && t.version == version && t.page == va / pageBytes t.level && (e.rights kind).isNone
    && !((kind == .write || kind == .atomic) && (!e.dirty || (ckpt && !e.ckd)))

/-- The COH a context sees on a die: a checkpointed context reaches P-homed pages as remotely mapped (R166, R305). -/
def Context.cohOf (c : Context) (die : Nat) (e : Pte) : Nat := if c.checkpoint && e.home == 0 && die != 0 then 1 else e.coh

/-- The frame a code version has of its own for the page of an address: home and physical address (R361). -/
def Context.codeFrame (c : Context) (version va : Nat) : Option (Nat × Nat) :=
  (c.versions.find? (·.num == version)).bind fun v => (v.frames.find? (·.1 == va / 2 ^ 13 * 2 ^ 13)).map (·.2)

/-- The addresses at which a walk reads entries, from a table at a level (R156). -/
def walkPath (m : List Host.Cell) (die va : Nat) : Nat → Nat → List Nat
  | level, table =>
    let a := table + 16 * bitsAt va (13 + 9 * level) (if level == 4 then 8 else 9)
    let e : Pte := ⟨Memory.readNat m (physKey die a) 8, Memory.readNat m (physKey die a + 8) 8⟩
    a :: (match level with
      | 0 => []
      | l + 1 => if e.v && !e.bad (l + 1) && !e.leaf then walkPath m die va l e.addr else [])
/-- The code by which an access table refuses a read of a walk (R175): a walker is no scheduler core. -/
def State.walkRefused (s : State) (die va root : Nat) : Option Nat := (walkPath s.mem die va 4 root).findSome? fun a => s.tableRefuses die a 16
/-- Where a walk that a table refuses stands among the reasons of R164: above them, with the info code. -/
def reasonRefused : Nat := 256

/-- Translate an address for a context on a core: the cached leaf, or a walk that sets the tracking bits and installs the entry
(R160, R162). `version` is the bound code version of an execute access, else 0 (R360). -/
def State.translate (s : State) (die core : Nat) (c : Context) (version va : Nat) (kind : AccKind) :
    Except Nat (Pte × Nat) × State :=
  let cs := s.core die core
  match cs.tlb.find? (fun t => t.serves c.num version va kind c.checkpoint) with
  | some t => (.ok (⟨t.d0.toNat, t.d1.toNat⟩, t.level), s)
  | none =>
    match s.walkRefused die va c.root with
    | some code => (.error (reasonRefused + code), s)
    | none =>
    match walkFrom s.mem die va 4 c.root with
    | .error r => (.error r, s)
    | .ok lf =>
      match lf.pte.rights kind with
      | some r => (.error r, s)
      | none =>
        let frame := if kind == .execute then c.codeFrame version va else none
        let home := match frame with | some (h, _) => h | none => lf.pte.home
        if home != die && home != 3 && c.cohOf die lf.pte == 0 && s.present home then (.error reasonHome, s) else
        let d0 := trackBits lf.pte kind c.checkpoint
        let s1 := { s with mem := Memory.write s.mem lf.key (bytesLE 8 d0) }
        let (e, lvl) : Pte × Nat := match frame with
          | some (h, pa) => (⟨d0 - lf.pte.addr + pa - lf.pte.home * 1024 + h * 1024, lf.pte.d1⟩, 0)
          | none => (⟨d0, lf.pte.d1⟩, lf.level)
        let t : TlbEntry :=
          { ctx := c.num, version := version, page := va / pageBytes lvl, level := lvl
            d0 := BitVec.ofNat 64 e.d0, d1 := BitVec.ofNat 64 e.d1 }
        (.ok (e, lvl), s1.setCore { cs with tlb := (t :: cs.tlb.filter fun o =>
          !(o.ctx == t.ctx && o.version == t.version && o.page == t.page && o.level == t.level)).take 2048 })

/-- Whether an address lies in the commons window, which is in the canonical lower half (R146). -/
def inWindow (va : Nat) : Bool := va < 2 ^ 56 && Config.commons ≤ va && va < Config.commons + 2 ^ 28

/-- The region of a core that holds a slice offset (R147). -/
def CoreState.region? (c : CoreState) (off : Nat) : Option Region := c.regions.find? fun r => r.base ≤ off && off < r.base + r.size

/-- A window address: core, slice offset and region, or the trap of R146 and R147. -/
def State.window (s : State) (die ctx va : Nat) : Except AccErr (Nat × Nat × Region) :=
  let o := va - Config.commons
  let core := o / 2 ^ 20
  let off := o % 2 ^ 20
  if Config.cores (isDie die) ≤ core || Config.sliceBytes (isDie die) ≤ off then .error (.trap causeAccess codeWindowHole)
  else match (s.core die core).region? off with
    | none => .error (.trap causeAccess codeWindowHole)
    | some r => if r.ctx != ctx then .error (.trap causeAccess codeCrossCtx) else .ok (core, off, r)

/-- The checks of R143 after alignment on a mapped address, in order: canonical, translation, a present home, the format, the
access table; an entry that is not present because its page was lost with a die is LINKLOSS (R310), until it is mapped anew; a typed access needs a format and an index below its capacity (R129). The
window is the caller's. -/
def State.locate (s : State) (die core : Nat) (c : Context) (version va n : Nat) (kind : AccKind) (typed : Bool) :
    Except AccErr Loc × State :=
  if !canonical va then (.error (.trap causeXlate codeNonCanon), s)
  else
    let page := (die, c.num, va / 2 ^ 13 * 2 ^ 13)
    match s.translate die core c version va kind with
    | (.error r, s') => (.error (if r == reasonNotPresent && s.lostPages.contains page then .trap causeLinkloss codePageLost
        else if reasonRefused ≤ r then .trap causeAccess (r - reasonRefused) else .park r), s')
    | (.ok (e, lvl), s') =>
      let s' : State := if s.lostPages.contains page then { s' with lostPages := s'.lostPages.filter (· != page) } else s'
      if e.home != 3 && !s.present e.home then (.error (.trap causeXlate codeHomeAbsent), s')
      else if fmtBad e.fmt then (.error (.trap causeXlate codeFormatBad), s')
      else if typed && e.fmt / 8 == 0 then (.error (.trap causeAccess codeFormatBad), s')
      else if typed && Num.capacity (e.fmt / 8) (e.fmt % 2 == 1) ≤ va % 8192 then (.error (.trap causeAccess codeTypedRange), s')
      else
        let pa := e.phys lvl va
        match (if e.home == 3 then none else s.tableRefuses e.home pa n) with
        | some code => (.error (.trap causeAccess code), s')
        | none =>
          (.ok { key := physKey e.home pa, home := e.home, coh := c.cohOf die e, uc := e.uc, imm := e.imm, fmt := e.fmt, code := e.code },
            s')

/-- The home node index of a physical address (R153). -/
def homeNode (isD : Bool) (pa : Nat) : Nat :=
  ((bitsAt pa 6 6) ^^^ (bitsAt pa 12 6) ^^^ (bitsAt pa 18 6) ^^^ (bitsAt pa 24 6) ^^^ (bitsAt pa 30 6) ^^^ (bitsAt pa 36 6)
    ^^^ (bitsAt pa 42 6) ^^^ (bitsAt pa 48 4)) % Config.homeNodes isD

/-- A first-level line of a core holding a key. -/
def CoreState.line? (c : CoreState) (key : Nat) : Option L1Line := c.l1.find? (·.key == lineKey key)

/-- A line discarded from a core (R155, R152). -/
def CoreState.dropLine (c : CoreState) (key : Nat) : CoreState := { c with l1 := c.l1.filter (·.key != lineKey key) }

/-- A core's first-level copies of some bytes discarded: an engine of the core writes at the home, as an agent of its team's scope (R152,
R178, R195). A number that names no core discards none. -/
def State.dropCopies (s : State) (die core key n : Nat) : State :=
  { s with cores := s.cores.map fun (c : CoreState) => if c.die == die && c.num == core then
      { c with l1 := c.l1.filter fun l => l.key + 64 ≤ key || key + n ≤ l.key } else c }

/-- The lines the first-level cache of a core has room for: four in each slice unit that no region holds (R147, R152). -/
def CoreState.lineRoom (c : CoreState) : Nat := Config.sliceBytes (isDie c.die) / 64 - 4 * (c.regions.map fun r => (r.size + 255) / 256).sum
/-- The regions of a core replaced (R147, R152): new ones take units of the cache, and the lines in those are discarded. Which lines stood in
them is a draw. -/
def State.setRegions (s : State) (die core : Nat) (rs : List Region) : State :=
  let cs := s.core die core
  let cs' : CoreState := { cs with regions := rs }
  if rs.all cs.regions.contains then s.setCore cs'
  else
    let d := Config.freeNat s.free
    let kept := (cs.l1.zip (List.range cs.l1.length)).filterMap fun (l, i) => if flagAt d i then some l else none
    { s.setCore { cs' with l1 := kept.take cs'.lineRoom } with free := s.free + 1 }
/-- A line filled into a core's cache (R152): one it holds gives way when there is no room, which one being a draw. -/
def State.fillLine (s : State) (die core : Nat) (l : L1Line) : State :=
  let cs := s.core die core
  if cs.l1.length < cs.lineRoom then s.setCore { cs with l1 := l :: cs.l1 }
  else { s.setCore { cs with l1 := (l :: cs.l1.eraseIdx (Config.freeNat s.free % cs.l1.length)).take cs.lineRoom } with free := s.free + 1 }

/-- The discard of an acquire at cluster scope or wider: lines of pages without IMM (R187). -/
def CoreState.acquire (c : CoreState) : CoreState := { c with l1 := c.l1.filter (·.imm) }

/-- The bytes that stand at a location's home: those of the exclusive owner of a pair-coherent line, else memory (R168). -/
def State.homeBytes (s : State) (key n : Nat) : List Byte :=
  match s.dirs.find? (·.key == lineKey key) with
  | some { st := .modified _ d, .. } => (d.drop (key % 64)).take n
  | _ => Memory.read s.mem key n

/-- Whether any line of the bytes is poisoned (R172). -/
def State.poisoned (s : State) (key n : Nat) : Bool := s.poison.any fun l => l < key + n && key < l + 64

/-- The first-level copies of the written bytes in one core, updated in place (R152). -/
def CoreState.patch (c : CoreState) (key : Nat) (bs : List Byte) : CoreState :=
  { c with l1 := c.l1.map fun l => if l.key == lineKey key then
      { l with data := l.data.take (key - l.key) ++ bs ++ l.data.drop (key - l.key + bs.length) } else l }

/-- Bytes written at the home: a whole line clears its poison (R172, R173), no later float atomic merges across the write (R202), and an
exclusive owner's copy takes the bytes (R168). -/
def State.putHome (s : State) (key : Nat) (bs : List Byte) : State :=
  let s := { s with poison := s.poison.filter fun l => !(key ≤ l && l + 64 ≤ key + bs.length)
                    merges := s.merges.filter fun m => !(key < m.key + 4 && m.key < key + bs.length) }
  match s.dirs.find? (·.key == lineKey key) with
  | some { st := .modified o d, .. } =>
    { s with dirs := s.dirs.map fun e => if e.key == lineKey key then
        { e with st := .modified o (d.take (key % 64) ++ bs ++ d.drop (key % 64 + bs.length)) } else e }
  | _ => { s with mem := Memory.write s.mem key bs }

/-- Bytes read by a core through its first-level cache (R152): a copy it holds, else the home, filling the line. -/
def State.cachedRead (s : State) (die core : Nat) (l : Loc) (n : Nat) : List Byte × State :=
  if l.uc then (s.homeBytes l.key n, s)
  else
    let cs := s.core die core
    match cs.line? l.key with
    | some ln => ((ln.data.drop (l.key - ln.key)).take n, s)
    | none =>
      let bs := s.homeBytes l.key n
      if s.poisoned l.key n then (bs, s)
      else (bs, s.fillLine die core { key := lineKey l.key, data := s.homeBytes (lineKey l.key) 64, imm := l.imm })

/-- Bytes written by a core: through to the home, and into its own first-level copy (R152). -/
def State.cachedWrite (s : State) (die core : Nat) (key : Nat) (bs : List Byte) : State :=
  let s := s.putHome key bs
  s.setCore ((s.core die core).patch key bs)

/-- The integer and list operations of R199 on values of n bits. -/
def atomNew (op n old v new : Nat) : Nat :=
  let sgn (x : Nat) : Int := signedField x n
  match op with
  | 0 => (old + v) % 2 ^ n
  | 1 => min old v
  | 2 => max old v
  | 3 => if sgn old ≤ sgn v then old else v
  | 4 => if sgn v ≤ sgn old then old else v
  | 5 => old &&& v
  | 6 => old ||| v
  | 7 => old ^^^ v
  | 8 => v
  | 9 => if old == v then new else old
  | 10 => if v ≤ old then 0 else old + 1
  | 11 => if old == 0 || v < old then v else old - 1
  | _ => old

/-- The sum of an old value and parts in a format, exact, rounded once (R142). -/
def floatSum (f : Num.Fmt) (mode : Num.RMode) (old : Nat) (parts : List Nat) : Nat :=
  if parts.isEmpty then old
  else (Num.finish f { mode := mode }
    (parts.foldl (fun v p => (Num.addVal .rne v (Num.decodeVal f p)).1) (Num.decodeVal f old))).1

/-- The value of a float atomic after some parts (R142, R199); the draw gives SR its bits: [63:48] for the low half, [47:32] for the
high half (R121). -/
def floatAtom (op draw old : Nat) (parts : List Nat) : Nat :=
  if op == 12 then floatSum Num.fp32 .rne old parts
  else
    let f := if op % 2 == 1 then Num.fp16 else Num.bf16
    let m (hi : Bool) : Num.RMode := if 15 ≤ op then .sr (if hi then bitsAt draw 32 16 else bitsAt draw 48 16) else .rne
    floatSum f (m false) (old % 65536) (parts.map (· % 65536))
      + 65536 * floatSum f (m true) (old / 65536) (parts.map (· / 65536))

/-- The byte of a held write at a key over another byte, where it writes it (R132, R305). -/
def HeldWrite.onto (h : HeldWrite) (k : Nat) (b : Byte) : Byte :=
  let m := if h.mask.isEmpty then 255 else h.mask[k - h.key]?.getD 0
  (b &&& ~~~m) ||| ((h.data[k - h.key]?.getD 0) &&& m)
/-- Whether a held effect touches a key. -/
def HeldWrite.touches (h : HeldWrite) (k : Nat) : Bool := h.key ≤ k && k < h.key + h.data.length

/-- Bytes read at a key as the context sees them (R305): over the bytes that stand there, those it has written and still holds, in order; a
held RED counts where it follows held writes of all its bytes (log 85). -/
def Context.overlay (c : Context) (key n : Nat) (bs : List Byte) : List Byte :=
  let hs := c.held.filter fun h => h.key < key + n && key < h.key + h.data.length
  if hs.isEmpty then bs
  else
    let lo := hs.foldl (fun a h => min a h.key) key
    let hi := hs.foldl (fun a h => max a (h.key + h.data.length)) (key + n)
    let at' (i : Nat) : Byte × Bool := (if key ≤ lo + i && lo + i < key + n then bs[lo + i - key]?.getD 0 else 0, false)
    let view := hs.foldl (fun (v : List (Byte × Bool)) h =>
      let o := h.key - lo
      match h.red with
      | none => (v.zip (List.range v.length)).map fun ((b, w), i) => if h.touches (lo + i) then (h.onto (lo + i) b, true) else (b, w)
      | some (op, _) =>
        let old := (v.drop o).take h.data.length
        if !old.all (·.2) then v
        else
          let x := natLE (old.map (·.1))
          let y := if 12 ≤ op then floatAtom op (Config.freeNat key) x [natLE h.data] else atomNew op (8 * h.data.length) x (natLE h.data) 0
          v.take o ++ (bytesLE h.data.length y).map (·, true) ++ v.drop (o + h.data.length)) ((List.range (hi - lo)).map at')
    ((view.map (·.1)).drop (key - lo)).take n

/-- What the directory answers to a request (R168, R170): go on, the error reply of a lost owner, or a wait for the owner's answer. -/
inductive DirRes where
  | go | lost | wait
  deriving DecidableEq, Repr

/-- A directory entry replaced, or removed. -/
def State.setDir (s : State) (key : Nat) (e : Option DirEntry) : State :=
  let rest := s.dirs.filter (·.key != key)
  { s with dirs := match e with | some e => e :: rest | none => rest }

/-- The entry a request of a die leaves in state I (R168, R473): none for the home die, a shared copy for a read, a dirty one for a
write. -/
def dirFresh (key home die : Nat) (excl : Bool) (data : List Byte) : Option DirEntry :=
  if die == home then none else some { key := key, st := if excl then .modified die data else .shared [die] }

/-- The entry that follows another: the requests still waiting and an old owner's pending answer stay. -/
def DirEntry.follow (e : DirEntry) (who : ThreadId) (n : Option DirEntry) : Option DirEntry :=
  let ws := e.waiters.filter (·.1 != who)
  let ns := e.nums.filter (·.1 != who)
  match n with
  | some n => some { n with waiters := ws, nums := ns, oldOwner := e.oldOwner }
  | none => if ws.isEmpty && e.oldOwner.isNone then none
      else some { key := e.key, st := .shared [], waiters := ws, nums := ns, oldOwner := e.oldOwner }

/-- What the directory keeps of an agent's requests to a home die (R169); the numbers start at 0 (log 90). -/
def State.dirAgent (s : State) (agent home : Nat) : DirAgent :=
  (s.dirAgents.find? fun a => a.agent == agent && a.home == home).getD { agent := agent, home := home }
def State.setAgent (s : State) (a : DirAgent) : State :=
  { s with dirAgents := a :: s.dirAgents.filter fun o => !(o.agent == a.agent && o.home == a.home) }

/-- One try of a request of `die` for the line of a pair-coherent location, by `who`; `excl` for a write or an atomic, `ret` when it returns a
value; `num` is the number of its transaction, none for a requester that does not number its own (R168 to R170, R475). -/
def State.dirTry (s : State) (l : Loc) (die : Nat) (excl ret : Bool) (who : ThreadId) (num : Option Nat) : DirRes × State :=
  let key := lineKey l.key
  let data := Memory.read s.mem key 64
  match s.dirs.find? (·.key == key) with
  | none => (.go, s.setDir key (dirFresh key l.home die excl data))
  | some e =>
    match e.st with
    | .ownerLost =>
      let e' := if e.waiters.any (·.1 == who) then { e with waiters := e.waiters.filter (·.1 != who), nums := e.nums.filter (·.1 != who) }
        else if ret then { e with returns := e.returns + 1 } else { e with writes := e.writes + 1 }
      (.lost, s.setDir key (some e'))
    | .shared ag =>
      if (match e.waiters with | w :: _ => w.1 != who | [] => false) then dirWait s e who ret num false
      else if excl || ag.isEmpty then (.go, s.setDir key (e.follow who (dirFresh key l.home die excl data)))
      else (.go, s.setDir key (e.follow who (some { e with st := .shared (if die == l.home || ag.contains die then ag else die :: ag) })))
    | .exclusive o =>
      if o == die then (.go, s.setDir key (some (if excl then { e with st := .modified o data } else e)))
      else dirWait s e who ret num true
    | .modified o _ => if o == die then (.go, s) else dirWait s e who ret num true
where
  /-- The request waits: for the answer of the snoop it needs, or for the requests before it. -/
  dirWait (s : State) (e : DirEntry) (who : ThreadId) (ret : Bool) (num : Option Nat) (needs : Bool) : DirRes × State :=
    let ask := needs && e.snoop.isNone
    let e' := { e with snoop := if ask then some (num.getD (Config.freeNat s.free % 2 ^ 32)) else e.snoop
                       waiters := if e.waiters.any (·.1 == who) then e.waiters else e.waiters ++ [(who, ret)]
                       nums := match num with | some n => (who, n) :: e.nums.filter (·.1 != who) | none => e.nums }
    (.wait, { s.setDir e.key (some e') with free := if ask && num.isNone then s.free + 1 else s.free })

/-- A request of `die` for the line of a pair-coherent location (R168, R170, R475). A non-caching requester asks as the home die; requests
that wait on a line are served in arrival order. An agent's request takes the next number towards the home die, and keeps it while it waits;
the directory keeps the number and the reply of the last one it has served (R169). The snoop carries the number of its transaction; that of a
requester that has none is unspecified. -/
def State.dirReq (s : State) (l : Loc) (die : Nat) (excl ret : Bool) (who : ThreadId) : DirRes × State :=
  if l.coh != 2 then (.go, s)
  else if die == l.home then s.dirTry l die excl ret who none
  else
    let key := lineKey l.key
    let a := s.dirAgent die l.home
    let waiting := (s.dirs.find? (·.key == key)).bind fun e => (e.nums.find? (·.1 == who)).map (·.2)
    let n := waiting.getD ((a.sent + 1) % 2 ^ 32)
    let a := if waiting.isSome then a else { a with sent := n }
    match (s.setAgent a).dirTry l die excl ret who (some n) with
    | (.wait, s) => (.wait, s)
    | (r, s) => (r, s.setAgent { a with served := n, reply := if r == .lost then none else some (s.homeBytes key 64) })

end Sys2Proof.Machine
end

