-- ==== Sys2Proof/Machine/Trans.lean ====
section
/-! DEFINITION. The FSFU functions (R367, R118): the exact function value rounded once. The algebraic ones are computed exactly; the
others are bracketed between two dyadic values, at a precision raised until both ends round to the same code. Apart from the
exact cases, which are taken out first, the values are irrational, so some precision separates them. -/
namespace Sys2Proof.Num

/-- The integer square root, by bits from the top. -/
def isqrtFrom : Nat → Nat → Nat → Nat
  | 0, _, r => r
  | b + 1, n, r => let c := r + 2 ^ b; isqrtFrom b n (if c * c ≤ n then c else r)
/-- The integer square root. -/
def isqrt (n : Nat) : Nat := isqrtFrom (Nat.log2 n / 2 + 1) n 0

/-- A fixed-point number scaled by 2^P. -/
abbrev Fix := Nat

/-- ln 2 to P bits: the sum of 1 / (k 2^k). -/
def ln2Sum (P : Nat) : Nat → Fix
  | 0 => 0
  | k + 1 => 2 ^ P / ((k + 1) * 2 ^ (k + 1)) + ln2Sum P k
def ln2 (P : Nat) : Fix := ln2Sum P P

/-- atan (1 / n) to P bits: the alternating sum of 1 / ((2k+1) n^(2k+1)). -/
def atanInv (P n : Nat) : Nat → Nat → Nat → Int → Int
  | 0, _, _, acc => acc
  | f + 1, k, pw, acc =>
    let t : Int := (pw / (2 * k + 1) : Nat)
    atanInv P n f (k + 1) (pw / (n * n)) (if k % 2 == 0 then acc + t else acc - t)
/-- π to P bits, by Machin's formula. -/
def piFix (P : Nat) : Fix :=
  (16 * atanInv P 5 (P / 4 + 2) 0 (2 ^ P / 5) 0 - 4 * atanInv P 239 (P / 4 + 2) 0 (2 ^ P / 239) 0).toNat

/-- Σ r^k / k! from a term on, for 0 ≤ r < 1. -/
def expSum (P r : Nat) : Nat → Nat → Nat → Nat
  | 0, _, _ => 0
  | f + 1, k, t => if t == 0 then 0 else t + expSum P r f (k + 1) (t * r / 2 ^ P / (k + 1))
/-- e^r for 0 ≤ r < 1. -/
def expFix (P r : Nat) : Fix := expSum P r P 0 (2 ^ P)

/-- sin t for 0 ≤ t < 2. -/
def sinSum (P t2 : Nat) : Nat → Nat → Int → Int
  | 0, _, _ => 0
  | f + 1, k, t => if t == 0 then 0 else t + sinSum P t2 f (k + 1) (-(t * t2 / (2 ^ P : Nat) / ((2 * k + 2) * (2 * k + 3) : Nat)))
def sinFix (P t : Nat) : Fix := (sinSum P (t * t / 2 ^ P) P 0 t).toNat

/-- 2 atanh z = ln ((1+z)/(1-z)), for |z| ≤ 1/3. -/
def atanhSum (P : Nat) (z2 : Int) : Nat → Nat → Int → Int
  | 0, _, _ => 0
  | f + 1, k, t => if t == 0 then 0 else t / (2 * k + 1 : Nat) + atanhSum P z2 f (k + 1) (t * z2 / (2 ^ P : Nat))

/-- An approximation: the value lies within 2^24 units of `a`, a unit being 2^e. -/
structure Approx where
  a : Nat
  e : Int
  deriving Repr

/-- e^x for x = ±m × 2^e, at P bits. -/
def expApprox (P : Nat) (neg : Bool) (m : Nat) (e : Int) : Approx :=
  let L : Int := ln2 P
  let x : Int := if e < 0 then ((m * 2 ^ P / 2 ^ (-e).toNat : Nat) : Int) else (m * 2 ^ e.toNat * 2 ^ P : Nat)
  let x := if neg then -x else x
  let k := x / L
  { a := expFix P (x - k * L).toNat, e := k - P }

/-- 2^x at P bits. -/
def exp2Approx (P : Nat) (neg : Bool) (m : Nat) (e : Int) : Approx :=
  let x : Int := if e < 0 then ((m * 2 ^ P / 2 ^ (-e).toNat : Nat) : Int) else (m * 2 ^ e.toNat * 2 ^ P : Nat)
  let x := if neg then -x else x
  let k := x / (2 ^ P : Nat)
  let r := (x - k * (2 ^ P : Nat)).toNat * ln2 P / 2 ^ P
  { a := expFix P r, e := k - P }

/-- |ln x| at P bits with its sign, or |log2 x|. -/
def logApprox (P : Nat) (base2 : Bool) (m : Nat) (e : Int) : Bool × Approx :=
  let k : Int := e + Nat.log2 m
  let f := m * 2 ^ P / 2 ^ Nat.log2 m
  let (k, f) := if 3 * 2 ^ P ≤ 2 * f then (k + 1, f / 2) else (k, f)
  let one : Int := (2 ^ P : Nat)
  let z : Int := ((f : Int) - one) * one / ((f : Int) + one)
  let ln := 2 * atanhSum P (z * z / one) P 0 z
  let v := if base2 then k * one + ln * one / (ln2 P : Nat) else k * (ln2 P : Nat) + ln
  (v < 0, { a := v.natAbs, e := -P })

/-- sin (π y) at P bits, for 0 < y ≤ 1/2, y = m × 2^e. -/
def sinpiApprox (P : Nat) (m : Nat) (e : Int) : Approx :=
  { a := sinFix P (piFix P * m / 2 ^ (-e).toNat), e := -P }

/-- The flags and code of a bracketed magnitude, if both ends round alike. -/
def settle (mode : RMode) (ftz neg : Bool) (x : Approx) : Option (Nat × Nat) :=
  let lo := x.a - 2 ^ 24
  let hi := x.a + 2 ^ 24
  let r := roundMag fp32 { mode := mode, ftz := ftz } neg (2 * lo + 1) (x.e - 1)
  let r' := roundMag fp32 { mode := mode, ftz := ftz } neg (2 * hi + 1) (x.e - 1)
  if r == r' then some (withSign fp32 neg r.1, r.2 ||| fInexact) else none

/-- The first precision that settles a value; a value that none settles is free (log 26). -/
def ziv (mode : RMode) (ftz : Bool) (f : Nat → Bool × Approx) : List Nat → Nat × Nat
  | [] => (Config.unsettled (f 128).2.a % 2 ^ 32, fInexact)
  | P :: ps =>
    let (neg, x) := f P
    match settle mode ftz neg x with
    | some r => r
    | none => ziv mode ftz f ps

/-- A value rounded once whose exact position is `m × 2^e`, or just above it when `sticky`. -/
def rounded (mode : RMode) (ftz neg : Bool) (m : Nat) (e : Int) (sticky : Bool) : Nat × Nat :=
  let (mag, fl) := if sticky then roundMag fp32 { mode := mode, ftz := ftz } neg (2 * m + 1) (e - 1)
    else roundMag fp32 { mode := mode, ftz := ftz } neg m e
  (withSign fp32 neg mag, fl)

/-- Precisions tried for a value whose argument has binary exponent `ex`. -/
def precisions (ex : Int) : List Nat :=
  let b := 2 * (-ex).toNat
  [b + 128, b + 256, b + 512, b + 1024]

/-- 1/x of a finite non-zero x (R367). -/
def rcpFin (mode : RMode) (ftz neg : Bool) (m : Nat) (e : Int) : Nat × Nat :=
  let K := 64 + Nat.log2 m
  rounded mode ftz neg (2 ^ K / m) (-(e + K)) (2 ^ K % m != 0)

/-- √x of a positive x. -/
def sqrtFin (mode : RMode) (ftz : Bool) (m : Nat) (e : Int) : Nat × Nat :=
  let (m, e) := if e % 2 == 0 then (m, e) else (2 * m, e - 1)
  let n := m * 2 ^ 128
  let r := isqrt n
  rounded mode ftz false r (e / 2 - 64) (r * r != n)

/-- 1/√x of a positive x. -/
def rsqrtFin (mode : RMode) (ftz : Bool) (m : Nat) (e : Int) : Nat × Nat :=
  let (m, e) := if e % 2 == 0 then (m, e) else (2 * m, e - 1)
  let K := 64 + Nat.log2 m
  let r := isqrt (2 ^ (2 * K) / m)
  rounded mode ftz false r (-(e / 2 + K)) (r * r * m != 2 ^ (2 * K))

/-- 2^x and e^x of a finite non-zero x. -/
def expFin (base2 : Bool) (mode : RMode) (ftz neg : Bool) (m : Nat) (e : Int) : Nat × Nat :=
  let ex := e + Nat.log2 m
  if 9 ≤ ex then (if neg then rounded mode ftz false 1 (-400) true else rounded mode ftz false 1 400 true)
  else if ex < -40 then (if neg then rounded mode ftz false (2 ^ 60 - 1) (-60) true else rounded mode ftz false (2 ^ 60) (-60) true)
  else if base2 && (0 ≤ e || m % 2 ^ (-e).toNat == 0) then
    let k : Int := (if e < 0 then m / 2 ^ (-e).toNat else m * 2 ^ e.toNat : Nat)
    rounded mode ftz false 1 (if neg then -k else k) false
  else ziv mode ftz (fun P => (false, if base2 then exp2Approx P neg m e else expApprox P neg m e)) (precisions 0)

/-- log₂ x and ln x of a positive x. -/
def logFin (base2 : Bool) (mode : RMode) (ftz : Bool) (m : Nat) (e : Int) : Nat × Nat :=
  if m == 2 ^ Nat.log2 m && (base2 || e + Nat.log2 m == 0) then
    let k := e + Nat.log2 m
    rounded mode ftz (k < 0) k.natAbs 0 false
  else ziv mode ftz (fun P => logApprox P base2 m e) (precisions (-30))

/-- sin (π x) of a finite non-zero x: period 2, sign and reflection taken out exactly. -/
def sinpiFin (mode : RMode) (ftz neg : Bool) (m : Nat) (e : Int) : Nat × Nat :=
  if 0 ≤ e then (withSign fp32 neg 0, 0)
  else
    let d := (-e).toNat
    let one := 2 ^ d
    let y := m % (2 * one)
    let (half, y) := if one ≤ y then (true, y - one) else (false, y)
    if y == 0 then (withSign fp32 neg 0, 0)
    else
      let y := if one < 2 * y then one - y else y
      let neg := neg != half
      if 2 * y == one then rounded mode ftz neg 1 0 false
      else ziv mode ftz (fun P => (neg, sinpiApprox P y e)) (precisions (e + Nat.log2 y))

/-- cos (π x) of a finite x. -/
def cospiFin (mode : RMode) (ftz : Bool) (m : Nat) (e : Int) : Nat × Nat :=
  if m == 0 || 1 ≤ e then rounded mode ftz false 1 0 false
  else
    let (m, e) := if e < -40 && e + Nat.log2 m < -40 then (0, e) else (m, e)
    if m == 0 then rounded mode ftz false (2 ^ 60 - 1) (-60) true
    else
      let d := (-e).toNat
      let one := 2 ^ d
      let y := m % (2 * one)
      let y := if one < y then 2 * one - y else y
      let (neg, y) := if one < 2 * y then (true, one - y) else (false, y)
      if 2 * y == one then (0, 0)
      else if y == 0 then rounded mode ftz neg 1 0 false
      else ziv mode ftz (fun P => (neg, sinpiApprox P (one - 2 * y) (e - 1))) (precisions (e + Nat.log2 (one - 2 * y)))

/-- tanh x of a finite non-zero x. -/
def tanhFin (mode : RMode) (ftz neg : Bool) (m : Nat) (e : Int) : Nat × Nat :=
  let ex := e + Nat.log2 m
  if 5 ≤ ex then rounded mode ftz neg (2 ^ 60 - 1) (-60) true
  else if ex < -40 then rounded mode ftz neg (m * 2 ^ 60 - 1) (e - 60) true
  else ziv mode ftz (fun P =>
      let q := expApprox P false (2 * m) e
      let E : Int := if 0 ≤ q.e then (q.a * 2 ^ q.e.toNat * 2 ^ P : Nat) else (q.a * 2 ^ P / 2 ^ (-q.e).toNat : Nat)
      let one : Int := (2 ^ P : Nat)
      (neg, { a := ((E - one) * one / (E + one)).toNat, e := -P })) (precisions ex)

/-- 1/(1 + e^-x) of a finite x. -/
def sigmFin (mode : RMode) (ftz neg : Bool) (m : Nat) (e : Int) : Nat × Nat :=
  if m == 0 then rounded mode ftz false 1 (-1) false
  else
    let ex := e + Nat.log2 m
    if 9 ≤ ex then (if neg then rounded mode ftz false 1 (-400) true else rounded mode ftz false (2 ^ 60 - 1) (-60) true)
    else if ex < -40 then
      (if neg then rounded mode ftz false (2 ^ 60 - 1) (-61) true else rounded mode ftz false (2 ^ 60) (-61) true)
    else ziv mode ftz (fun P =>
      let q := expApprox P false m e
      let k := (q.e + P).toNat
      let den := 2 ^ P / 2 ^ k + q.a
      if neg then (false, { a := 2 ^ P * 2 ^ P / den, e := -(P : Int) - k })
      else (false, { a := q.a * 2 ^ P / den, e := -P })) (precisions 0)

/-- FSFU by function code (R367, R409). -/
def fsfu (code : Nat) (mode : RMode) (ftz : Bool) (a : Nat) : Nat × Nat :=
  let (v, fl) := input fp32 ftz a
  let nan : Nat × Nat := (fp32.canonNan, fInvalid)
  let inf (neg : Bool) : Nat := withSign fp32 neg fp32.infMag
  let one : Nat := 0x3F800000
  let lift (r : Nat × Nat) : Nat × Nat := (r.1, r.2 ||| fl)
  match v with
  | .nan _ => (fp32.canonNan, fl)
  | .inf neg =>
    match code with
    | 0 => (withSign fp32 neg 0, fl)
    | 1 => if neg then nan else (0, fl)
    | 2 => if neg then nan else (inf false, fl)
    | 3 | 9 => (if neg then 0 else inf false, fl)
    | 4 | 10 => if neg then nan else (inf false, fl)
    | 5 | 6 => nan
    | 7 => (withSign fp32 neg one, fl)
    | _ => (if neg then 0 else one, fl)
  | .fin neg m e =>
    if m == 0 then
      match code with
      | 0 | 1 => (inf neg, fDivzero)
      | 2 | 5 | 7 => (withSign fp32 neg 0, fl)
      | 3 | 6 | 9 => (one, fl)
      | 4 | 10 => (inf true, fDivzero)
      | _ => (0x3F000000, fl)
    else
      match code with
      | 0 => lift (rcpFin mode ftz neg m e)
      | 1 => if neg then nan else lift (rsqrtFin mode ftz m e)
      | 2 => if neg then nan else lift (sqrtFin mode ftz m e)
      | 3 => lift (expFin true mode ftz neg m e)
      | 4 => if neg then nan else lift (logFin true mode ftz m e)
      | 5 => lift (sinpiFin mode ftz neg m e)
      | 6 => lift (cospiFin mode ftz m e)
      | 7 => lift (tanhFin mode ftz neg m e)
      | 8 => lift (sigmFin mode ftz neg m e)
      | 9 => lift (expFin false mode ftz neg m e)
      | _ => if neg then nan else lift (logFin false mode ftz m e)

end Sys2Proof.Num
end

