-- ==== Sys2Proof/Machine/Flags.lean ====
section
/-! DEFINITION. Flag computations: FSTAT's sticky bits (R108, R116), FTZ of the float mode and the prefix (R114), the comparison
conditions (R366) and how they combine with a predicate (R402). -/
namespace Sys2Proof.Machine

/-- FSTAT with an instruction's bits set (R116). -/
def stickyFlags (fstat : Word) (fl : Nat) : Word := fstat ||| BitVec.ofNat 32 (fl % 64)
/-- FMODE.FTZ (R108). -/
def ftzOf (fmode : Word) : Bool := fmode.getLsbD 0
/-- The float modifiers of an optional prefix and FTZ (R373, R114). -/
def floatMods (payload : Option Nat) (ftz : Bool) : Num.FMods :=
  match payload with
  | none => { ftz := ftz }
  | some w => let f := floatPfx w; { mode := .ofField f.rnd, ftz := ftz || f.ftz, sat := f.sat }
/-- ICMP by condition (R366). -/
def icmpCond (cond : Nat) (a b : Word) : Bool :=
  match cond with
  | 0 => a == b | 1 => a != b | 2 => a.slt b | 3 => !a.slt b | 4 => a.ult b | 5 => !a.ult b
  | 6 => a &&& b != 0 | _ => a &&& b == 0
/-- The combination of a comparison with the old predicate (R339, R402). -/
def combine (comb : Nat) (old c : Bool) : Bool :=
  match comb with
  | 0 => c | 1 => old && c | 2 => old || c | _ => old != c
/-- PLOP by operation (R443). -/
def plopOp (op : Nat) (a b : Bool) : Bool :=
  match op with
  | 0 => a && b | 1 => a || b | 2 => a != b | _ => a && !b

end Sys2Proof.Machine
end

