-- ==== Sys2Proof/Machine/Alu.lean ====
section
/-! DEFINITION. The lane operations: the result words and FSTAT bits of every instruction word that computes its results from its
x operands, its immediates and s0 to s15 alone (R98 and the 16-bit forms of R337). The same function serves issue and the
replay of a recipe (R101). Operands come in the order of Instr.srcX, results in the order of Instr.dstX. -/
namespace Sys2Proof.Machine

/-- The 64-bit value of two words, low first. -/
def pair64 (lo hi : Word) : DWord := BitVec.append hi lo
/-- A 64-bit value as its two words, low first. -/
def words64 (v : DWord) : List Word := [v.extractLsb' 0 32, v.extractLsb' 32 32]
/-- A natural result as one word. -/
def w32 (v : Nat) : Word := BitVec.ofNat 32 v
/-- The low n bits, all ones. -/
def onesN (n : Nat) : Nat := 2 ^ n - 1

/-- BFE (R385): the field of length min(n, 32) at p. -/
def bfe (signed : Bool) (a b : Word) : Word :=
  let p := b.toNat % 256
  let n := min (b.toNat / 256 % 256) 32
  let f := (if signed then (a.sshiftRight p).toNat else a.toNat / 2 ^ p) % 2 ^ n
  if signed && 0 < n && f / 2 ^ (n - 1) % 2 == 1 then w32 f - w32 (2 ^ n) else w32 f
/-- BFI (R385). -/
def bfi (a b old : Word) : Word :=
  let p := b.toNat % 256
  let n := min (b.toNat / 256 % 256) 32
  let m := w32 (onesN n * 2 ^ p)
  (old &&& ~~~m) ||| (w32 (a.toNat * 2 ^ p) &&& m)
/-- Shift amounts of 32 or more give 0, or copies of the sign (R446). -/
def shiftLeft (a b : Word) : Word := if 32 ≤ b.toNat then 0 else a <<< b.toNat
def shiftRightN (a b : Word) : Word := if 32 ≤ b.toNat then 0 else a >>> b.toNat
def shiftRightS (a b : Word) : Word := a.sshiftRight (min b.toNat 32)
def rotLeft (a b : Word) : Word := a.rotateLeft (b.toNat % 32)
/-- The funnel shift (R449). -/
def shf (a b c : Word) : Word := (pair64 a b >>> (c.toNat % 64)).extractLsb' 0 32
/-- The number of one bits (R388). -/
def popcount (a : Word) : Word := w32 ((List.range 32).countP fun i => a.getLsbD i)
/-- The zero bits above the highest one bit (R388). -/
def clz (a : Word) : Word := if a == 0 then 32 else w32 (31 - Nat.log2 a.toNat)
/-- Bit reversal (R388). -/
def brev (a : Word) : Word := a.reverse
/-- The absolute value modulo 2^32 (R388). -/
def iabs (a : Word) : Word := if a.msb then -a else a
/-- DIV (R111): truncating, a zero divisor gives all ones and the dividend. -/
def divide (natural : Bool) (a b : Word) : Word × Word :=
  if b == 0 then (BitVec.allOnes 32, a)
  else if natural then (a / b, a % b)
  else (BitVec.ofInt 32 (a.toInt.tdiv b.toInt), BitVec.ofInt 32 (a.toInt.tmod b.toInt))
/-- IDOT (R140, R404). -/
def idot (na nb sat : Bool) (a b c : Word) : Word :=
  let byte (nat : Bool) (v : Word) (i : Nat) : Int :=
    let x := v.toNat / 2 ^ (8 * i) % 256
    if nat || x < 128 then x else (x : Int) - 256
  let s := c.toInt + ((List.range 4).map fun i => byte na a i * byte nb b i).sum
  if sat then BitVec.ofInt 32 (max (-(2 ^ 31)) (min (2 ^ 31 - 1) s)) else BitVec.ofInt 32 s
/-- A packed operation on the two halves (R401). -/
def packed (f : Nat → Nat → Nat → Nat × Nat) (a b c : Word) : Word × Nat :=
  let h (v : Word) (i : Nat) : Nat := v.toNat / 2 ^ (16 * i) % 2 ^ 16
  let (lo, fl) := f (h a 0) (h b 0) (h c 0)
  let (hi, fh) := f (h a 1) (h b 1) (h c 1)
  (w32 (hi * 2 ^ 16 + lo), fl ||| fh)

/-- A word with no flags. -/
def one (w : Word) : Option (List Word × Nat) := some ([w], 0)
/-- A float result with its flags. -/
def flt (r : Nat × Nat) : Option (List Word × Nat) := some ([w32 r.1], r.2)

/-- The results of a lane operation (R379 and each instruction's rule): `payload` is its prefix's, `ftz` FMODE.FTZ, `sr` the 16
random bits of an FCVT with SR, `s` the s registers. -/
def aluEval (i : Instr) (payload : Option Nat) (ftz : Bool) (sr : Nat) (s : Vector Word 32) (src : List Word) :
    Option (List Word × Nat) :=
  let fm := floatMods payload ftz
  match i, src with
  -- 16-bit forms (R337): the destination is the first source
  | .add16 .., [a, b] => one (a + b)
  | .sub16 .., [a, b] => one (a - b)
  | .mul16 .., [a, b] => one (a * b)
  | .and16 .., [a, b] => one (a &&& b)
  | .or16 .., [a, b] => one (a ||| b)
  | .xor16 .., [a, b] => one (a ^^^ b)
  | .shl16 n _, [a] => one (a <<< n.val)
  | .shrN16 n _, [a] => one (a >>> n.val)
  | .mov16 .., [a] => one a
  | .ldi16 n _, [] => one (BitVec.ofInt 32 (signedField n.val 5))
  | .addi16 n _, [a] => one (a + BitVec.ofInt 32 (signedField n.val 5))
  | .fadd16 .., [a, b] => flt (Num.fadd Num.fp32 { ftz := ftz } a.toNat b.toNat)
  | .fsub16 .., [a, b] => flt (Num.fsub Num.fp32 { ftz := ftz } a.toNat b.toNat)
  | .fmul16 .., [a, b] => flt (Num.fmul Num.fp32 { ftz := ftz } a.toNat b.toNat)
  -- integer arithmetic (R381, R428, R436)
  | .add .., [a, b] => one (a + b)
  | .addc .., [a, a1, b, b1] => some (words64 (pair64 a a1 + pair64 b b1), 0)
  | .sub .., [a, b] => one (a - b)
  | .subb .., [a, a1, b, b1] => some (words64 (pair64 a a1 - pair64 b b1), 0)
  | .addImm _ _ _ imm _, [a] => one (a + BitVec.ofInt 32 (signedField imm.val 9))
  | .mul .., [a, b] => one (a * b)
  | .mulhSS .., [a, b] => one ((a.signExtend 64 * b.signExtend 64).extractLsb' 32 32)
  | .mulhNN .., [a, b] => one ((a.setWidth 64 * b.setWidth 64).extractLsb' 32 32)
  | .mulhSN .., [a, b] => one ((a.signExtend 64 * b.setWidth 64).extractLsb' 32 32)
  | .mad .., [a, b, c] => one (a * b + c)
  | .madw .., [a, b, c, c1] => some (words64 (a.setWidth 64 * b.setWidth 64 + pair64 c c1), 0)
  | .div _ _ _ _ n _, [a, b] => let (q, r) := divide n a b; some ([q, r], 0)
  -- logic, shifts, bits (R382, R446, R449, R416, R388, R385, R426)
  | .and .., [a, b] => one (a &&& b)
  | .or .., [a, b] => one (a ||| b)
  | .xor .., [a, b] => one (a ^^^ b)
  | .andn .., [a, b] => one (a &&& ~~~b)
  | .shl .., [a, b] => one (shiftLeft a b)
  | .shrN .., [a, b] => one (shiftRightN a b)
  | .shrS .., [a, b] => one (shiftRightS a b)
  | .rot .., [a, b] => one (rotLeft a b)
  | .shf .., [a, b, c] => one (shf a b c)
  | .imin _ _ _ _ n _ _, [a, b] => one (if (if n then a.ult b else a.slt b) then a else b)
  | .imax _ _ _ _ n _ _, [a, b] => one (if (if n then a.ult b else a.slt b) then b else a)
  | .popc .., [a] => one (popcount a)
  | .clz .., [a] => one (clz a)
  | .brev .., [a] => one (brev a)
  | .iabs .., [a] => one (iabs a)
  | .bfe _ _ _ _ sg _ _, [a, b] => one (bfe sg a b)
  | .bfi .., [a, b, old] => one (bfi a b old)
  | .lea _ _ _ _ sh _ _, [a, a1, b] => some (words64 (pair64 a a1 + (b.signExtend 64 <<< sh.val)), 0)
  -- moves and constants (R434, R425)
  | .mov .., [a] => one a
  | .movs _ _ n _, [] => one s[n.val]
  | .ldi _ _ imm, [] => one (BitVec.ofInt 32 (signedField imm.val 16))
  | .ldhi _ _ imm, [] => one (w32 (imm.val * 2 ^ 16))
  -- floating point (R400 to R409)
  | .fadd .., [a, b] => flt (Num.fadd Num.fp32 fm a.toNat b.toNat)
  | .fsub .., [a, b] => flt (Num.fsub Num.fp32 fm a.toNat b.toNat)
  | .fmul .., [a, b] => flt (Num.fmul Num.fp32 fm a.toNat b.toNat)
  | .ffma .., [a, b, c] => flt (Num.ffma Num.fp32 fm a.toNat b.toNat c.toNat)
  | .fmin _ _ _ _ u _ _, [a, b] => flt (Num.fminmax Num.fp32 fm false u a.toNat b.toNat)
  | .fmax _ _ _ _ u _ _, [a, b] => flt (Num.fminmax Num.fp32 fm true u a.toNat b.toNat)
  | .fsfu _ _ _ f _ _, [a] => flt (Num.fsfu f.val fm.mode fm.ftz a.toNat)
  | .frnd _ _ _ r _ _, [a] => flt (Num.frnd (.ofField r.val) fm.ftz a.toNat)
  | .fcvt _ _ _ c r _ _, _ =>
    let useSr := match payload with | some w => (floatPfx w).sr | none => false
    let v := match src with | [a] => a.toNat | [a, a1] => (pair64 a a1).toNat | _ => 0
    let (b, fl) := Num.fcvt c.val (if useSr then .sr sr else .ofField r.val) fm.ftz fm.sat v
    some (if c.val == 4 || c.val == 10 then words64 (BitVec.ofNat 64 b) else [w32 b], fl)
  | .fadd2 _ _ _ _ t _ _, [a, b] =>
    let f := if t then Num.bf16 else Num.fp16
    let (w, fl) := packed (fun x y _ => Num.fadd f fm x y) a b 0
    some ([w], fl)
  | .fmul2 _ _ _ _ t _ _, [a, b] =>
    let f := if t then Num.bf16 else Num.fp16
    let (w, fl) := packed (fun x y _ => Num.fmul f fm x y) a b 0
    some ([w], fl)
  | .ffma2H .., [a, b, c] => let (w, fl) := packed (Num.ffma Num.fp16 fm) a b c; some ([w], fl)
  | .ffma2B .., [a, b, c] => let (w, fl) := packed (Num.ffma Num.bf16 fm) a b c; some ([w], fl)
  | .fdot .., [a, b, c] =>
    let d := match payload with | some w => (floatPfx w).dfmt | none => 0
    let (f, n) := match d with | 0 => (Num.fp16, 2) | 1 => (Num.bf16, 2) | 2 => (Num.e4m3, 4) | _ => (Num.e5m2, 4)
    flt (Num.fdot f n fm a.toNat b.toNat c.toNat)
  | .idot .., [a, b, c] =>
    let p := match payload with | some w => floatPfx w | none => {}
    one (idot p.na p.nb p.sat a b c)
  | _, _ => none

end Sys2Proof.Machine
end

