-- ==== Sys2Proof/Machine/Ops.lean ====
section
/-! DEFINITION. The named operations over memory and registers: the accesses of a thread with their checks (R143), the commons
window and register blocks (R90), register reads, replays, writes and last-read marks (R96 to R103), entering and leaving a
trap handler (R280, R281), and how an instruction retires, parks, blocks or traps. -/
namespace Sys2Proof.Machine

/-- Why an instruction of a thread stops before it retires. -/
inductive Stop where
  /-- A trap at the instruction (R279). -/
  | trap (r : TrapRec)
  /-- A park (R163), with the register and depth of a replayed load (R102). -/
  | park (va : Nat) (kind : AccKind) (reason : Nat) (replay : Option (Nat × Nat))
  /-- A block (R55). -/
  | block (w : Wait)
  /-- A named register has a pending write: the backstop (R345). -/
  | hold
  /-- The same, keeping the effects made so far (RMAT, the macro instructions, an arrival). -/
  | keep (s : State) (r : Stop)

/-- An operation of the thread that issues: a new state, or the reason it stops. -/
abbrev Op (α : Type) := StateT State (Except Stop) α

def stop {α : Type} (r : Stop) : Op α := fun _ => .error r
def trap {α : Type} (r : TrapRec) : Op α := stop (.trap r)
/-- ILLEGAL with an info code. -/
def illegal {α : Type} (code : Nat) : Op α := trap { cause := causeIllegal, code := code }
/-- Stop with the effects made so far kept. -/
def stopKeep {α : Type} (r : Stop) : Op α := fun s => .error (.keep s r)

-- threads and teams

def State.team? (s : State) (uid : Nat) : Option Team := s.teams.find? (·.uid == uid)
/-- The first entry of a list that satisfies `p`, changed. -/
def modifyFirst {α : Type} (p : α → Bool) (f : α → α) : List α → List α
  | [] => []
  | a :: l => if p a then f a :: l else a :: modifyFirst p f l
def State.updTeam (s : State) (uid : Nat) (f : Team → Team) : State := { s with teams := modifyFirst (·.uid == uid) f s.teams }
def Team.updThread (t : Team) (tid : Nat) (f : Thread → Thread) : Team := { t with threads := t.threads.modify tid f }
def State.thread? (s : State) (id : ThreadId) : Option Thread := (s.team? id.1).bind (·.threads[id.2]?)
def State.updThread (s : State) (id : ThreadId) (f : Thread → Thread) : State := s.updTeam id.1 (·.updThread id.2 f)
def State.grid? (s : State) (uid : Nat) : Option Grid := s.grids.find? (·.uid == uid)
def State.updGrid (s : State) (uid : Nat) (f : Grid → Grid) : State :=
  { s with grids := s.grids.map fun g => if g.uid == uid then f g else g }

/-- What a lookup of no team gives. -/
def Team.blank : Team :=
  { uid := 0, die := 0, ctx := 0, core := 0, grid := 0, num := 0, declared := 0, threads := [], gangs := [], quota0 := 64 }
/-- What a lookup of no thread gives. -/
def Thread.blank : Thread := { tid := 0, pc := 0 }

/-- The thread an instruction word executes for: the next one of the issue. -/
def State.cur? (s : State) : Option ThreadId := s.issue.bind (·.todo.head?)
def State.cur (s : State) : ThreadId := s.cur?.getD (0, 0)
def State.team (s : State) (uid : Nat) : Team := (s.team? uid).getD Team.blank
def State.thread (s : State) (id : ThreadId) : Thread := (s.thread? id).getD Thread.blank
def State.curTeam (s : State) : Team := s.team s.cur.1
def State.curThread (s : State) : Thread := s.thread s.cur
def State.ctxOf (s : State) (t : Team) : Context := (s.ctx? t.die t.ctx).getD { die := t.die, num := t.ctx, root := 0 }
def State.gridOf (s : State) (t : Team) : Grid :=
  (s.grid? t.grid).getD { uid := 0, die := 0, ctx := 0, num := 0, lrec := {}, depth := 1 }
def State.pfx (s : State) : Option Nat := s.issue.bind (·.pfx)

/-- The gang of a thread (R22). -/
def Team.gangNo (t : Team) (tid : Nat) : Nat := tid / t.width
def Team.gang (t : Team) (g : Nat) : Gang := t.gangs[g]?.getD { quota := 0 }
def Team.quotaOf (t : Team) (tid : Nat) : Nat := (t.gang (t.gangNo tid)).quota
def Team.updGang (t : Team) (g : Nat) (f : Gang → Gang) : Team := { t with gangs := t.gangs.modify g f }

/-- Change the issuing thread. -/
def modThread (f : Thread → Thread) : Op Unit := modify fun s => s.updThread s.cur f
/-- Change the issuing thread's team. -/
def modTeam (f : Team → Team) : Op Unit := modify fun s => s.updTeam s.cur.1 f

/-- Draw a free value. -/
def State.draw (s : State) : Nat × State := (Config.freeNat s.free, { s with free := s.free + 1 })
def drawFree : Op Nat := fun s => .ok s.draw
/-- A fresh identity for engine work, teams, grids and queues. -/
def freshId : Op Nat := fun s => .ok (s.nextId, { s with nextId := s.nextId + 1 })

-- register states (R96)

inductive RegState where
  | absent | dead | live | kept | dropped | virtual
  deriving DecidableEq, Repr

/-- The state of register n under a quota (R96). -/
def regState (quota n : Nat) (c : XCell) : RegState :=
  if n < quota then
    if c.tag == 0 then (if c.dead then .dead else .live) else if c.stored then .kept else .dropped
  else if c.tag == 0 then .absent else .virtual

/-- Register cell n of a thread; n below 64. -/
def Thread.cell (t : Thread) (n : Nat) : XCell := t.x[n]?.getD {}
def Thread.setCell (t : Thread) (n : Nat) (c : XCell) : Thread := { t with x := t.x.setIfInBounds n c }
def Thread.kreg (t : Thread) (n : Nat) : Word := t.k[n]?.getD 0
def Thread.setK (t : Thread) (n : Nat) (w : Word) : Thread := { t with k := t.k.setIfInBounds n w }
/-- Whether numbers 56 to 63 name k0 to k7 (R105). -/
def Thread.inHandler (t : Thread) : Bool := t.handler != .none
/-- The home of register number n: itself, or 64 + i for k register i inside a handler (R105). -/
def Thread.home (t : Thread) (n : Nat) : Nat := if t.inHandler && 56 ≤ n then n + 8 else n
/-- Store a value in a home: a k register, or a backing slot. -/
def Thread.putHome (t : Thread) (h : Nat) (w : Word) : Thread :=
  if 64 ≤ h then t.setK (h - 64) w else t.setCell h { t.cell h with val := w }

/-- Whether a home has a pending write (R345). -/
def Thread.pending (t : Thread) (h : Nat) : Bool := t.infl.any fun f => f.dsts.any (·.1 == h)

-- recipes (R97 to R101)

/-- The recipe a register's tag names. -/
def recipeOf (tm : Team) (tid : Nat) (tag : Nat) : Option Recipe :=
  ((tm.gang (tm.gangNo tid)).recipes.find? (·.1 == tag)).map (·.2)
/-- The registers a recipe reads. -/
def Recipe.srcs (r : Recipe) : List Nat := match decode r.word with | .ok i => i.srcX | .error _ => []

/-- The chain depth of a register: 0 untagged, else one more than its deepest tagged source (R99). -/
def chainDepth (tm : Team) (t : Thread) : Nat → Nat → Nat
  | 0, _ => 0
  | f + 1, n =>
    if (t.cell n).tag == 0 then 0
    else 1 + ((match recipeOf tm t.tid (t.cell n).tag with | some r => r.srcs | none => []).map (chainDepth tm t f)).foldl max 0
def regDepth (tm : Team) (t : Thread) (n : Nat) : Nat := chainDepth tm t 4 n

/-- Whether register m's recipe reads one of `ns`, directly or through tagged registers (R100). -/
def readsThrough (tm : Team) (t : Thread) (ns : List Nat) : Nat → Nat → Bool
  | 0, _ => false
  | f + 1, m =>
    (t.cell m).tag != 0 &&
      (match recipeOf tm t.tid (t.cell m).tag with
        | some r => r.srcs.any fun y => ns.contains y || readsThrough tm t ns f y
        | none => false)

/-- The dependents of registers, in ascending depth (R100). -/
def dependents (tm : Team) (t : Thread) (ns : List Nat) : List Nat :=
  let ds := (List.range 64).filter fun m => readsThrough tm t ns 4 m
  (List.range 4).flatMap fun d => ds.filter fun m => regDepth tm t m == d

-- accesses (R143)

/-- The virtual address of a window word of a slice. -/
def windowVa (core off : Nat) : Nat := Config.commons + core * 2 ^ 20 + off

/-- A thread runs, for R90. -/
def Thread.running (t : Thread) : Bool :=
  t.handler == .none && (match t.status with
    | .fold _ | .bundled | .blocked _ | .sleeping _ | .yielding | .stopping .. => true
    | .parked .. | .halted | .ended | .out => false)

/-- The register words a window access touches: the word's register number and rank (R89). -/
def blockWords (width base off n : Nat) : List (Nat × Nat × Nat) :=
  (List.range (n / 4)).map fun i => let w := (off - base) / 4 + i; (w, w / width, w % width)

/-- Whether a window access to a block touches a running thread (R90); padding words touch none. -/
def blockBusy (tm : Team) (g base off n : Nat) : Bool :=
  let top := max (tm.gang g).quota (tm.gang g).alloc * tm.width
  (blockWords tm.width base off n).any fun (w, _, r) =>
    decide (w < top) && (match tm.threads[g * tm.width + r]? with | some t => t.running | none => false)

/-- The word a block shows at a slot (R91). -/
def blockGet (tm : Team) (g base off n : Nat) : List Word :=
  (blockWords tm.width base off n).map fun (w, x, r) =>
    match tm.threads[g * tm.width + r]? with
    | some t => (t.cell x).val
    | none => (((tm.gang g).pad.find? (·.1 == w)).map (·.2)).getD 0

/-- The first byte of some pieces (address, length) that a watch range holds. -/
def WatchRange.touched (w : WatchRange) (ps : List (Nat × Nat)) : Option Nat :=
  (ps.filterMap fun (va, n) => if w.base < va + n && va < w.base + 2 ^ w.log2len then some (max va w.base) else none).min?
/-- A watch range that an access of some pieces touches with a kind bit, the lowest number first (R283). -/
def watchHit (c : Context) (ps : List (Nat × Nat)) (kindBit : Nat) : Option (Nat × Nat) :=
  ((List.range 4).filterMap fun i =>
    (c.watch[i]?).bind fun w => if flagAt w.kinds kindBit then (w.touched ps).map fun a => (i, a) else none).head?

/-- WATCH of an access of the issuing thread to some pieces: the lowest matching range, at the first watched byte (R279, R283). -/
def watchPieces (ps : List (Nat × Nat)) (kind : AccKind) : Op Unit := do
  let s ← get
  if s.curThread.unwatched then return
  let c := s.ctxOf s.curTeam
  let bits := match kind with | .read => [0] | .write => [1] | .atomic => [0, 1] | .execute => [2]
  match bits.filterMap (watchHit c ps) with
  | [] => pure ()
  | h :: hs =>
    let (i, a) := hs.foldl (fun m x => if x.1 < m.1 then x else m) h
    trap { cause := causeWatch, code := 0x28 + i, addr := BitVec.ofNat 64 a }
/-- WATCH of an access to n bytes. -/
def watchOp (va n : Nat) (kind : AccKind) : Op Unit := watchPieces [(va, n)] kind

/-- The granule offsets of the bytes that hold element k, and of its scale and header (R131). -/
def typedBytes (code : Nat) (col : Bool) (k : Nat) : List Nat :=
  let (so, ho) := Num.scaleAt code col (Num.blockOf col k)
  (Num.elemPut code (fun _ => 0) k 0).map (·.1) ++ (if Num.isGbf code then [so, ho] else if Num.isMx code then [so] else [])
/-- The bytes a typed access touches, by virtual address: a load those of its element, scale and header, a store its element's (R131, R132,
R283, log 80). -/
def typedPieces (l : Loc) (va : Nat) (kind : AccKind) : List (Nat × Nat) :=
  let code := l.fmt / 8
  let os : List Nat := match kind with
    | .write => (Num.elemPut code (fun _ => 0) (va % 8192) 0).map (·.1)
    | _ => typedBytes code (l.fmt % 2 == 1) (va % 8192)
  os.map fun o => (va - va % 8192 + o, 1)

/-- The location of an access of the issuing thread, or its trap or park: alignment, canonical, window, translation, format, access
table (R143), and then WATCH, which stands before LINKLOSS (R279). `kindOnBlock` says that a register block admits the access
(R90); `extra` is the form's own ACCESS check on the location. The block and the slice offset come with it. -/
def locateOp (va n align : Nat) (kind : AccKind) (kindOnBlock watched typed : Bool) (extra : Loc → Option Nat) :
    Op (Loc × Option (Nat × Region)) := do
  let s ← get
  let tm := s.curTeam
  let c := s.ctxOf tm
  let trapAt (cause code : Nat) : TrapRec := { cause := cause, code := code, addr := BitVec.ofNat 64 va }
  if va % align != 0 then trap (trapAt causeAlign 0)
  let r ← (if inWindow va then
      match s.window tm.die tm.ctx va with
      | .error (.trap cause code) => trap (trapAt cause code)
      | .error (.park r) => stop (.park va kind r none)
      | .ok (core, off, r) =>
        match r.kind with
        | .block .. =>
          if kindOnBlock then pure ({ key := commonsKey tm.die core off, home := 4 }, some (off, r))
          else trap (trapAt causeAccess codeWindowKind)
        | _ =>
          if typed then trap (trapAt causeAccess codeFormatBad)
          else pure ({ key := commonsKey tm.die core off, home := 4 }, none)
    else
      match s.locate tm.die tm.core c 0 va n kind typed with
      | (.error (.trap cause code), _) => do
        if watched && cause == causeLinkloss then watchOp va n kind
        trap (trapAt cause code)
      | (.error (.park r), _) => stop (.park va kind r none)
      | (.ok l, s') => do set s'; pure (l, none) : Op (Loc × Option (Nat × Region)))
  match extra r.1 with
  | some code => trap (trapAt causeAccess code)
  | none => pure ()
  if watched then watchPieces (if typed then typedPieces r.1 va kind else [(va, n)]) kind
  return r

/-- Coherence of a pair-coherent location before an access of the issuing thread, made as die `die`: whether its owner is lost; the
thread waits for a snoop it needs (R168, R170). -/
def dirOp (l : Loc) (die : Nat) (excl ret : Bool) : Op Bool := do
  let s ← get
  match s.dirReq l die excl ret s.cur with
  | (.go, s') => set s'; return false
  | (.lost, s') => set s'; return true
  | (.wait, s') => stop (.keep s' (.block .snoop))

/-- The scopes wide enough for an acquire to discard first-level lines: cluster and wider (R178, R187). -/
def scopeCluster : Nat := 4

/-- The bytes a load of the issuing thread reads at a checked location, and the error its reply brings: 0 none, or an info code of
POISON (R152, R170, R173). An acquire at cluster scope or wider discards the core's lines first (R187). -/
def readBytes (l : Loc) (n : Nat) (acquire : Bool) : Op (List Byte × Nat) := do
  let lost ← dirOp l (← get).curTeam.die false true
  let s ← get
  let tm := s.curTeam
  let s := if acquire then s.setCore (s.core tm.die tm.core).acquire else s
  if lost then set s; return (List.replicate n 0, codeOwnerLost)
  if l.home == 4 then set s; return (Memory.read s.mem l.key n, if s.poisoned l.key n then codeUncorrectable else 0)
  let (bs, s) := s.cachedRead tm.die tm.core l n
  let bs := (s.ctxOf tm).overlay l.key n bs
  set s
  return (bs, if s.poisoned l.key n && ((s.core tm.die tm.core).line? l.key).isNone then codeUncorrectable else 0)

/-- The effective value of a replayed load (R101, R340, R422): relaxed, at thread scope. -/
def loadWords (size : Nat) (bs : List Byte) : List Word :=
  let v := natLE bs
  match size with
  | 0 => [w32 (v % 256)]
  | 1 => [((BitVec.ofNat 8 v).signExtend 32 : Word)]
  | 2 => [w32 (v % 65536)]
  | 3 => [((BitVec.ofNat 16 v).signExtend 32 : Word)]
  | 4 => [w32 v]
  | 5 => [w32 v, w32 (v / 2 ^ 32)]
  | _ => [w32 v, w32 (v / 2 ^ 32), w32 (v / 2 ^ 64), w32 (v / 2 ^ 96)]

/-- Bytes of an access by SIZE (R340). -/
def sizeBytes (size : Nat) : Nat := match size with | 0 | 1 => 1 | 2 | 3 => 2 | 4 => 4 | 5 => 8 | 6 => 16 | _ => 1

/-- The effective address of format M (R340). -/
def effAddr (size : Nat) (xm : Nat) (m : MemPfx) (base : DWord) (idx : Word) : Nat :=
  let i : Int := match xm with
    | 0 => 0
    | 1 => idx.toInt
    | 2 => idx.toNat
    | _ => signedField idx.toNat 16
  let scale : Nat := if m.scale == 0 then sizeBytes size else 2 ^ (m.scale - 1)
  (((base.toNat : Int) + i * scale + m.off) % (2 ^ 64 : Nat)).toNat

/-- The memory-class fields of an access: those of its prefix, or relaxed at die scope (R184, R371). -/
def memFields (payload : Option Nat) : MemPfx :=
  match payload with | some w => memPfx w | none => { scope := 6, order := 0 }

/-- The key of the granule that holds a location. -/
def granuleKey (l : Loc) (va : Nat) : Nat := l.key - va % 8192

/-- A typed element read as FP32 from its home (R126, R132). -/
def typedRead (s : State) (c : Context) (l : Loc) (va : Nat) : Word :=
  let code := l.fmt / 8
  let col := l.fmt % 2 == 1
  let k := va % 8192
  let g := granuleKey l va
  let byte (o : Nat) : Nat := natLE (c.overlay (g + o) 1 (s.homeBytes (g + o) 1))
  let (so, ho) := Num.scaleAt code col (Num.blockOf col k)
  let scaled := Num.isGbf code || Num.isMx code
  w32 (Num.elemToFp32 code (Num.elemGet code byte k) (if scaled then byte so else 0) (if scaled then byte ho else 0))

/-- The lines of a typed element made coherent and dropped from the core's first-level cache, and the error of the access: 0, or an
info code of POISON. -/
def typedLines (l : Loc) (va : Nat) (excl : Bool) : Op Nat := do
  let code := l.fmt / 8
  let g := granuleKey l va
  let die := (← get).curTeam.die
  let mut err := 0
  for o in typedBytes code (l.fmt % 2 == 1) (va % 8192) do
    let lost ← dirOp { l with key := g + o } die excl (!excl)
    let s ← get
    set (s.setCore ((s.core die s.curTeam.core).dropLine (g + o)))
    if lost then err := codeOwnerLost
    else if err == 0 && s.poisoned (g + o) 1 then err := codeUncorrectable
  return err

/-- Replay the recipe of register n of the issuing thread (R101); `f` bounds the chain (R99). -/
def replay : Nat → Nat → Op Word
  | 0, n => do return ((← get).curThread.cell n).val
  | f + 1, n => do
    let s ← get
    let tm := s.curTeam
    let t := s.curThread
    match recipeOf tm t.tid (t.cell n).tag with
    | none => return (t.cell n).val
    | some r =>
      match decode r.word with
      | .error _ => return (t.cell n).val
      | .ok i =>
        let srcs ← i.srcX.mapM fun y => do
          let s ← get
          let t := s.curThread
          match regState (s.curTeam.quotaOf t.tid) y (t.cell y) with
          | .dropped | .virtual => replay f y
          | _ => pure (t.cell y).val
        let outs ← (match i with
          | .ld _ size xm _ _ _ => do
            let m := memFields r.payload
            let va := effAddr size.val xm.val m (pair64 (srcs[0]?.getD 0) (srcs[1]?.getD 0)) (srcs[2]?.getD 0)
            let d := regDepth tm t n
            let nb := sizeBytes size.val
            let located : Except Stop ((Loc × Option (Nat × Region)) × State) :=
              match (locateOp va nb 1 .read true false (size.val == 7) fun _ => none) (← get) with
              | .error (.park va k reason _) => .error (.park va k reason (some (n, d)))
              | r => r
            match located with
            | .error e => stop e
            | .ok ((l, _), s') => do
              set s'
              let (bs, err) ← (if size.val == 7 then do return ([], ← typedLines l va false) else readBytes l nb false)
              if err != 0 then
                trap { cause := causePoison, code := err, reg := n, depth := d, addr := BitVec.ofNat 64 va }
              if size.val == 7 then return [typedRead (← get) ((← get).ctxOf tm) l va]
              return loadWords size.val bs
          | _ => pure (((aluEval i r.payload r.ftz 0 tm.s srcs).map (·.1)).getD []) : Op (List Word))
        let v := outs[i.dstX.idxOf n]?.getD 0
        if n < tm.quotaOf t.tid then
          modThread fun t => t.setCell n { t.cell n with val := v, stored := true }
        return v

/-- Read of a general register (R96, R105): its value, a replay, or DEADREAD or REGQUOTA; the backstop holds a pending one. -/
def readX (n : Nat) : Op Word := do
  let s ← get
  let t := s.curThread
  if t.pending (t.home n) then stop .hold
  if t.inHandler && 56 ≤ n then return t.kreg (n - 56)
  match regState (s.curTeam.quotaOf t.tid) n (t.cell n) with
  | .absent => trap { cause := causeRegquota, reg := n }
  | .dead => trap { cause := causeDeadread, reg := n }
  | .live | .kept => return (t.cell n).val
  | .dropped | .virtual => replay 4 n

/-- Read of registers in order. -/
def readList : List Nat → Op (List Word)
  | [] => return []
  | n :: ns => do
    let v ← readX n
    let vs ← readList ns
    return v :: vs

/-- A pair as a 64-bit value (R6). -/
def readPair (n : Nat) : Op DWord := do
  let lo ← readX n
  let hi ← readX (n + 1)
  return pair64 lo hi

/-- Tags removed from dependents: a backed one becomes live, a virtual one absent (R100). -/
def Thread.untag (t : Thread) : List Nat → Thread
  | [] => t
  | n :: ns => (t.setCell n { t.cell n with tag := 0, stored := false, dead := false }).untag ns

/-- The dependents of registers about to change: the dropped, backed ones replayed and stored, then all untagged (R100). -/
def settleDependents (ns : List Nat) : Op Unit := do
  let s ← get
  let tm := s.curTeam
  let t := s.curThread
  let ds := dependents tm t ns
  for d in ds do
    let t := (← get).curThread
    if regState (tm.quotaOf t.tid) d (t.cell d) == .dropped then
      let _ ← replay 4 d
  modThread fun t => t.untag ds

/-- The tags in use in a gang (R97). -/
def usedTags (tm : Team) (g : Nat) : List Nat :=
  (tm.threads.filter fun t => tm.gangNo t.tid == g).flatMap fun t => (t.x.toList.map (·.tag)).filter (· != 0)

/-- The index a recipe takes: an equal entry in use, else the lowest free index, if any (R97). -/
def recipeIndex (tm : Team) (g : Nat) (r : Recipe) : Option Nat :=
  let used := usedTags tm g
  match (tm.gang g).recipes.find? (fun (j, e) => used.contains j && e == r) with
  | some (j, _) => some j
  | none => ((List.range tm.recipeMax).map (· + 1)).find? fun j => !used.contains j

/-- The entry recorded under an index. -/
def Gang.record (g : Gang) (j : Nat) (r : Recipe) : Gang := { g with recipes := (j, r) :: g.recipes.filter (·.1 != j) }

/-- The index a write with recipe records under, if it can: room, chain depth at most 3, and no k source (R97, R99, R101). Judged
on the state in which the destinations' dependents and old tags are cleared. -/
def recordable (tm : Team) (t : Thread) (homes : List Nat) (r : Recipe) : Option Nat :=
  let t' := t.untag (dependents tm t homes ++ homes)
  let tm' := tm.updThread t.tid fun _ => t'
  let depth := 1 + (r.srcs.map (regDepth tm' t')).foldl max 0
  if 3 < depth || (t.inHandler && r.srcs.any (56 ≤ ·)) then none else recipeIndex tm' (tm.gangNo t.tid) r

/-- Destinations made ready at issue (R96, R97, R100): REGQUOTA for one without backing that takes no recipe, the dependents settled,
the old tag cleared, the recipe recorded, the registers live or kept or virtual; their values follow. -/
def prepareDsts (dsts : List Nat) (recipe : Option Recipe) : Op Unit := do
  let s ← get
  let tm := s.curTeam
  let t := s.curThread
  let homes := (dsts.map t.home).filter (· < 64)
  if dsts.any fun n => t.pending (t.home n) then stop .hold
  if homes.isEmpty then return
  let idx := recipe.bind (recordable tm t homes)
  match homes.find? (fun n => idx.isNone && tm.quotaOf t.tid ≤ n) with
  | some n => trap { cause := causeRegquota, reg := n }
  | none => pure ()
  settleDependents homes
  let cell (c : XCell) (n : Nat) : XCell :=
    { c with dead := false, tag := idx.getD 0, stored := idx.isSome && n < tm.quotaOf t.tid }
  modThread fun t => homes.foldl (fun t n => t.setCell n (cell (t.cell n) n)) t
  match idx, recipe with
  | some j, some r => modTeam fun tm => tm.updGang (tm.gangNo t.tid) (·.record j r)
  | _, _ => pure ()

/-- The destination checks of an instruction whose registers are written after its access (R96, R279), with nothing changed. -/
def tryPrepare (dsts : List Nat) (recipe : Option Recipe) : Op Unit := fun s =>
  match prepareDsts dsts recipe s with
  | .ok _ => .ok ((), s)
  | .error e => .error e

/-- Values stored in prepared destinations; a virtual register stores nothing (R96). -/
def putValues (tm : Team) (t : Thread) : List (Nat × Word) → Thread
  | [] => t
  | (n, w) :: vs =>
    let h := t.home n
    putValues tm (if 64 ≤ h || h < tm.quotaOf t.tid then t.putHome h w else t) vs

/-- Registers written with values, with a recipe or without (R96). -/
def writeRegs (dsts : List Nat) (vals : List Word) (recipe : Option Recipe) : Op Unit := do
  prepareDsts dsts recipe
  modify fun s => s.updThread s.cur fun t => putValues s.curTeam t (dsts.zip vals)

/-- One register written without a recipe. -/
def writeX (n : Nat) (w : Word) : Op Unit := writeRegs [n] [w] none

/-- The recipe an instruction word records when its K bit is set, or it is LDI or LDHI (R97). -/
def recipeFor (i : Instr) (payload : Option Nat) (ftz : Bool) : Option Recipe :=
  let always := match i with | .ldi .. | .ldhi .. => true | _ => false
  if i.kBit || always then (encode i).map fun w => { word := w, payload := payload, ftz := ftz } else none

-- predicates, flags, modes

/-- The guard's value (R338): p0 always. -/
def Thread.pred (t : Thread) (n : Nat) : Bool := n == 0 || t.p[n]?.getD false
/-- A predicate written; p0 is not (R85). -/
def Thread.setPred (t : Thread) (n : Nat) (b : Bool) : Thread := if n == 0 then t else { t with p := t.p.setIfInBounds n b }
/-- FSTAT bits set (R116). -/
def setFlags (fl : Nat) : Op Unit := modThread fun t => { t with fstat := stickyFlags t.fstat fl }
/-- A team mode register as the thread uses it: its own view, or, until a BAR, either that or the team's value (R109). -/
def modeView (own team : Word) : Op Word := do
  if own == team then return own
  let d ← drawFree
  return if d % 2 == 0 then own else team
def curFtz : Op Bool := do
  let s ← get
  return ftzOf (← modeView s.curThread.fmode s.curTeam.fmode)

-- completion flags and flights (R344)

/-- The flag of the current clause for a group, when its instructions count (R342, R346). -/
def Thread.clauseFlag (t : Thread) (isWrite : Bool) : Option (Fin 12) :=
  match t.clause with
  | some c =>
    let n := if isWrite then c.setB else c.setA
    if h : n < 12 then (if c.counts then some ⟨n, h⟩ else none) else none
  | none => none
/-- A flag count moved up or down. -/
def Thread.addFlag (t : Thread) (f : Option (Fin 12)) (up : Bool) : Thread :=
  match f with
  | some n => { t with f := t.f.set n (if up then t.f[n] + 1 else t.f[n] - 1) }
  | none => t
/-- A flight begun: counted, and appended (R344). -/
def startFlight (isWrite : Bool) (dsts : List (Nat × Word)) (sdsts : List (Nat × Word)) (late : Option TrapRec)
    (op : Option Nat) : Op Unit := modify fun s =>
  s.updThread s.cur fun t =>
    let fl := t.clauseFlag isWrite
    { t.addFlag fl true with
      infl := t.infl ++ [{ isWrite := isWrite, flag := fl, dsts := dsts.map fun (n, w) => (t.home n, w),
                           sdsts := sdsts, late := late, issued := s.steps, op := op }] }
/-- A late trap of an instruction that no flag counts (R174, R232). -/
def startLate (r : TrapRec) : Op Unit := modify fun s =>
  s.updThread s.cur fun t => { t with infl := t.infl ++ [{ isWrite := true, flag := none, late := some r, issued := s.steps }] }
/-- A count at 255 makes the issue wait (R344). -/
def checkFlagRoom (isWrite : Bool) : Op Unit := do
  let t := (← get).curThread
  match t.clauseFlag isWrite with
  | some n => if 255 ≤ t.f[n] then stop .hold
  | none => pure ()

/-- A flight completed: its registers written, its count taken back, its late trap queued (R174, R344). -/
def Thread.land (t : Thread) (quota : Nat) (f : Flight) : Thread :=
  let t := f.dsts.foldl (fun t (h, w) => if 64 ≤ h || h < quota then t.putHome h w else t) t
  let t := t.addFlag f.flag false
  match f.late with
  | some r => { t with late := t.late.filter (·.1 ≤ f.issued) ++ [(f.issued, r)] ++ t.late.filter (f.issued < ·.1) }
  | none => t

/-- The s registers a flight writes (R88). -/
def Team.landS (tm : Team) (f : Flight) : Team :=
  { tm with s := f.sdsts.foldl (fun v (n, w) => v.setIfInBounds n w) tm.s }

/-- The first flight of a group taken out of a list. -/
def takeFlight (p : Flight → Bool) : List Flight → Option (Flight × List Flight)
  | [] => none
  | f :: fs => if p f then some (f, fs) else (takeFlight p fs).map fun (g, r) => (g, f :: r)

/-- Complete the oldest flight of a thread that satisfies p; unchanged when there is none. -/
def State.landFirst (s : State) (id : ThreadId) (p : Flight → Bool) : State :=
  match takeFlight p (s.thread id).infl with
  | none => s
  | some (f, rest) =>
    s.updTeam id.1 fun tm =>
      (tm.updThread id.2 fun t => ({ t with infl := rest }).land (tm.quotaOf id.2) f).landS f

/-- Whether every completion flag count of a thread is zero (R280). -/
def Thread.flagsClear (t : Thread) : Bool := t.f.toList.all (· == 0)

end Sys2Proof.Machine
end

