-- ==== Sys2Proof/Machine/Report.lean ====
section
/-! DEFINITION. What the die reports: MSI-X vectors (R314), error records and their ring (R324, R482), trap records (R284, R285), and
queue errors (R69). -/
namespace Sys2Proof.Machine

/-- A byte of the MSI-X table: unlisted bytes read as 0, and the mask bit of an untouched entry as 1 (log 6). -/
def Die.msixByte (d : Die) (o : Nat) : Nat :=
  match d.msix.find? (·.1 == o) with | some (_, b) => b.toNat | none => if o % 16 == 12 then 1 else 0
def Die.msixNat (d : Die) (o n : Nat) : Nat := natLE ((List.range n).map fun i => BitVec.ofNat 8 (d.msixByte (o + i)))

/-- Raise a vector of a die (R314): its message is written to host memory, or pends while the entry is masked (log 6). -/
def State.raise (s : State) (die vector : Nat) : State :=
  match s.die? die with
  | none => s
  | some d =>
    let o := 16 * vector
    if d.msixByte (o + 12) % 2 == 1 then
      s.updDie die fun d => { d with pending := if d.pending.contains vector then d.pending else vector :: d.pending }
    else s.putHome (physKey 3 (d.msixNat o 8)) (bytesLE 4 (d.msixNat (o + 8) 4))

/-- The commit-buffer bytes in use (R305). -/
def Context.heldSize (c : Context) : Nat := (c.held.map fun h => Config.heldBytes h.data.length).sum
/-- Whether the commit buffer has room for one more effect, with none waiting before it (R305). -/
def Context.holds (c : Context) (h : HeldWrite) : Bool := c.heldMore.isEmpty && decide (c.heldSize + Config.heldBytes h.data.length ≤ c.commitSize)

/-- Raise a vector for a context (R305): its message is an outside effect of a checkpointed context on D, held in order; where the commit
buffer is full it waits for the checkpoint that is then taken at once. -/
def State.raiseCtx (s : State) (die ctx vector : Nat) : State :=
  match s.ctx? die ctx, s.die? die with
  | some c, some d =>
    if c.checkpoint && die != 0 && d.msixByte (16 * vector + 12) % 2 == 0 then
      let h : HeldWrite := { key := physKey 3 (d.msixNat (16 * vector) 8), data := bytesLE 4 (d.msixNat (16 * vector + 8) 4) }
      s.updCtx die ctx fun c => if c.holds h then { c with held := c.held ++ [h] } else { c with heldMore := c.heldMore ++ [h], ckptWanted := true }
    else s.raise die vector
  | _, _ => s.raise die vector

/-- A ring of R482 in memory: whether it is full, half full at a count, its producer count judged against the consumer's. -/
def ringUsed (prod cons count : Nat) : Nat :=
  let d := (prod + 2 ^ 64 - cons % 2 ^ 64) % 2 ^ 64
  if count < d then 0 else d

/-- An error record (R324): kind, context (0xFFF for none), info code, two addresses, detail bytes. -/
structure ErrRec where
  kind : Nat
  ctx : Nat := 0xFFF
  code : Nat := 0
  a : Nat := 0
  b : Nat := 0
  detail : List Byte := []
  deriving DecidableEq, Repr

/-- The 64 bytes of an error record (R324). -/
def ErrRec.bytes (r : ErrRec) (time die dropped : Nat) : List Byte :=
  bytesLE 8 time ++ bytesLE 2 r.kind ++ bytesLE 2 (r.ctx % 4096 + die * 4096) ++ bytesLE 4 (r.code * 2 ^ 24)
    ++ bytesLE 8 r.a ++ bytesLE 8 r.b ++ (r.detail ++ List.replicate 30 0).take 30 ++ [0, BitVec.ofNat 8 (min dropped 255)]

/-- Scheduler core 4 writes an error record into the die's ring, or drops it (R324, R482). -/
def State.report (s : State) (die : Nat) (r : ErrRec) : State :=
  match s.die? die with
  | none => s
  | some d =>
    match d.errRing with
    | none => s.updDie die fun d => { d with errDropped := d.errDropped + 1 }
    | some (base, count) =>
      let used := ringUsed d.errProd (Memory.readNat s.mem (physKey 3 (base + 8)) 8) count
      if used == count then s.updDie die fun d => { d with errDropped := d.errDropped + 1 }
      else
        let s := s.putHome (physKey 3 (base + 64 + 64 * (d.errProd % count))) (r.bytes (s.dieTime die) die d.errDropped)
        let s := s.putHome (physKey 3 base) (bytesLE 8 (d.errProd + 1))
        let s := s.updDie die fun d => { d with errProd := (d.errProd + 1) % 2 ^ 64, errDropped := 0 }
        let s := if r.ctx == 0xFFF then s.raise die 0 else s
        if used + 1 == count / 2 then s.raise die 0 else s

/-- The 64 bytes of a trap record without its dropped count and LOST flag (R284). -/
def trapBytes (time : Nat) (pc addr : DWord) (seq : Nat) (info : Word) (team tid ctx die core cause : Nat) (double : Bool)
    (grid : Nat) : List Byte :=
  bytesLE 8 time ++ bytesLE 8 pc.toNat ++ bytesLE 8 addr.toNat ++ bytesLE 4 seq ++ bytesLE 4 info.toNat ++ bytesLE 4 team
    ++ bytesLE 2 tid ++ bytesLE 2 (ctx + die * 4096) ++ bytesLE 2 core ++ bytesLE 1 cause
    ++ bytesLE 1 (if double then 1 else 0) ++ bytesLE 4 grid ++ List.replicate 16 0

/-- The dropped count and LOST flag put into a record (R284, R285). -/
def trapLost (rec : List Byte) (dropped : Nat) : List Byte :=
  if dropped == 0 then rec
  else rec.take 43 ++ [(rec[43]?.getD 0) ||| 2] ++ (rec.drop 44).take 4 ++ bytesLE 2 (min dropped 0xFFFF) ++ rec.drop 50

/-- A trap record written to the die's queue, or dropped when 1,024 stand there (R285). -/
def State.queueTrap (s : State) (die : Nat) (rec : List Byte) : State :=
  s.updDie die fun d =>
    if 1024 ≤ d.traps.length then { d with trapDropped := d.trapDropped + 1 }
    else { d with traps := d.traps ++ [trapLost rec d.trapDropped], trapDropped := 0 }

def State.queue? (s : State) (uid : Nat) : Option Queue := s.queues.find? (·.uid == uid)
def State.updQueue (s : State) (uid : Nat) (f : Queue → Queue) : State :=
  { s with queues := s.queues.map fun q => if q.uid == uid then f q else q }

/-- The queue error codes of R69. -/
def errSeal : Nat := 1
def errCodeCode : Nat := 2
def errBody : Nat := 3
def errTail : Nat := 4
def errPrologue : Nat := 5

/-- A queue error (R69): the queue stops with its head at the offending slot, an error record of kind 1, and its vector; commands already
started run on. -/
def State.queueError (s : State) (uid slot code : Nat) : State :=
  match s.queue? uid with
  | none => s
  | some q =>
    let s := s.updQueue uid fun q =>
      { q with stopped := some code, head := slot % 2 ^ 32
               cmds := q.cmds.takeWhile (·.idx != slot)
                 ++ ((q.cmds.dropWhile (·.idx != slot)).map fun c => if c.idx == slot then { c with st := none } else c).filter
                   fun c => c.idx == slot || c.st.isSome }
    let s := s.report q.die { kind := 1, ctx := q.ctx, code := code, a := q.num, b := slot }
    s.raiseCtx q.die q.ctx q.vector

end Sys2Proof.Machine
end

