-- ==== Sys2Proof/Machine/Access.lean ====
section
/-! DEFINITION. Stores and atomics of a thread at a checked location, shared by every instruction that makes them: register blocks
through the window (R90, R91), the outside effects of a checkpointed context (R305), the order of one issue's stores (R150, R456),
typed elements (R132), and the read-modify-write at a home node or a bank (R142, R154, R173, R198 to R201). -/
namespace Sys2Proof.Machine

/-- Run an operation as another thread (for a register another thread owns): the issue names it meanwhile. -/
def asThread {α : Type} (id : ThreadId) (op : Op α) : Op α := fun s =>
  let swap (s : State) (h : Option ThreadId) : State :=
    { s with issue := s.issue.map fun i => { i with todo := (match h with | some h => h :: i.todo | none => i.todo.drop 1) } }
  match op (swap s (some id)) with
  | .ok (a, s') => .ok (a, swap s' none)
  | .error (.keep s' r) => .error (.keep (swap s' none) r)
  | .error r => .error r

/-- A word of a register block written through the window (R91): a backed register takes it as a write without recipe, any other word
is stored. -/
def blockPutWord (uid g w : Nat) (v : Word) : Op Unit := do
  let tm := (← get).team uid
  let x := w / tm.width
  let r := g * tm.width + w % tm.width
  match tm.threads[r]? with
  | some t =>
    if x < 64 then
      if x < tm.quotaOf t.tid then
        asThread (uid, r) (settleDependents [x])
        modify fun s => s.updThread (uid, r) fun t => t.setCell x { t.cell x with val := v, dead := false, tag := 0, stored := false }
      else modify fun s => s.updThread (uid, r) fun t => t.setCell x { t.cell x with val := v }
    else modify fun s => s.updTeam uid fun tm => tm.updGang g fun gg => { gg with pad := (w, v) :: gg.pad.filter (·.1 != w) }
  | none => modify fun s => s.updTeam uid fun tm => tm.updGang g fun gg => { gg with pad := (w, v) :: gg.pad.filter (·.1 != w) }

/-- The words of bytes, four at a time. -/
def wordsOf (bs : List Byte) : List Word := (List.range (bs.length / 4)).map fun i => w32 (natLE ((bs.drop (4 * i)).take 4))

/-- A store to a register block at a slice offset; WINDOWBUSY when it touches a running thread (R90). -/
def blockPut (r : Region) (off : Nat) (vals : List Word) : Op Bool := do
  match r.kind with
  | .block uid g =>
    let tm := (← get).team uid
    if blockBusy tm g r.base off (4 * vals.length) then return true
    for (w, v) in ((List.range vals.length).map fun i => (off - r.base) / 4 + i).zip vals do
      blockPutWord uid g w v
    return false
  | _ => return false

/-- The words of a load from a register block; none when it touches a running thread (R90). -/
def blockLoad (s : State) (r : Region) (off n : Nat) : Option (List Word) :=
  match r.kind with
  | .block uid g =>
    let tm := s.team uid
    if blockBusy tm g r.base off n then none else some (blockGet tm g r.base off n)
  | _ => none

/-- Whether a write of a context on a die is an outside effect (R305). -/
def Context.outside (c : Context) (die : Nat) (l : Loc) : Bool := c.checkpoint && die != 0 && (l.home == 3 || l.home == 0)
/-- An outside effect held until its commit; a full buffer makes the thread wait for a checkpoint, taken at once (R305). -/
def holdEffect (h : HeldWrite) : Op Unit := do
  let s ← get
  let tm := s.curTeam
  let c := s.ctxOf tm
  if !c.holds h then
    stop (.keep (s.updCtx tm.die tm.ctx fun c => { c with ckptWanted := true }) (.block .engine))
  set (s.updCtx tm.die tm.ctx fun c => { c with held := c.held ++ [h] })

/-- Which bytes of a store stand after the stores this issue has made to them: in the window the highest home lane's (R150), elsewhere
those of an unspecified order, drawn (R456). The store is recorded. -/
def orderStore (key n : Nat) : Op (List Bool) := do
  let s ← get
  let lane := s.curThread.lane
  let prior : List (Nat × Nat × Nat) := match s.issue with | some i => i.stores.filter fun st => st.1 < key + n && key < st.1 + st.2.1 | none => []
  let record (s : State) : State := { s with issue := s.issue.map fun i => { i with stores := (key, n, lane) :: i.stores } }
  if prior.isEmpty then
    set (record s)
    return List.replicate n true
  else
    let d ← drawFree
    modify record
    return (List.range n).map fun j =>
      let hit := prior.filter fun st => st.1 ≤ key + j && key + j < st.1 + st.2.1
      if 2 ^ 56 ≤ key then hit.all fun st => st.2.2 < lane else hit.isEmpty || d % 2 == 0

/-- The maximal runs of kept bytes: offset and bytes. -/
def keptRuns : Nat → List (Bool × Byte) → List (Nat × List Byte)
  | _, [] => []
  | o, (false, _) :: r => keptRuns (o + 1) r
  | o, (true, b) :: r =>
    match keptRuns (o + 1) r with
    | (o', bs) :: rest => if o' == o + 1 then (o, b :: bs) :: rest else (o, [b]) :: (o', bs) :: rest
    | [] => [(o, [b])]

/-- Bytes written by the issuing thread at a checked location outside register blocks (R152, R168, R170, R173, R305). -/
def putBytes (l : Loc) (bs : List Byte) : Op Unit := do
  let s ← get
  let tm := s.curTeam
  if l.home == 4 then set (s.putHome l.key bs); return
  if (s.ctxOf tm).outside tm.die l then
    let m := memFields s.pfx
    holdEffect { key := l.key, data := bs, order := m.order, scope := m.scope }
    return
  let lost ← dirOp l tm.die true false
  if lost then return
  modify fun s => s.cachedWrite tm.die tm.core l.key bs

/-- A store of the issuing thread (R455). -/
def storeBytes (l : Loc) (bs : List Byte) : Op Unit := do
  let keep ← orderStore l.key bs.length
  if keep.all id then putBytes l bs
  else
    for (o, run) in keptRuns 0 (keep.zip bs) do
      putBytes { l with key := l.key + o } run

/-- A typed store of an FP32 value: the element's bits alone, under its existing scales (R132, R127). -/
def storeTyped (l : Loc) (va : Nat) (v : Word) : Op Unit := do
  let keep ← orderStore l.key 1
  if !keep.all id then return
  let code := l.fmt / 8
  let col := l.fmt % 2 == 1
  let k := va % 8192
  let g := granuleKey l va
  let s ← get
  let tm := s.curTeam
  let err ← (if (s.ctxOf tm).outside tm.die l then pure 0 else typedLines l va true : Op Nat)
  if err == codeOwnerLost then return
  let s ← get
  let byte (o : Nat) : Nat := natLE ((s.ctxOf tm).overlay (g + o) 1 (s.homeBytes (g + o) 1))
  let (so, ho) := Num.scaleAt code col (Num.blockOf col k)
  let scaled := Num.isGbf code || Num.isMx code
  let bits := Num.elemEncode code (if scaled then byte so else 0) (if scaled then byte ho else 0) (Num.decodeVal Num.fp32 v.toNat)
  let m := memFields s.pfx
  for ((o, b), keepBits) in (Num.elemPut code byte k bits).zip (Num.elemPut code (fun _ => 255) k 0) do
    if (s.ctxOf tm).outside tm.die l then
      holdEffect { key := g + o, data := [BitVec.ofNat 8 b], mask := [BitVec.ofNat 8 (255 - keepBits.2)], order := m.order, scope := m.scope }
    else putBytes { l with key := g + o } [BitVec.ofNat 8 b]

-- atomics

/-- The stochastic-rounding counter of a home node (R122). -/
def Die.nodeCtr (d : Die) (n : Nat) : Nat := ((d.srCtr.find? (·.1 == n)).map (·.2)).getD 0
/-- One draw of the home node of a location for a context (R122): Mix of SEED, the line's address and the counter, which advances; at a
bank of the commons, which has no counter, a free value. -/
def State.nodeDraw (s : State) (l : Loc) (seed : DWord) : Nat × State :=
  if l.home == 4 then s.draw
  else
    let pa := l.key % 2 ^ 52
    let n := homeNode (isDie l.home) pa
    let ctr := match s.die? l.home with | some d => d.nodeCtr n | none => 0
    ((Num.mix seed (BitVec.ofNat 64 (lineKey pa)) (BitVec.ofNat 32 ctr)).toNat,
      s.updDie l.home fun d => { d with srCtr := (n, (ctr + 1) % 2 ^ 32) :: d.srCtr.filter (·.1 != n) })

/-- A float atomic at a location holding `old` (R142): it joins the parts of its own issue (R201); it may join a relaxed request that no
write has followed (R202), as a draw decides; under DETATOM it stands alone. What it leaves. -/
def floatApply (s : State) (c : Context) (l : Loc) (issue : Option Nat) (op order scope old v : Nat) : Merge × State :=
  let fresh (s : State) : Merge × State :=
    let (draw, s) := if 15 ≤ op then s.nodeDraw l c.seed else (0, s)
    ({ key := l.key, ctx := (c.die, c.num), op := op, order := order, scope := scope, issue := issue, base := old, parts := [v],
       draw := draw }, s)
  match s.merges.find? (fun m => !c.detatom && m.key == l.key && m.ctx == (c.die, c.num) && m.op == op && m.scope == scope
      && m.order == order && floatAtom op m.draw m.base m.parts == old) with
  | some m =>
    let joined : Merge := { m with parts := m.parts ++ [v], issue := issue }
    if issue.isSome && m.issue == issue then (joined, s)
    else if order == 0 && l.home < 3 then
      let (d, s) := s.draw
      if d % 2 == 0 then (joined, s) else fresh s
    else fresh s
  | none => fresh s

/-- The read-modify-write itself: the old value, and the state with the new one (R198, R199). -/
def State.applyAtom (s : State) (c : Context) (l : Loc) (issue : Option Nat) (n op order scope v new : Nat) : Nat × State :=
  let old := natLE (s.homeBytes l.key n)
  if 12 ≤ op then
    let (m, s) := floatApply s c l issue op order scope old v
    let s := s.putHome l.key (bytesLE n (floatAtom op m.draw m.base m.parts))
    (old, { s with merges := m :: s.merges.filter (·.key != l.key) })
  else (old, s.putHome l.key (bytesLE n (atomNew op (8 * n) old v new)))

/-- What an atomic found: the old value, and the late trap of its reply, as cause and code. -/
structure AtomRes where
  old : Nat := 0
  late : Option (Nat × Nat) := none
  deriving DecidableEq, Repr

/-- The read-modify-write of the issuing thread at a checked location (R154, R170, R173, R198). -/
def atomicAt (l : Loc) (n op order scope v new : Nat) (ret : Bool) : Op AtomRes := do
  let lost ← dirOp l l.home true ret
  if lost then return { late := some (causePoison, codeOwnerLost) }
  let s ← get
  let tm := s.curTeam
  if l.home == 3 then
    let (d, s) := s.draw
    set s
    if Config.hostRejects d then return { late := some (causeAccess, codeHostAtomic) }
  let s ← get
  if s.poisoned l.key n then return { late := some (causePoison, codeUncorrectable) }
  let (old, s) := s.applyAtom (s.ctxOf tm) l (s.issue.map (·.num)) n op order scope v new
  set (s.setCore ((s.core tm.die tm.core).dropLine l.key))
  return { old := old }

/-- What an acquire at a scope does to the core's first-level lines (R187). -/
def acquireAt (acq : Bool) (scope : Nat) : Op Unit := do
  if acq && scopeCluster ≤ scope then
    let s ← get
    let tm := s.curTeam
    set (s.setCore (s.core tm.die tm.core).acquire)

end Sys2Proof.Machine
end

