-- ==== Sys2Proof/Machine/Exec.lean ====
section
/-! DEFINITION. How an instruction of a thread ends: it retires (marks, pc, clause), leaves for a next segment, parks with a fault
record (R163, R164), blocks (R55), or traps; taking a trap and entering the handler (R104, R280, R282), shared by every cause. -/
namespace Sys2Proof.Machine

/-- The bytes of an instruction word. -/
def Instr.len (i : Instr) : Nat := Instr.bits i / 8

/-- The issuing thread leaves the issue. -/
def State.leaveIssue (s : State) : State :=
  { s with issue := s.issue.map fun i => { i with todo := i.todo.drop 1, pfx := none } }
/-- The issuing thread has retired and stays in its bundle. -/
def State.stayIssue (s : State) : State :=
  { s with issue := s.issue.map fun i => { i with done := i.done ++ i.todo.take 1, todo := i.todo.drop 1, pfx := none } }

/-- Whether a thread of the same team with a higher TID, its guard `p` true, has already run the instruction in this issue (R88, R394). -/
def sOvertaken (s : State) (p : PReg) : Bool :=
  match s.issue with
  | some i => i.done.any fun id => id.1 == s.cur.1 && s.cur.2 < id.2 && (s.thread id).pred p.val
  | none => false

/-- The registers the instruction's marks name: the word's L bit and a memory prefix's LB and LI (R103, R371). -/
def marksOf (i : Instr) (payload : Option Nat) : List Nat :=
  i.markX ++
    (match payload, i with
      | some w, .ld _ _ xm idx b _ | some w, .st _ _ xm idx b _ | some w, .pfetch _ xm idx b | some w, .cflush _ xm idx b
      | some w, .cinv _ xm idx b | some w, .cwb _ xm idx b =>
        (if (memPfx w).lb then pairR (2 * b.val) else []) ++ (if (memPfx w).li then idxR xm idx else [])
      | some w, .atom _ _ _ b _ | some w, .red _ _ _ b _ => if (memPfx w).lb then pairR (2 * b.val) else []
      | _, _ => [])

/-- Last-read marks take effect: dependents settled, a backed register dead, a virtual one absent; a destination's write wins, and
a k register has no mark (R103, R105). -/
def applyMarks (marks dsts : List Nat) : Op Unit := do
  let t := (← get).curThread
  let ms := marks.filter fun n => !dsts.contains n && t.home n < 64
  if ms.isEmpty then return
  settleDependents ms
  let q := (← get).curTeam.quotaOf t.tid
  modThread fun t => ms.foldl (fun t n =>
    t.setCell n { t.cell n with dead := decide (n < q) || (t.cell n).dead, tag := 0, stored := false }) t

/-- A clause after an instruction of some halfwords (R343, R345). -/
def Clause.after (c : Clause) (halves : Nat) : Clause :=
  { c with left := c.left.map (· - halves), wait := 0, fresh := false }

/-- What retirement resets: the collective reply, the arrival state, the watch exemption (R283, R289). -/
def Thread.settle (t : Thread) : Thread := { t with reply := none, arrKind := 0, arrOp := 0, arrVal := 0, unwatched := false }
/-- The progress of a macro instruction: MSTEP; inside a handler MSTEP is the interrupted instruction's, and the handler's own stands beside
it (R224, log 79). -/
def Thread.progress (t : Thread) : Word := if t.handler == .none then t.mstep else t.hstep
/-- That progress written. -/
def Thread.setProgress (t : Thread) (w : Word) : Thread := if t.handler == .none then { t with mstep := w } else { t with hstep := w }
/-- A macro instruction that retires leaves its progress 0 (R224). -/
def Thread.clearMstep (t : Thread) : Thread := t.setProgress 0

/-- The thread passes its instruction of `n` bytes (R344). -/
def Thread.advance (t : Thread) (n : Nat) : Thread :=
  { t.settle.clearMstep with pc := t.pc + BitVec.ofNat 64 n, clause := t.clause.map (·.after (n / 2)) }

/-- The bytes of the unit: the prefix and the word (R347). -/
def unitLen (i : Instr) (payload : Option Nat) : Nat := Instr.len i + (if payload.isSome then 4 else 0)

/-- The instruction retires inside its segment. -/
def retire (i : Instr) (payload : Option Nat) : Op Unit := do
  applyMarks (marksOf i payload) i.dstX
  modThread (·.advance (unitLen i payload))
  modify (·.stayIssue)

/-- A thread goes to an address through the fold (R29). -/
def Thread.toFold (t : Thread) (pc : DWord) (step : Nat) : Thread :=
  { t.settle with pc := pc, clause := none, entry := none, status := .fold step }

/-- A segment ender retires: the thread enters the fold at the target (R29). -/
def retireTo (i : Instr) (target : DWord) : Op Unit := do
  applyMarks (marksOf i none) []
  modify fun s => (s.updThread s.cur (·.toFold target s.steps)).leaveIssue

/-- A context fails (R282, R291, R299). -/
def State.failCtx (s : State) (die num : Nat) : State := s.updCtx die num fun c => { c with failed := true }

/-- The pieces of a trap record of a thread. -/
def State.trapRecord (s : State) (id : ThreadId) (r : TrapRec) (time seq : Nat) (double : Bool) : List Byte :=
  let tm := s.team id.1
  trapBytes time (s.thread id).pc r.addr seq r.info tm.num id.2 tm.ctx tm.die tm.core r.cause double (s.gridOf tm).num

/-- A thread halts (R282): its record carries DOUBLE, core 4 writes an error record and raises the context's error vector, and the
context is failed. -/
def State.halt (s : State) (id : ThreadId) (r : TrapRec) (time seq : Nat) : State :=
  let tm := s.team id.1
  let c := s.ctxOf tm
  let rec' := s.trapRecord id r time seq true
  let s := s.updThread id fun t =>
    { t with status := .halted, trapCause := w32 r.cause, trapInfo := r.info, trapAddr := r.addr, trapPc := t.pc, trapSeq := w32 seq }
  let s := s.queueTrap tm.die rec'
  let s := s.report tm.die { kind := 9, ctx := tm.ctx, code := r.code, a := (s.thread id).pc.toNat, b := r.addr.toNat }
  (s.raiseCtx tm.die tm.ctx c.errVector).failCtx tm.die tm.ctx

/-- What is kept of the code a handler interrupts. -/
def Thread.level (t : Thread) : Level :=
  { pc := some t.pc, clause := t.clause, entry := t.entry, arrKind := t.arrKind, arrOp := t.arrOp, arrVal := t.arrVal, hstep := t.hstep, unwatched := t.unwatched }
/-- The segment entry of a thread that resumes at a pc: that of the interrupted code, when the pc lies within its 4,096 bytes (R25, R27). -/
def Level.entryAt (v : Level) (pc : DWord) : Option DWord := v.entry.bind fun e => if (pc - e).toNat < 4096 then some e else none

/-- The clause of a thread that resumes at a place its level does not tell: open, counting into no flag (R346, log 74). -/
def Clause.resumed : Clause := { left := none, fresh := false, counts := false }
/-- The clause of a thread that resumes at a pc: what is left of the interrupted one there, counting into no flag (R343, R346); at a
segment's entry none, so that a CLAUSE word must stand there (R27). -/
def Level.clauseAt (v : Level) (pc : DWord) : Option Clause :=
  if v.pc == some pc then v.clause.map fun c => { c with counts := false }
  else
    match v.pc, v.clause.bind (·.left) with
    | some at_, some n =>
      let halves := (pc - at_).toNat / 2
      some { Clause.resumed with left := if halves ≤ n then some (n - halves) else none }
    | _, _ => some Clause.resumed

/-- The k registers, the trap registers and the pc at a handler's entry: k0 the cause, k1 TRAPINFO, k2:k3 TRAPPC, k4:k5 TRAPADDR,
k6 and k7 zero (R104, R107, R280). Shared by every trap and by the save entry (R287). -/
def Thread.enterHandler (t : Thread) (h : Handler) (r : TrapRec) (seq : Nat) (entry : DWord) (step : Nat) : Thread :=
  let pc := words64 t.pc
  let ad := words64 r.addr
  { t with
    k := #v[w32 r.cause, r.info, pc[0]?.getD 0, pc[1]?.getD 0, ad[0]?.getD 0, ad[1]?.getD 0, 0, 0]
    trapCause := w32 r.cause
    trapInfo := r.info
    trapPc := t.pc
    trapAddr := r.addr
    trapSeq := w32 seq
    handler := h
    watchPc := if h == .trap then (if r.cause == causeWatch then some t.pc else none) else t.watchPc
    pc := entry
    levels := t.level :: t.levels
    dissolve := none
    arrKind := 0
    arrOp := 0
    arrVal := 0
    hstep := 0
    clause := none
    entry := none
    unwatched := false
    reply := none
    status := .fold step }

/-- The trap is delivered: the trap record is written and the thread enters the fold at the trap entry (R280 steps 2 to 4). -/
def State.enterTrap (s : State) (id : ThreadId) (r : TrapRec) (time seq : Nat) : State :=
  let tm := s.team id.1
  let c := s.ctxOf tm
  let s := s.queueTrap tm.die (s.trapRecord id r time seq false)
  s.updThread id fun t => t.enterHandler .trap r seq (BitVec.ofNat 64 c.trapEntry) s.steps

/-- TAKING A TRAP (R279, R280, R282): the thread stops at its instruction, a core sequence number is taken, and the handler is
entered at once when every flag count is zero, else by TRAP_ENTRY; without a trap entry, or inside a handler, the thread halts.
A prologue has no handler: its queue takes ERR_PROLOGUE (R74). -/
def State.takeTrap (s : State) (id : ThreadId) (r : TrapRec) : State :=
  let tm := s.team id.1
  let t := s.thread id
  match tm.prologue with
  | some (q, idx, _) =>
    (s.updTeam id.1 fun tm => { tm with status := .ended, threads := tm.threads.map fun t => { t with status := .ended } }).queueError
      q idx errPrologue
  | none =>
    let cs := s.core tm.die tm.core
    let s := s.setCore { cs with trapSeq := (cs.trapSeq + 1) % 2 ^ 32 }
    if (s.ctxOf tm).trapEntry == 0 || t.handler != .none then s.halt id r (s.coreTime tm.die tm.core) cs.trapSeq
    else if t.flagsClear && t.infl.isEmpty then s.enterTrap id r (s.coreTime tm.die tm.core) cs.trapSeq
    else s.updThread id fun t => { t with status := .stopping r (s.coreTime tm.die tm.core) cs.trapSeq }

/-- The trap that waits for a thread at its next instruction: that of a late reply, the one issued first, else that of a failed first read
(R174, R481). -/
def Thread.pendingTrap (t : Thread) : Option TrapRec := (t.late.head?.map (·.2)) <|> t.firstTrap
/-- That trap taken off. -/
def Thread.dropPending (t : Thread) : Thread := if t.late.isEmpty then { t with firstTrap := none } else { t with late := t.late.drop 1 }
/-- That trap taken (R174, R481). -/
def State.takePending (s : State) (id : ThreadId) : State :=
  match (s.thread id).pendingTrap with
  | some r => (s.updThread id Thread.dropPending).takeTrap id r
  | none => s

/-- A thread that has executed EXIT, or does not exist any more, takes part in nothing (R34, R39, R399). -/
def Thread.gone (t : Thread) : Bool :=
  match t.status with
  | .ended | .blocked .exitHelper => true
  | _ => false

/-- Traps of a list of threads of one team. -/
def State.trapAll (s : State) (uid : Nat) (tids : List Nat) (r : TrapRec) : State :=
  tids.foldl (fun s tid => s.takeTrap (uid, tid) r) s

/-- A convergence register of a team. -/
def Team.cvAt (t : Team) (cv : Nat) : Cv := t.cv[cv]?.getD {}
/-- A convergence register replaced. -/
def Team.setCv (t : Team) (cv : Nat) (v : Cv) : Team := { t with cv := t.cv.setIfInBounds cv v }

/-- A trap of every signer of a set but the issuing thread: the set is emptied, and none of them is arrived (R216). -/
def State.trapSigners (s : State) (uid cv : Nat) (except : Option Nat) (r : TrapRec) : State :=
  let tids := (((s.team uid).cvAt cv).signers.map (·.tid)).filter fun t => some t != except
  let s := s.updTeam uid fun tm =>
    tids.foldl (fun tm t => tm.updThread t fun th => { th with arrKind := 0, arrOp := 0 })
      (tm.setCv cv { tm.cvAt cv with signers := [] })
  s.trapAll uid tids r

/-- Info code CVSHORT (R234). -/
def codeCvshort : Nat := 0x16
/-- Whether a thread waits at MMA on a register, its set incomplete, or at BAR, its phase incomplete (R217). -/
def waitsShort (tm : Team) (cv : Nat) (t : Thread) : Bool :=
  match t.status with
  | .blocked (.mma c) => c == cv && (tm.cvAt cv).signers.any (·.tid == t.tid)
  | .blocked .bar => t.arrVal != tm.bphase
  | _ => false
/-- CVSHORT (R217): when each live thread of a team waits at MMA on one register or at BAR, and its set is incomplete. -/
def State.cvShort (s : State) (uid : Nat) : State :=
  let tm := s.team uid
  let live := tm.threads.filter fun t => !t.gone
  match (live.filterMap fun t => match t.status with | .blocked (.mma c) => some c | _ => none).head? with
  | none => s
  | some c =>
    if live.all (waitsShort tm c) then s.trapSigners uid c none { cause := causeCvmismatch, code := codeCvshort } else s

/-- The lowest TID parked on a fault record (R164). -/
def FaultRec.lowest (f : FaultRec) : Nat := (f.who.map (·.2)).foldl min 1024
/-- A record of an issue put into a queue: the records of the issue stand in ascending order of that TID (R472). -/
def FaultRec.insert (f : FaultRec) (fs : List FaultRec) : List FaultRec :=
  let before (g : FaultRec) : Bool := !(g.issue == f.issue && decide (f.lowest < g.lowest))
  fs.takeWhile before ++ f :: fs.dropWhile before

/-- One fault record for a (page, kind) of the issue, or one more parked thread on it: its address is that of the lowest TID (R164, R472). -/
def State.recordFault (s : State) (tm : Team) (pc : DWord) (va : Nat) (kind : AccKind) (reason : Nat) : State :=
  let id := s.cur
  let num := match s.issue with | some i => i.num | none => 0
  s.updDie tm.die fun d =>
    let same (f : FaultRec) : Bool := f.issue == num && num != 0 && f.va / 2 ^ 13 == va / 2 ^ 13 && f.kind == kind && f.ctx == tm.ctx
    let f : FaultRec := match d.faults.find? same with
      | some f => { f with count := f.count + 1, who := id :: f.who, va := if id.2 < f.lowest then va else f.va }
      | none => { va := va, pc := pc, time := s.coreTime tm.die tm.core, ctx := tm.ctx, core := if tm.prologue.isSome then 0xFFFF else tm.core
                  kind := kind, reason := reason, count := 1, issue := num, who := [id] }
    { d with faults := f.insert (d.faults.filter (!same ·)) }

/-- A stop of the issuing thread, at the state before its instruction. -/
def State.onStop (s : State) : Stop → State
  | .keep s' r => State.onStop s' r
  | .trap r => (s.takeTrap s.cur r).leaveIssue
  | .park va kind reason rp =>
    let t := s.curThread
    let s := s.recordFault s.curTeam t.pc va kind reason
    (s.updThread s.cur fun t =>
      { t with status := .parked va kind reason rp, clause := t.clause.map fun c => { c with counts := false } }).leaveIssue
  | .block w =>
    ((s.updThread s.cur fun t => { t with status := .blocked w }).leaveIssue).cvShort s.cur.1
  | .hold =>
    if s.curThread.infl.any (·.op.isNone) then s.landFirst s.cur (·.op.isNone)
    else (s.updThread s.cur fun t => { t with status := .blocked .engine }).leaveIssue

/-- The instructions a helper treats as guard-false (R38). -/
def helperFalse : Instr → Bool
  | .st .. | .st16 .. | .red .. | .atom .. | .lock .. | .unlock .. | .emit .. | .pxst .. | .pxout .. | .pxoutDiscard .. | .cpy ..
  | .trace .. | .traceWait .. | .hitrpt .. | .mtile .. | .launch .. | .tlnote .. => true
  | .mdrain _ _ kind _ _ _ => kind.val != 0
  | _ => false

/-- Guard(PRED), with a helper's exemptions (R38, R379). -/
def guardHolds (t : Thread) (i : Instr) : Bool :=
  (match Instr.guard? i with | some p => t.pred p.val | none => true) && !(t.quad == .helper && helperFalse i)

/-- The tile an instruction names (R85, R364). -/
def tileOf : Instr → Option Nat
  | .mma _ acc _ _ _ _ _ _ => some acc.val
  | .mzero _ t _ | .mld _ t _ _ _ _ | .mdrain _ t _ _ _ _ => some t.val
  | _ => none
/-- Registers of a kind 0 tile move by its drain format (R221); RAW56 is not allowed there. -/
def tileRegs (payload : Option Nat) : Option Nat :=
  match payload with
  | some w => if pfxClass w == .matrix then
      (match (drainPfx w).fmt with | 0 | 5 | 6 => some 32 | 1 | 2 => some 16 | 3 | 4 => some 8 | _ => none) else some 32
  | none => some 32

/-- Decode checks that need the launch record or the handler (R364): K with a k destination (R105), a tile at or above T (R85), the
registers of a kind 0 tile move (R221), GBAR without gridsync (R412). The info code. -/
def lateDecode (tm : Team) (gridsync : Bool) (t : Thread) (i : Instr) (payload : Option Nat) : Option Nat :=
  let k := i.kBit || (match payload, i with | some w, .ld .. => (memPfx w).k | _, _ => false)
  if k && t.inHandler && i.dstX.any (56 ≤ ·) then some codeKself
  else if (match tileOf i with | some n => decide (tm.tiles.length ≤ n) | none => false) then some 0
  else match i with
    | .gbar _ => if gridsync then none else some 0
    | .mld _ _ kind a _ _ | .mdrain _ _ kind a _ _ =>
      if kind.val != 0 then none
      else match tileRegs payload with | some c => if 64 < a.val + c then some 0 else none | none => some 0
    | _ => none

/-- The MSTEP kind of a macro-sequenced instruction, 0 for any other (R224). -/
def macroKind : Instr → Nat
  | .div .. => 1 | .bfly .. => 2 | .dotp4 .. => 3 | .mtile .. => 4 | _ => 0
/-- MSTEP of a stopped macro instruction (R224). -/
def mstepWord (kind step : Nat) : Word := w32 (2 ^ 31 + kind * 2 ^ 28 + step)
/-- Whether a stop is a trap or a park, which leave a macro instruction stopped with MSTEP set (R224). -/
def Stop.stops : Stop → Bool
  | .trap _ | .park .. => true
  | .block _ | .hold => false
  | .keep _ r => r.stops
/-- The state a stop acts on: the progress holds step 0 of a macro instruction that made no step (R224). -/
def State.stopped (s : State) (i : Instr) (r : Stop) : State :=
  if macroKind i != 0 && r.stops then
    s.updThread s.cur fun t => if t.progress.msb then t else t.setProgress (mstepWord (macroKind i) 0)
  else s
/-- Info code MSTEPBAD (R234). -/
def codeMstepbad : Nat := 0x1A

/-- Run an instruction of the issuing thread (R379): the decode checks that need its thread, the guard, the body, which retires the
instruction itself; a stop takes effect on the state before the instruction. -/
def runThread (i : Instr) (body : Op Unit) (s : State) : Host.Outcome State Fault Refusal :=
  match s.cur?.bind s.thread? with
  | none => .fault .noIssuingThread
  | some t =>
    match lateDecode s.curTeam (s.gridOf s.curTeam).lrec.gridsync t i s.pfx with
    | some c => .next (s.onStop (.trap { cause := causeIllegal, code := c }))
    | none =>
      if t.handler == .none && t.mstep.msb && (t.mstep.toNat / 2 ^ 28 % 8 != macroKind i) then
        .next (s.onStop (.trap { cause := causeIllegal, code := codeMstepbad }))
      else
        match (if guardHolds t i then body else retire i s.pfx) s with
        | .ok (_, s') => .next s'
        | .error r => .next ((s.stopped i r).onStop r)

/-- A lane operation (R379, aluEval): operands, results, flags, retirement. -/
def aluBody (i : Instr) : Op Unit := do
  let s ← get
  let ftz ← curFtz
  let src ← readList i.srcX
  match aluEval i s.pfx ftz 0 s.curTeam.s src with
  | none => illegal 0
  | some (outs, fl) =>
    writeRegs i.dstX outs (recipeFor i s.pfx ftz)
    setFlags fl
    retire i s.pfx

/-- The meaning of a lane operation. -/
def aluOp (i : Instr) (s : State) : Host.Outcome State Fault Refusal := runThread i (aluBody i) s

/-- A lane operation that SETA counts (R344): its results land by a reply. -/
def slowBody (i : Instr) : Op Unit := do
  let s ← get
  let ftz ← curFtz
  checkFlagRoom false
  let src ← readList i.srcX
  match aluEval i s.pfx ftz 0 s.curTeam.s src with
  | none => illegal 0
  | some (outs, fl) =>
    prepareDsts i.dstX (recipeFor i s.pfx ftz)
    startFlight false (i.dstX.zip outs) [] none none
    setFlags fl
    retire i s.pfx

/-- The meaning of DIV and FSFU (R396, R409). -/
def slowOp (i : Instr) (s : State) : Host.Outcome State Fault Refusal := runThread i (slowBody i) s

end Sys2Proof.Machine
end

