-- ==== Sys2Proof/Machine/Memory.lean ====
section
/-! DEFINITION. Loads, stores, the uniform load, cache control and fences (R155, R193, R337, R391, R421 to R424, R454, R455). -/
namespace Sys2Proof.Machine

/-- Info code NOTIMM (R108). -/
def codeNotimm : Nat := 0x04

/-- The alignment of an access by SIZE (R143). -/
def sizeAlign (size : Nat) : Nat := if size == 7 then 1 else sizeBytes size

/-- The effective address of a format M instruction of the issuing thread, its registers read in order (R340). -/
def addrM (size : Nat) (xm : Fin 4) (idx : XReg) (base : Nat) (m : MemPfx) : Op Nat := do
  let b ← readPair base
  let x ← (if xm.val == 0 then pure 0 else readX idx.val : Op Word)
  return effAddr size xm.val m b x

/-- A load of the issuing thread (R422): its address is `va`, its registers `dsts`. -/
def loadBody (i : Instr) (size : Nat) (m : MemPfx) (va : Nat) (dsts : List Nat) : Op Unit := do
  let s ← get
  let nb := sizeBytes size
  let ftz ← (if m.k then curFtz else pure false : Op Bool)
  let recipe : Option Recipe := if m.k then (encode i).map fun w => { word := w, payload := s.pfx, ftz := ftz } else none
  tryPrepare dsts recipe
  let (l, reg) ← locateOp va nb (sizeAlign size) .read (4 ≤ size && size != 7) true (size == 7)
    fun l => if m.k && !l.imm then some codeNotimm else none
  let acq := m.order == 1 && scopeCluster ≤ m.scope
  let (vals, late) ← (match reg with
    | some (off, r) => do
      acquireAt (m.order == 1) m.scope
      match blockLoad s r off nb with
      | some ws => return (ws, none)
      | none => return (dsts.map fun _ => (0 : Word), some (causeAccess, codeWindowBusy))
    | none => do
      let (bs, err) ← (if size == 7 then do
          acquireAt (m.order == 1) m.scope
          let e ← typedLines l va false
          return ([], e)
        else readBytes l nb acq : Op (List Byte × Nat))
      if err != 0 then return (dsts.map fun _ => (0 : Word), some (causePoison, err))
      if size == 7 then return ([typedRead (← get) (s.ctxOf s.curTeam) l va], none)
      return (loadWords size bs, none) : Op (List Word × Option (Nat × Nat)))
  prepareDsts dsts recipe
  startFlight false (dsts.zip vals) []
    (late.map fun (c, code) => { cause := c, code := code, addr := BitVec.ofNat 64 va }) none
  retire i s.pfx

/-- A store of the issuing thread (R455): its address is `va`, its value the words of `vals`. -/
def storeBody (i : Instr) (size : Nat) (va : Nat) (vals : List Word) : Op Unit := do
  let s ← get
  let nb := sizeBytes size
  let (l, reg) ← locateOp va nb (sizeAlign size) .write (4 ≤ size && size != 7) true (size == 7) fun _ => none
  let late ← (match reg with
    | some (off, r) => do
      let busy ← blockPut r off vals
      return if busy then some (causeAccess, codeWindowBusy) else none
    | none => do
      if size == 7 then storeTyped l va (vals[0]?.getD 0)
      else storeBytes l ((vals.flatMap fun w => bytesLE 4 w.toNat).take nb)
      return none : Op (Option (Nat × Nat)))
  startFlight true [] []
    (late.map fun (c, code) => { cause := c, code := code, addr := BitVec.ofNat 64 va }) none
  retire i s.pfx

/-- `ld.size T, [pair b + idx]` (R422). -/
def execLd (p : PReg) (size : Fin 8) (xm : Fin 4) (idx : XReg) (b : YReg) (t : XReg) (s : State) :
    Host.Outcome State Fault Refusal :=
  let i : Instr := .ld p size xm idx b t
  runThread i (do
    let m := memFields s.pfx
    checkFlagRoom false
    let va ← addrM size.val xm idx (2 * b.val) m
    loadBody i size.val m va (sizeR size t)) s

/-- `st.size T, [pair b + idx]` (R455). -/
def execSt (p : PReg) (size : Fin 8) (xm : Fin 4) (idx : XReg) (b : YReg) (t : XReg) (s : State) :
    Host.Outcome State Fault Refusal :=
  let i : Instr := .st p size xm idx b t
  runThread i (do
    checkFlagRoom true
    let va ← addrM size.val xm idx (2 * b.val) (memFields s.pfx)
    let vals ← readList (sizeR size t)
    storeBody i size.val va vals) s

/-- `ld.32.c xd, [xs:xs+1]` (R337): a relaxed 32-bit load. -/
def execLd16 (l : Bool) (r : YReg) (d : YReg) (s : State) : Host.Outcome State Fault Refusal :=
  let i : Instr := .ld16 l r d
  runThread i (do
    checkFlagRoom false
    let va ← readPair r.val
    loadBody i 4 (memFields none) va.toNat [d.val]) s

/-- `st.32.c [xs:xs+1], xd` (R337): a relaxed 32-bit store. -/
def execSt16 (l : Bool) (r : YReg) (d : YReg) (s : State) : Host.Outcome State Fault Refusal :=
  let i : Instr := .st16 l r d
  runThread i (do
    checkFlagRoom true
    let va ← readPair r.val
    let v ← readX d.val
    storeBody i 4 va.toNat [v]) s

/-- Whether a pair of s registers has a pending write of the thread's own LDC (R424, R345). -/
def holdSregs (ns : List Nat) : Op Unit := do
  if (← get).curThread.infl.any fun f => f.sdsts.any fun d => ns.contains d.1 then stop .hold

/-- The s registers of a pair, as the thread reads them. -/
def readSPair (n : Nat) : Op DWord := do
  holdSregs [n, n + 1]
  let tm := (← get).curTeam
  return pair64 (tm.s[n]?.getD 0) (tm.s[n + 1]?.getD 0)

/-- The values an issue's LDC leaves in the s registers: the highest TID's among those whose guard `p` is true (R88, R424). What earlier members of the issue hold in flight
is replaced when this thread's TID is higher; else this thread's flight takes theirs. -/
def sWinner (p : PReg) (dsts : List (Nat × Word)) : Op (List (Nat × Word)) := do
  let s ← get
  let (uid, tid) := s.cur
  let mates : List ThreadId := match s.issue with
    | some i => i.done.filter fun id => id.1 == uid && (s.thread id).pred p.val
    | none => []
  let same (f : Flight) : Bool := f.sdsts.map (·.1) == dsts.map (·.1)
  match (mates.filterMap fun id => if tid < id.2 then (s.thread id).infl.find? same else none).head? with
  | some f => return f.sdsts
  | none =>
    modify fun s => mates.foldl (fun s id =>
      s.updThread id fun t => { t with infl := t.infl.map fun f => if same f then { f with sdsts := dsts } else f }) s
    return dsts

/-- `ldc.w sD, [sA:sA+1]` (R424). -/
def execLdc (p : PReg) (d a : YReg) (w : Fin 4) (s : State) : Host.Outcome State Fault Refusal :=
  let i : Instr := .ldc p d a w
  runThread i (do
    let m := memFields s.pfx
    checkFlagRoom false
    let n := 4 * 2 ^ w.val
    let base ← readSPair a.val
    let regs := (List.range (2 ^ w.val)).map (d.val + ·)
    holdSregs regs
    let va := (((base.toNat : Int) + m.off) % (2 ^ 64 : Nat)).toNat
    let (l, _) ← locateOp va n n .read false true false fun _ => none
    let (bs, err) ← readBytes l n (m.order == 1 && scopeCluster ≤ m.scope)
    let vals := if err != 0 then regs.map fun _ => (0 : Word) else wordsOf bs
    let late : Option (Nat × Nat) := if err != 0 then some (causePoison, err) else none
    let won ← sWinner p (regs.zip vals)
    startFlight false [] won (late.map fun (c, code) => { cause := c, code := code, addr := BitVec.ofNat 64 va }) none
    retire i s.pfx) s

/-- What CWB and CFLUSH do to a pair-coherent line held by the issuing thread's die: the copy written back; CFLUSH drops it (R155). -/
def writeBack (l : Loc) (drop : Bool) : Op Unit := do
  let s ← get
  let die := s.curTeam.die
  if l.coh == 2 && l.home != die then
    match s.dirs.find? (·.key == lineKey l.key) with
    | some e =>
      let rest := s.dirs.filter (·.key != e.key)
      match e.st with
      | .modified o d =>
        if o == die then
          set { s with mem := Memory.write s.mem e.key d
                       dirs := if drop then rest else { e with st := .exclusive o } :: rest }
      | .exclusive o => if o == die && drop then set { s with dirs := rest }
      | .shared ag =>
        if drop && ag.contains die then
          set { s with dirs := if (ag.filter (· != die)).isEmpty then rest else { e with st := .shared (ag.filter (· != die)) } :: rest }
      | .ownerLost => pure ()
    | none => pure ()

/-- CFLUSH, CINV and CWB (R155, R391): the line of the effective address; a commons location that the window admits is left alone. -/
def cacheOp (i : Instr) (xm : Fin 4) (idx : XReg) (b : YReg) (act : Loc → Op Unit) : Op Unit := do
  let s ← get
  let va ← addrM 7 xm idx (2 * b.val) (memFields s.pfx)
  let (l, _) ← locateOp va 1 1 .read false false false fun _ => none
  if l.home != 4 then act l
  retire i s.pfx

/-- A line discarded from the issuing thread's core. -/
def dropL1 (l : Loc) : Op Unit := modify fun s =>
  let tm := s.curTeam
  s.setCore ((s.core tm.die tm.core).dropLine l.key)

/-- `cflush [pair b + idx]` (R155). -/
def execCflush (p : PReg) (xm : Fin 4) (idx : XReg) (b : YReg) (s : State) : Host.Outcome State Fault Refusal :=
  runThread (.cflush p xm idx b) (cacheOp (.cflush p xm idx b) xm idx b fun l => do
    dropL1 l
    writeBack l true) s
/-- `cinv [pair b + idx]` (R155). -/
def execCinv (p : PReg) (xm : Fin 4) (idx : XReg) (b : YReg) (s : State) : Host.Outcome State Fault Refusal :=
  runThread (.cinv p xm idx b) (cacheOp (.cinv p xm idx b) xm idx b dropL1) s
/-- `cwb [pair b + idx]` (R155). -/
def execCwb (p : PReg) (xm : Fin 4) (idx : XReg) (b : YReg) (s : State) : Host.Outcome State Fault Refusal :=
  runThread (.cwb p xm idx b) (cacheOp (.cwb p xm idx b) xm idx b fun l => writeBack l false) s

/-- Whether a stop is one of waiting: the backstop, or a block. -/
def Stop.waits : Stop → Bool
  | .hold | .block _ => true
  | .trap _ | .park .. => false
  | .keep _ r => r.waits
/-- An operation of a PFETCH: a trap or park of it is dropped with what it did (R155); what only waits, waits. -/
def attempt {α : Type} (op : Op α) : Op (Option α) := fun s =>
  match op s with
  | .ok (a, s') => .ok (some a, s')
  | .error r => if r.waits then .error r else .ok (none, s)

/-- The fill of a PFETCH (R155): the line of the address, when every check passes. -/
def prefetch (va : Nat) : Op Unit := do
  let (l, _) ← locateOp va 1 1 .read false false false fun _ => none
  if l.home != 4 then
    let _ ← readBytes { l with key := lineKey l.key } 1 false

/-- `pfetch [pair b + idx]` (R155, R391): it never traps or parks after decode. -/
def execPfetch (p : PReg) (xm : Fin 4) (idx : XReg) (b : YReg) (s : State) : Host.Outcome State Fault Refusal :=
  runThread (.pfetch p xm idx b) (do
    let lo ← attempt (readX (2 * b.val))
    let hi ← attempt (readX (2 * b.val + 1))
    let x ← (if xm.val == 0 then pure (some 0) else attempt (readX idx.val) : Op (Option Word))
    (match lo, hi, x with
    | some lo, some hi, some x => do
      let _ ← attempt (prefetch (effAddr 7 xm.val (memFields s.pfx) (pair64 lo hi) x))
    | _, _, _ => pure ())
    retire (.pfetch p xm idx b) s.pfx) s

/-- `fence.kind.scope[.eng]` (R193). Accesses perform in program order in this model, so a release side orders nothing more; the acquire
side discards the core's first-level lines as an acquire does (R187). -/
def execFence (p : PReg) (eng : Bool) (kind : Fin 4) (scope : Fin 16) (s : State) : Host.Outcome State Fault Refusal :=
  runThread (.fence p eng kind scope) (do
    acquireAt (kind.val != 1) scope.val
    retire (.fence p eng kind scope) s.pfx) s

end Sys2Proof.Machine
end

