-- ==== Sys2Proof/Machine/Atomic.lean ====
section
/-! DEFINITION. ATOM and RED (R198 to R202, R142, R154, R173). -/
namespace Sys2Proof.Machine

/-- Info code CKPTATOMIC (R312). -/
def codeCkptAtomic : Nat := 0x26

/-- The ACCESS check an atomic makes on its location: the OPs a host page takes (R154), and none on outside memory under a checkpoint
(R305). -/
def atomRefused (c : Context) (die op : Nat) (red : Bool) (l : Loc) : Option Nat :=
  if !red && c.outside die l then some codeCkptAtomic
  else if l.home == 3 && !(op == 0 || op == 8 || op == 9) then some codeHostAtomic
  else none

/-- The operand values of an atomic: the value (or compare), and the new value of a CAS (R198). -/
def atomOperands (w : Bool) (vals : List Word) : Nat × Nat :=
  let v (k : Nat) : Nat := (vals[k]?.getD 0).toNat
  if w then (v 0 + 2 ^ 32 * v 1, v 2 + 2 ^ 32 * v 3) else (v 0, v 1)

/-- ATOM and RED of the issuing thread (R198). -/
def atomBody (i : Instr) (red : Bool) (op : Nat) (w : Bool) (b : YReg) (regs : List Nat) : Op Unit := do
  let s ← get
  let tm := s.curTeam
  let c := s.ctxOf tm
  let m := memFields s.pfx
  checkFlagRoom red
  let base ← readPair (2 * b.val)
  let vals ← readList regs
  let n := if w then 8 else 4
  let va := (((base.toNat : Int) + m.off) % (2 ^ 64 : Nat)).toNat
  tryPrepare i.dstX none
  let (l, _) ← locateOp va n n .atomic false true false (atomRefused c tm.die op red)
  let (v, new) := atomOperands w vals
  acquireAt (m.order % 2 == 1) m.scope
  let trapOf (l : Option (Nat × Nat)) : Option TrapRec := l.map fun (c, code) => { cause := c, code := code, addr := BitVec.ofNat 64 va }
  if red then
    if c.outside tm.die l then
      holdEffect { key := l.key, data := bytesLE n v, red := some (op, w), order := m.order, scope := m.scope }
      startFlight true [] [] none none
    else
      let r ← atomicAt l n op m.order m.scope v new false
      if r.late == some (causePoison, codeUncorrectable) then
        modify fun s => s.report tm.die { kind := 5, ctx := tm.ctx, code := codeUncorrectable, a := lineKey l.key % 2 ^ 52 }
      startFlight true [] [] (if r.late.map (·.1) == some causeAccess then trapOf r.late else none) none
  else
    let r ← atomicAt l n op m.order m.scope v new true
    prepareDsts i.dstX none
    startFlight false (i.dstX.zip [w32 r.old, w32 (r.old / 2 ^ 32)]) [] (trapOf r.late) none
  retire i s.pfx

/-- `atom.op[.w] xT, [pair b]` (R198). -/
def execAtom (p : PReg) (op : Fin 32) (w : Bool) (b : YReg) (t : XReg) (s : State) : Host.Outcome State Fault Refusal :=
  runThread (.atom p op w b t) (atomBody (.atom p op w b t) false op.val w b (atomSrc op w t)) s

/-- `red.op[.w] [pair b], xT` (R198). -/
def execRed (p : PReg) (op : Fin 32) (w : Bool) (b : YReg) (t : XReg) (s : State) : Host.Outcome State Fault Refusal :=
  runThread (.red p op w b t) (atomBody (.red p op w b t) true op.val w b (atomSrc op w t)) s

end Sys2Proof.Machine
end

