-- ==== Sys2Proof/Machine/Collective.lean ====
section
/-! DEFINITION. Gang collectives, quad derivatives, QUOTA and the deprecated macro instructions (R34, R35, R40, R94, R95, R141, R376,
R377, R386, R395, R414, R429, R444, R451, R468). Every member arrives with its operands; the last to arrive computes each
member's result, and each member writes its own when it runs again. -/
namespace Sys2Proof.Machine

/-- Info codes of R108. -/
def codeCollSplit : Nat := 0x03
def codeQuotaRange : Nat := 0x07
def codeQuotaDead : Nat := 0x08

/-- A member as the others see it: TID, whether its guard is true, its operand values. -/
structure Member where
  tid : Nat
  active : Bool
  vals : List Word
  deriving DecidableEq, Repr

/-- What a thread has brought to a collective of a kind at a pc, if it waits there with no result yet. -/
def Thread.arrivedAt (t : Thread) (quad : Bool) (pc : DWord) : Option Member :=
  match t.status, t.reply with
  | .blocked (.coll q act vs), none => if q == quad && t.pc == pc then some ⟨t.tid, act, vs⟩ else none
  | _, _ => none

/-- Whether a thread waits at any gang collective with no result yet (R35). -/
def Thread.atGangColl (t : Thread) : Bool :=
  match t.status, t.reply with
  | .blocked (.coll false _ _), none => true
  | _, _ => false

/-- The threads awaited beside the issuing one: the gang's, or the quad's (R34, R40). -/
def peers (tm : Team) (tid : Nat) (quad : Bool) : List Thread :=
  tm.threads.filter fun t => t.tid != tid && !t.gone &&
    (if quad then t.tid / 4 == tid / 4 else tm.gangNo t.tid == tm.gangNo tid)

/-- Rendezvous (R34): with a result waiting, `finish` writes it; else the thread arrives with its values, and the last to arrive
lets `compute` give every member its result. -/
def rendezvous (quad active : Bool) (vals : Op (List Word)) (compute : Team → List Member → Nat → List Word)
    (finish : List Word → Op Unit) : Op Unit := do
  let s ← get
  match s.curThread.reply with
  | some r => finish r
  | none =>
    let vs ← vals
    let s ← get
    let tm := s.curTeam
    let t := s.curThread
    let others := peers tm t.tid quad
    let arrived := others.filterMap (·.arrivedAt quad t.pc)
    if arrived.length == others.length then
      let ms := ⟨t.tid, active, vs⟩ :: arrived
      modTeam fun tm => arrived.foldl (fun tm m => tm.updThread m.tid fun o => { o with reply := some (compute tm ms m.tid) }) tm
      finish (compute tm ms t.tid)
    else if !quad && others.all (·.atGangColl) then
      let s' := s.trapAll s.cur.1 (others.map (·.tid)) { cause := causeIllegal, code := codeCollSplit }
      stop (.keep s' (.trap { cause := causeIllegal, code := codeCollSplit }))
    else stopKeep (.block (.coll quad active vs))

/-- Run a collective: a false guard arrives too, as inactive (R34). -/
def runArrive (i : Instr) (body : Bool → Op Unit) (s : State) : Host.Outcome State Fault Refusal :=
  match s.cur?.bind s.thread? with
  | none => .fault .noIssuingThread
  | some t =>
    if t.handler == .none && t.mstep.msb && (t.mstep.toNat / 2 ^ 28 % 8 != macroKind i) then
      .next (s.onStop (.trap { cause := causeIllegal, code := codeMstepbad }))
    else
      match body (guardHolds t i) s with
      | .ok (_, s') => .next s'
      | .error r => .next ((s.stopped i r).onStop r)

/-- A gang collective needs a declared width (R32). -/
def needWidth : Op Unit := do
  if (← get).curTeam.declared == 0 then illegal 0

/-- REGQUOTA of the destinations of a collective is decided at its arrival (R96). -/
def checkDsts (dsts : List Nat) : Op Unit := do
  let s ← get
  let t := s.curThread
  match (dsts.map t.home).find? (fun h => h < 64 && s.curTeam.quotaOf t.tid ≤ h) with
  | some n => trap { cause := causeRegquota, reg := n }
  | none => pure ()

/-- A collective whose result words go to the instruction's destinations, with FSTAT bits in a last word. -/
def gangBody (i : Instr) (vals : Op (List Word)) (compute : Team → List Member → Nat → List Word) (flags : Bool)
    (active : Bool) : Op Unit := do
  needWidth
  rendezvous false active (do
      if active then
        let vs ← vals
        checkDsts i.dstX
        return vs
      else return [])
    compute fun r => do
      if active then
        writeRegs i.dstX (r.take i.dstX.length) none
        if flags then setFlags (r.getLast?.getD 0).toNat
      retire i (← get).pfx

/-- The first value of an active member. -/
def Member.val (m : Member) (k : Nat) : Word := m.vals[k]?.getD 0
/-- The active member of a gang with a rank (R22). -/
def rankOf (tm : Team) (ms : List Member) (me : Nat) (r : Nat) : Option Member :=
  if r < tm.width then ms.find? fun m => m.tid == me / tm.width * tm.width + r && m.active else none

/-- The result of SHFL (R451). -/
def shflResult (mode : Nat) (tm : Team) (ms : List Member) (me : Nat) : List Word :=
  let j : Int := (me % tm.width : Nat)
  match ms.find? (·.tid == me) with
  | none => []
  | some m =>
    let q := (m.val 1).toNat
    let src : Int := match mode with | 0 => q | 1 => ((me % tm.width) ^^^ q : Nat) | 2 => j - q | _ => j + q
    if 0 ≤ src && src < tm.width then
      match rankOf tm ms me src.toNat with
      | some o => [o.val 0]
      | none => [m.val 0]
    else [m.val 0]

/-- `shfl.mode xD, xA, xB` (R451). -/
def execShfl (p : PReg) (d a b : XReg) (mode : Fin 4) (l : Bool) (s : State) : Host.Outcome State Fault Refusal :=
  runArrive (.shfl p d a b mode l) (gangBody (.shfl p d a b mode l) (readList [a.val, b.val]) (shflResult mode.val) false) s

/-- The ranks that vote true, as a mask (R468). -/
def ballot (tm : Team) (ms : List Member) (me : Nat) : Nat :=
  (List.range tm.width).foldl (fun v r => match rankOf tm ms me r with
    | some m => if m.val 0 != 0 then v + 2 ^ r else v
    | none => v) 0

/-- The result of VOTE: one word for a predicate or a count, two for a ballot (R468). -/
def voteResult (mode : Nat) (tm : Team) (ms : List Member) (me : Nat) : List Word :=
  let act := ms.filter (·.active)
  match mode with
  | 0 => [if act.any (fun m => m.val 0 != 0) then 1 else 0]
  | 1 => [if act.all (fun m => m.val 0 != 0) then 1 else 0]
  | 2 => words64 (BitVec.ofNat 64 (ballot tm ms me))
  | _ => [w32 (act.countP fun m => m.val 0 != 0)]

/-- `vote.mode D, [!]pA` (R468). -/
def execVote (p : PReg) (d : XReg) (a : PReg) (n : Bool) (mode : Fin 4) (s : State) : Host.Outcome State Fault Refusal :=
  let i : Instr := .vote p d a n mode
  let vote : Op (List Word) := do return [if (← get).curThread.pred a.val != n then 1 else 0]
  if 2 ≤ mode.val then runArrive i (gangBody i vote (voteResult mode.val) false) s
  else runArrive i (fun active => do
    needWidth
    rendezvous false active (if active then vote else return []) (voteResult mode.val) fun r => do
      if active then modThread fun t => t.setPred d.val (r[0]?.getD 0 != 0)
      retire i (← get).pfx) s

/-- The mask of the active ranks whose value satisfies a test (R429). -/
def rankMask (tm : Team) (ms : List Member) (me : Nat) (f : Word → Bool) : Nat :=
  (List.range tm.width).foldl (fun v r => match rankOf tm ms me r with | some m => if f (m.val 0) then v + 2 ^ r else v | none => v) 0

/-- MATCH.any (R429). -/
def matchAnyResult (tm : Team) (ms : List Member) (me : Nat) : List Word :=
  match ms.find? (·.tid == me) with
  | some m => words64 (BitVec.ofNat 64 (rankMask tm ms me (· == m.val 0)))
  | none => []
/-- MATCH.all: the mask or 0, then the equality (R429). -/
def matchAllResult (tm : Team) (ms : List Member) (me : Nat) : List Word :=
  let act := ms.filter (·.active)
  let eq := act.all fun m => act.all fun o => m.val 0 == o.val 0
  words64 (BitVec.ofNat 64 (if eq then rankMask tm ms me fun _ => true else 0)) ++ [if eq then 1 else 0]

/-- `match.any xD:xD+1, xA` (R429). -/
def execMatchAny (p : PReg) (d a : XReg) (l : Bool) (s : State) : Host.Outcome State Fault Refusal :=
  runArrive (.matchAny p d a l) (gangBody (.matchAny p d a l) (readList [a.val]) matchAnyResult false) s

/-- `match.all xD:xD+1, xA, pB` (R429). -/
def execMatchAll (p : PReg) (d a : XReg) (b : PReg) (l : Bool) (s : State) : Host.Outcome State Fault Refusal :=
  let i : Instr := .matchAll p d a b l
  runArrive i (fun active => do
    needWidth
    rendezvous false active (do
        if active then
          let vs ← readList [a.val]
          checkDsts i.dstX
          return vs
        else return [])
      matchAllResult fun r => do
        if active then
          writeRegs i.dstX (r.take 2) none
          modThread fun t => t.setPred b.val (r[2]?.getD 0 != 0)
        retire i (← get).pfx) s

/-- The combine of a reduction code, with the FSTAT bits it raises (R369, R414). -/
def gcombine (code : Nat) (fm : Num.FMods) (a b : Word) : Word × Nat :=
  match code with
  | 0 => (a + b, 0)
  | 1 => (if a.slt b then a else b, 0)
  | 2 => (if a.ult b then a else b, 0)
  | 3 => (if a.slt b then b else a, 0)
  | 4 => (if a.ult b then b else a, 0)
  | 5 => (a &&& b, 0)
  | 6 => (a ||| b, 0)
  | 7 => (a ^^^ b, 0)
  | 8 => let r := Num.fadd Num.fp32 fm a.toNat b.toNat; (w32 r.1, r.2)
  | 9 => let r := Num.fminmax Num.fp32 fm false false a.toNat b.toNat; (w32 r.1, r.2)
  | _ => let r := Num.fminmax Num.fp32 fm true false a.toNat b.toNat; (w32 r.1, r.2)

/-- The identity of a reduction code (R369). -/
def gidentity (code : Nat) : Word :=
  match code with
  | 1 => 0x7FFFFFFF | 2 => 0xFFFFFFFF | 3 => 0x80000000 | 5 => 0xFFFFFFFF | 9 => 0x7F800000 | 10 => 0xFF800000 | _ => 0

/-- One level of the pairwise tree over GLANE order; absent ranks are none (R141). A sole present value passes as it is, a NaN too, and sets no
flag (DEDUCED, log 97). -/
def treeLevel (code : Nat) (fm : Num.FMods) : List (Option (Word × Nat)) → List (Option (Word × Nat))
  | a :: b :: rest =>
    (match a, b with
      | some (x, fx), some (y, fy) => let (z, fz) := gcombine code fm x y; some (z, fx ||| fy ||| fz)
      | some x, none => some x
      | none, y => y) :: treeLevel code fm rest
  | l => l

/-- Tree (R141): six levels serve every width. -/
def tree (code : Nat) (fm : Num.FMods) (vs : List (Option (Word × Nat))) : Word × Nat :=
  let r := (List.range 6).foldl (fun l _ => treeLevel code fm l) vs
  ((r.head?.getD none).getD (gidentity code, 0))

/-- A float input under FTZ: a subnormal is read as zero of its sign (R114, R414). -/
def flushIn (code : Nat) (ftz : Bool) (w : Word) : Word :=
  if 8 ≤ code && ftz && w.toNat % 2 ^ 31 < 2 ^ 23 then w &&& 0x80000000 else w

/-- The result of GRED and GSCAN for a rank: the ranks below `upto` take part (R414). -/
def gscanResult (code : Nat) (payload : Option Nat) (upto : Nat → Nat) (tm : Team) (ms : List Member) (me : Nat) : List Word :=
  match ms.find? (·.tid == me) with
  | none => []
  | some m =>
    let fm := floatMods payload (m.val 1 != 0)
    let vs := (List.range tm.width).map fun r =>
      if r < upto (me % tm.width) then (rankOf tm ms me r).map fun o => (flushIn code fm.ftz (o.val 0), 0) else none
    let (v, fl) := tree code fm vs
    [v, w32 fl]

/-- The operand of a reduction and the thread's FTZ. -/
def gredVals (a : XReg) : Op (List Word) := do
  let ftz ← curFtz
  let v ← readX a.val
  return [v, if ftz then 1 else 0]

/-- `gred.code xD, xA` (R414). -/
def execGred (p : PReg) (d a : XReg) (c : Fin 64) (l : Bool) (s : State) : Host.Outcome State Fault Refusal :=
  let i : Instr := .gred p d a c l
  runArrive i (gangBody i (gredVals a) (gscanResult c.val s.pfx fun _ => 64) true) s

/-- `gscan.code xD, xA`, exclusive when e (R414). -/
def execGscan (p : PReg) (d a : XReg) (c : Fin 64) (e l : Bool) (s : State) : Host.Outcome State Fault Refusal :=
  let i : Instr := .gscan p d a c e l
  runArrive i (gangBody i (gredVals a) (gscanResult c.val s.pfx fun j => if e then j else j + 1) true) s

/-- The result of BFLY (R376). -/
def bflyResult (m : Nat) (tm : Team) (ms : List Member) (me : Nat) : List Word :=
  let j := me % tm.width
  match ms.find? (·.tid == me) with
  | none => []
  | some o =>
    match rankOf tm ms me (j ^^^ m) with
    | none => [o.val 0, 0]
    | some p =>
      let fm : Num.FMods := { ftz := o.val 1 != 0 }
      let r := if j / m % 2 == 0 then Num.fadd Num.fp32 fm (o.val 0).toNat (p.val 0).toNat
        else Num.fsub Num.fp32 fm (p.val 0).toNat (o.val 0).toNat
      [w32 r.1, w32 r.2]

/-- `bfly xD, xA, m` (R376): the distance must lie below the gang width. -/
def execBfly (p : PReg) (d a : XReg) (m : Fin 64) (l : Bool) (s : State) : Host.Outcome State Fault Refusal :=
  let i : Instr := .bfly p d a m l
  runArrive i (fun active => do
    if s.curTeam.declared != 0 && s.curTeam.width ≤ m.val then illegal 0
    gangBody i (gredVals a) (bflyResult m.val) true active) s

/-- The value of a register of a helper that waits at its EXIT (R40): its recipe's for a dropped or virtual one (R96, R101). A dead or absent
one, and one whose replay a miss or a bad reply stops, gives the word its slot last held: the spec states no value (log 82). -/
def helperVal (id : ThreadId) (reg : Nat) : Op Word := fun s =>
  let t := s.thread id
  match regState ((s.team id.1).quotaOf id.2) reg (t.cell reg) with
  | .dropped | .virtual =>
    match asThread id (replay 4 reg) s with
    | .ok r => .ok r
    | .error _ => .ok ((t.cell reg).val, s)
  | _ => .ok ((t.cell reg).val, s)
/-- Whether a member of a thread's quad waits at its EXIT as a helper (R39). -/
def waitsAtExit (tm : Team) (tid : Nat) : Bool :=
  tm.quads && (match tm.threads[tid]? with | some t => t.status == .blocked .exitHelper | none => false)
/-- What the helpers of the issuing thread's quad that wait at their EXIT supply for a register, by place in the quad (R40). -/
def helperVals (reg : Nat) : List Nat → Op (List Word)
  | [] => return []
  | tid :: rest => do
    let s ← get
    let v ← (if waitsAtExit s.curTeam tid then helperVal (s.cur.1, tid) reg else pure 0 : Op Word)
    let vs ← helperVals reg rest
    return v :: vs

/-- The quad member's value: what it brought, or, of a helper at its EXIT, what the last to arrive found in its register (R40); for a dead or
absent register that is the word its slot last held (DESIGN CHOICE, log 82). -/
def quadVal (tm : Team) (ms : List Member) (quadBase k : Nat) : Option Word :=
  match ms.find? (·.tid == quadBase + k) with
  | some m => some (m.val 0)
  | none => if waitsAtExit tm (quadBase + k) then ms.head?.map (·.val (2 + k)) else none

/-- The result of DDX and DDY, and their flags: +0.0 with DERIVLOST when a neighbour has exited (R40, R395). -/
def derivResult (y fine : Bool) (tm : Team) (ms : List Member) (me : Nat) : List Word :=
  let q := me / 4 * 4
  let k := me % 4
  let lo := if y then (if fine then k % 2 else 0) else (if fine then k / 2 * 2 else 0)
  let hi := if y then lo + 2 else lo + 1
  let ftz := match ms.find? (·.tid == me) with | some m => m.val 1 != 0 | none => false
  match quadVal tm ms q hi, quadVal tm ms q lo with
  | some b, some a => let r := Num.fsub Num.fp32 { ftz := ftz } b.toNat a.toNat; [w32 r.1, w32 r.2]
  | _, _ => [0, 32]

/-- A derivative: a member with a false guard arrives and supplies its operand, and writes nothing (R395). -/
def derivBody (i : Instr) (y fine : Bool) (d a : XReg) (active : Bool) : Op Unit :=
  rendezvous true active (do
      let v ← gredVals a
      if active then checkDsts [d.val]
      let q := (← get).cur.2 / 4 * 4
      return v ++ (← helperVals a.val [q, q + 1, q + 2, q + 3]))
    (derivResult y fine) fun r => do
      if active then
        writeRegs [d.val] (r.take 1) none
        setFlags (r[1]?.getD 0).toNat
      retire i (← get).pfx

/-- `ddx` and `ddx.fine` (R395). -/
def execDdx (p : PReg) (d a : XReg) (f l : Bool) (s : State) : Host.Outcome State Fault Refusal :=
  runArrive (.ddx p d a f l) (derivBody (.ddx p d a f l) false f d a) s
/-- `ddy` and `ddy.fine` (R395). -/
def execDdy (p : PReg) (d a : XReg) (f l : Bool) (s : State) : Host.Outcome State Fault Refusal :=
  runArrive (.ddy p d a f l) (derivBody (.ddy p d a f l) true f d a) s

/-- A trap with the step of a macro instruction (R224). -/
def Stop.atStep (r : Stop) (k : Nat) : Stop :=
  match r with
  | .trap r => .trap { r with step := k }
  | r => r

/-- One step of DOTP4: the chain over elements 0 to k (R377). -/
def dotp4Step (d a b : XReg) (k : Nat) : Op Unit := do
  let ftz ← curFtz
  let fm : Num.FMods := { ftz := ftz }
  let x ← readX a.val
  let y ← readX b.val
  let r0 := Num.fmul Num.fp32 fm x.toNat y.toNat
  let mut t := r0.1
  let mut fl := r0.2
  for i in (List.range k).map (· + 1) do
    let x ← readX (a.val + i)
    let y ← readX (b.val + i)
    let r := Num.ffma Num.fp32 fm x.toNat y.toNat t
    t := r.1
    fl := fl ||| r.2
  writeX d.val (w32 t)
  setFlags fl

/-- The steps of DOTP4 from a step on; a stop keeps the steps made and leaves MSTEP at its own (R224, R378). -/
def dotp4From (d a b : XReg) : Nat → Nat → Op Unit
  | 0, _ => pure ()
  | n + 1, k => fun s =>
    match dotp4Step d a b k s with
    | .error r => .error (.keep (s.updThread s.cur fun t => t.setProgress (mstepWord 3 k)) (r.atStep k))
    | .ok (_, s') => dotp4From d a b n (k + 1) s'

/-- `dotp4 xD, xA, xB` (R377, R378). -/
def execDotp4 (p : PReg) (d a b : XReg) (l : Bool) (s : State) : Host.Outcome State Fault Refusal :=
  runThread (.dotp4 p d a b l) (do
    let t := s.curThread
    let k := if t.progress.msb then min 4 (t.progress.toNat % 65536) else 0
    dotp4From d a b (4 - k) k
    retire (.dotp4 p d a b l) s.pfx) s

-- QUOTA (R93 to R95, R444)

/-- Whether any thread of a gang lives (R444). -/
def Team.gangLive (tm : Team) (g : Nat) : Bool := tm.threads.any fun t => tm.gangNo t.tid == g && t.status != .ended
/-- The words of the pool in use by gangs other than g: an ended gang counts none (R93, R444). -/
def Team.usedBy (tm : Team) (g : Nat) : Nat :=
  ((List.range tm.gangs.length).map fun j => if j != g && tm.gangLive j then (tm.gang j).quota * tm.width else 0).sum
/-- The pool (R93). -/
def Team.pool (tm : Team) : Nat := tm.gangs.length * tm.quota0 * tm.width
/-- Bytes of a register block (R89). -/
def blockBytes (quota width : Nat) : Nat := (quota * width * 4 + 255) / 256 * 256

/-- A free interval of a slice for `n` bytes, lowest first, beside the regions other than `skip` (R147). -/
def freeOffset (rs : List Region) (slice n : Nat) : Option Nat :=
  ((List.range (slice / 256)).map (· * 256)).find? fun o =>
    o + n ≤ slice && rs.all fun r => o + n ≤ r.base || r.base + r.size ≤ o
/-- Bytes of the regions of a slice. -/
def regionBytes (rs : List Region) : Nat := (rs.map (·.size)).sum

/-- The registers of a thread whose backing a change from Q to n alters: kept values lost, or backing gained (R95). -/
def Thread.requota (t : Thread) (lo hi : Nat) : Thread :=
  (List.range (hi - lo)).foldl (fun t i => t.setCell (lo + i) { t.cell (lo + i) with stored := false, dead := true }) t

/-- The slots of a thread that back no register and lose their contents (R91): those beyond a block's bytes, or all of them in a block
that has moved. -/
def Thread.dropSlots (t : Thread) (quota width size : Nat) (moved : Bool) : Thread :=
  { t with x := Vector.ofFn fun i =>
      let c := t.cell i.val
      let unbacked := decide (quota ≤ i.val) || t.status == .ended
      if unbacked && (moved || decide (size ≤ 4 * (i.val * width + t.tid % width))) then { c with val := 0 } else c }

/-- The bytes of a slice that the register pools of its teams keep beside their blocks (R93, R94). -/
def poolReserve (ts : List Team) : Nat :=
  (ts.map fun tm => tm.gangs.length * blockBytes tm.quota0 tm.width - (tm.gangs.map fun g => blockBytes g.quota tm.width).sum).sum
/-- Whether a team holds resources of a core. -/
def Team.onCore (t : Team) (die core : Nat) : Bool :=
  t.die == die && t.core == core && t.prologue.isNone && (match t.status with | .resident | .leaving _ | .entering => true | .out | .ended => false)

/-- The regions of a slice with its register blocks laid anew beside those that stay where they are (R94); none when they find no place. -/
def packBlocks (slice : Nat) : List Region → List Region → Option (List Region)
  | [], fixed => some fixed
  | r :: rs, fixed => (freeOffset fixed slice r.size).bind fun o => packBlocks slice rs ({ r with base := o } :: fixed)

/-- The regions of a slice in which a block has a new size (R94): in place, else in a free interval, else with the register blocks of the
slice moved together, where the blocks of the team's ended gangs give way. -/
def placeBlock (tm : Team) (slice old : Nat) (me : Region) (rest : List Region) : Option (List Region) :=
  if old + me.size ≤ slice && rest.all fun r => old + me.size ≤ r.base || r.base + r.size ≤ old then some ({ me with base := old } :: rest)
  else match freeOffset rest slice me.size with
    | some o => some ({ me with base := o } :: rest)
    | none =>
      let block (r : Region) : Bool := match r.kind with | .block .. => true | _ => false
      let spare (r : Region) : Bool := match r.kind with | .block u g => u == tm.uid && !tm.gangLive g | _ => false
      packBlocks slice (me :: rest.filter fun r => block r && !spare r) (rest.filter fun r => !block r)

/-- The regions of a core replaced: a gang whose block has moved gets its new base, and the words of the block that back no register are
zero (R89, R91). -/
def State.layOut (s : State) (die core : Nat) (rs : List Region) : State :=
  let s := s.setRegions die core rs
  { s with teams := s.teams.map fun tm =>
      if !tm.onCore die core then tm
      else
        let at' (g : Nat) : Nat := ((rs.find? fun r => r.kind == .block tm.uid g).map (·.base)).getD (tm.gang g).base
        { tm with
          gangs := (tm.gangs.zip (List.range tm.gangs.length)).map fun (gg, g) =>
            if at' g == gg.base then gg else { gg with base := at' g, alloc := gg.quota, pad := [] }
          threads := tm.threads.map fun t =>
            let g := tm.gangNo t.tid
            if at' g == (tm.gang g).base then t else t.dropSlots (tm.gang g).quota tm.width 0 true } }

/-- The gang's quota becomes n: its block resized, moved when it must be, its threads' registers given or losing backing (R94, R95);
none while the slice has no room for it. -/
def State.applyQuota (s : State) (uid g n : Nat) : Option State :=
  let tm := s.team uid
  let cs := s.core tm.die tm.core
  let slice := Config.sliceBytes (isDie tm.die)
  let Q := (tm.gang g).quota
  let kind : RegionKind := .block uid g
  let size := blockBytes n tm.width
  let rest := cs.regions.filter (·.kind != kind)
  let old := (tm.gang g).base
  let others := s.teams.filter fun t => t.uid != uid && t.onCore tm.die tm.core
  if n > Q && slice < regionBytes rest + size + poolReserve others + 65536 then none
  else (placeBlock tm slice old { kind := kind, base := old, size := size, ctx := tm.ctx } rest).map fun rs =>
    let s := s.layOut tm.die tm.core rs
    s.updTeam uid fun tm =>
      let tm := tm.updGang g fun gg =>
        { gg with quota := n, alloc := if Q < n then max gg.alloc n else max gg.alloc Q, pad := gg.pad.filter (4 * ·.1 < size) }
      { tm with threads := tm.threads.map fun t =>
          if tm.gangNo t.tid != g then t
          else
            let t := t.dropSlots (min n Q) tm.width size false
            if t.status != .ended then t.requota (min n Q) (max n Q) else t }

/-- A waiting growth at the head of the team's requests, served when the pool has room (R94): every thread of the gang gets its
result. -/
def State.serveQuota (s : State) (uid : Nat) (want : Nat → Nat) : Option State :=
  let tm := s.team uid
  match tm.quotaQ with
  | [] => none
  | g :: rest =>
    let n := want g
    if n * tm.width ≤ tm.pool - tm.usedBy g then
      (s.applyQuota uid g n).map fun s => s.updTeam uid fun tm =>
        { tm with quotaQ := rest, threads := tm.threads.map fun t =>
            if tm.gangNo t.tid == g && !t.gone then { t with reply := some [] } else t }
    else none

/-- The quota a waiting gang asks for: what its waiting threads brought (R94). -/
def quotaWanted (tm : Team) (g : Nat) : Nat :=
  ((tm.threads.filterMap fun t => if tm.gangNo t.tid == g then
      match t.status with | .blocked (.coll false _ vs) => vs[0]?.map (·.toNat) | _ => none else none).head?).getD 0

/-- Untagged registers from n up whose loss of backing is handled as an overwrite (R95). -/
def losing (t : Thread) (n Q : Nat) : List Nat := ((List.range (Q - n)).map (n + ·)).filter fun r => (t.cell r).tag == 0

/-- The dependents of the registers that lose backing settled for threads of a gang in turn; else the first that stops, with its thread
(R95, R100). -/
def settleGang (n Q : Nat) : List ThreadId → State → Except (ThreadId × Stop) State
  | [], s => .ok s
  | id :: rest, s =>
    match asThread id (settleDependents (losing (s.thread id) n Q)) s with
    | .ok (_, s') => settleGang n Q rest s'
    | .error r => .error (id, r)
/-- A stop taken for another thread than the issuing one. -/
def State.stopAs (s : State) (id : ThreadId) (r : Stop) : State :=
  let as' (s : State) : State := { s with issue := s.issue.map fun i => { i with todo := id :: i.todo } }
  match r with
  | .keep s' r => (as' s').onStop r
  | r => (as' s).onStop r
/-- Whether an operation would stop, with nothing changed. -/
def dryRun (op : Op Unit) : Op Unit := fun s =>
  match op s with
  | .ok _ => .ok ((), s)
  | .error (.keep _ r) => .error r
  | .error r => .error r

/-- QUOTA once its gang is assembled, or again while it waits (R94). A replay that the loss of backing needs is tried at the arrival, and made
for every thread when the gang is assembled; a thread that stops there arrives anew. -/
def quotaBody (i : Instr) (n : Nat) : Op Unit := do
  let s ← get
  let t := s.curThread
  if t.inHandler then illegal 0
  match t.reply with
  | some _ => retire i none
  | none =>
    let g := s.curTeam.gangNo t.tid
    let Q := (s.curTeam.gang g).quota
    if n < Q then dryRun (settleDependents (losing t n Q))
    let s ← get
    let tm := s.curTeam
    let others := peers tm t.tid false
    let arrived := others.filterMap (·.arrivedAt false t.pc)
    if arrived.length != others.length then
      if others.all (·.atGangColl) then
        let s' := s.trapAll s.cur.1 (others.map (·.tid)) { cause := causeIllegal, code := codeCollSplit }
        stop (.keep s' (.trap { cause := causeIllegal, code := codeCollSplit }))
      else stopKeep (.block (.coll false true [w32 n]))
    else
      let grantAll (s : State) : State := s.updTeam s.cur.1 fun tm =>
        { tm with threads := tm.threads.map fun o => if tm.gangNo o.tid == g && !o.gone then { o with reply := some [] } else o }
      if tm.pool - (tm.gangs.length - 1) * tm.width < n * tm.width then
        let s' := s.trapAll s.cur.1 (others.map (·.tid)) { cause := causeIllegal, code := codeQuotaRange }
        stop (.keep s' (.trap { cause := causeIllegal, code := codeQuotaRange }))
      else if n ≤ Q then
        match settleGang n Q (s.cur :: others.map fun o => (s.cur.1, o.tid)) s with
        | .error (id, r) =>
          if id == s.cur then stop r else stop (.keep (s.stopAs id r) (.block (.coll false true [w32 n])))
        | .ok s =>
          match s.applyQuota s.cur.1 g n with
          | some s' => do
            set (grantAll s')
            retire i none
          | none => stop (.block (.coll false true [w32 n]))
      else
        let tm' := if tm.quotaQ.contains g then tm else { tm with quotaQ := tm.quotaQ ++ [g] }
        let s := s.updTeam s.cur.1 fun _ => tm'
        match s.serveQuota s.cur.1 (fun j => if j == g then n else quotaWanted tm' j) with
        | some s' =>
          if (s'.curThread.reply).isSome then do
            set s'
            retire i none
          else stop (.keep s' (.block (.coll false true [w32 n])))
        | none =>
          let live := (List.range tm.gangs.length).filter tm.gangLive
          if live.all tm'.quotaQ.contains then
            let waiting := (tm.threads.filter fun o => o.tid != t.tid && !o.gone).map (·.tid)
            let s' := (s.trapAll s.cur.1 waiting { cause := causeIllegal, code := codeQuotaDead }).updTeam s.cur.1 fun tm =>
              { tm with quotaQ := [] }
            stop (.keep s' (.trap { cause := causeIllegal, code := codeQuotaDead }))
          else stop (.keep s (.block (.coll false true [w32 n])))

/-- `quota n+1` (R94). -/
def execQuota (n : Fin 64) (s : State) : Host.Outcome State Fault Refusal :=
  runArrive (.quota n) (fun _ => quotaBody (.quota n) (n.val + 1)) s

end Sys2Proof.Machine
end

