-- ==== Sys2Proof/Machine/Eng.lean ====
section
/-! DEFINITION. What every engine shares: accesses made as an engine's own agent through its context's tables, with the hold and the
error path of R213; operation numbers and timelines (R205, R196); tags (R207, R197); cohort ranks (R43). -/
namespace Sys2Proof.Machine

/-- The error kinds of a timeline's status word (R205). -/
def kindDescbad : Nat := 1
def kindXlate : Nat := 2
def kindAccess : Nat := 3
def kindPoison : Nat := 4
def kindReceiver : Nat := 5
def kindPeermask : Nat := 6

/-- Why an engine's access stops its operation. -/
inductive EngStop where
  /-- Held for a translation (R213). -/
  | hold (va : Nat) (kind : AccKind) (reason : Nat)
  /-- The operation waits: for a snoop's answer, or for room in the commit buffer. -/
  | wait (s : State)
  /-- The access fails, with a KIND of R205 and an info code. -/
  | fail (kind code : Nat)

/-- An operation of an engine. -/
abbrev Eng (α : Type) := StateT State (Except EngStop) α

/-- Who an engine's access acts for: die, core (0xFFFF for the front end), context number, and its operation. -/
structure Master where
  die : Nat
  core : Nat
  ctx : Nat
  op : Nat
  deriving DecidableEq, Repr

def engFail {α : Type} (kind code : Nat) : Eng α := fun _ => .error (.fail kind code)

/-- The location of an engine's access (R143, R175, R213): register blocks are refused (R90, R212); a misaligned element is refused as
the target would refuse it. -/
def engLoc (m : Master) (va n : Nat) (kind : AccKind) (typed : Bool) : Eng Loc := do
  let s ← get
  if va % n != 0 then engFail kindAccess 0
  if inWindow va then
    match s.window m.die m.ctx va with
    | .error (.trap _ code) => engFail kindAccess code
    | .error (.park _) => engFail kindAccess 0
    | .ok (core, off, r) =>
      match r.kind with
      | .block .. => engFail kindAccess codeWindowKind
      | _ => if typed then engFail kindAccess codeFormatBad else return { key := commonsKey m.die core off, home := 4 }
  else
    match s.locate m.die m.core ((s.ctx? m.die m.ctx).getD { die := m.die, num := m.ctx, root := 0 }) 0 va n kind typed with
    | (.error (.trap cause code), _) => engFail (if cause == causeXlate then kindXlate else kindAccess) code
    | (.error (.park r), _) => fun _ => .error (.hold va kind r)
    | (.ok l, s') => do
      set s'
      return l

/-- Directory service of an engine, a non-caching requester: as the home die (R168). Whether the owner is lost. -/
def engDir (m : Master) (l : Loc) (excl ret : Bool) : Eng Bool := do
  match (← get).dirReq l l.home excl ret (0, m.op) with
  | (.go, s) => set s; return false
  | (.lost, s) => set s; return true
  | (.wait, s) => fun _ => .error (.wait s)

/-- The bytes an engine reads at its location; poison and a lost owner fail it (R213, R474). -/
def engRead (m : Master) (l : Loc) (n : Nat) : Eng (List Byte) := do
  let lost ← engDir m l false true
  if lost then engFail kindPoison codeOwnerLost
  let s ← get
  if s.poisoned l.key n then engFail kindPoison codeUncorrectable
  return match s.ctx? m.die m.ctx with
    | some c => c.overlay l.key n (s.homeBytes l.key n)
    | none => s.homeBytes l.key n

/-- An outside effect of an engine, held; with no room it waits for a checkpoint, taken at once (R305). -/
def engHold (m : Master) (h : HeldWrite) : Eng Unit := do
  let s ← get
  match s.ctx? m.die m.ctx with
  | none => pure ()
  | some c =>
    if !c.holds h then
      fun _ => .error (.wait (s.updCtx m.die m.ctx fun c => { c with ckptWanted := true }))
    else set (s.updCtx m.die m.ctx fun c => { c with held := c.held ++ [h] })

/-- Whether an engine's write is an outside effect (R305). -/
def engOutside (s : State) (m : Master) (l : Loc) : Bool :=
  match s.ctx? m.die m.ctx with | some c => c.outside m.die l | none => false

/-- Bytes an engine writes at its location; a lost owner discards them (R170, R474). -/
def engWrite (m : Master) (l : Loc) (bs : List Byte) : Eng Unit := do
  if engOutside (← get) m l then engHold m { key := l.key, data := bs }
  else
    let lost ← engDir m l true false
    if !lost then modify fun s => (s.putHome l.key bs).dropCopies m.die m.core l.key bs.length

/-- A read of an engine by address. -/
def engLoad (m : Master) (va n : Nat) : Eng (List Byte) := do
  let l ← engLoc m va n .read false
  engRead m l n
/-- A write of an engine by address. -/
def engStore (m : Master) (va : Nat) (bs : List Byte) : Eng Unit := do
  let l ← engLoc m va bs.length .write false
  engWrite m l bs

/-- A read of n bytes in aligned pieces of `c` bytes. -/
def engLoadBlocks (m : Master) (c : Nat) : Nat → Nat → Eng (List Byte)
  | 0, _ => return []
  | n + 1, va => do
    let bs ← engLoad m va c
    let r ← engLoadBlocks m c n (va + c)
    return bs ++ r

/-- The fault record of an engine's miss: its pc, its core number, a count of 1 (R213, R480). -/
def State.engineFault (s : State) (m : Master) (pc : DWord) (va : Nat) (kind : AccKind) (reason : Nat) : State :=
  s.updDie m.die fun d =>
    { d with faults := d.faults ++ [{ va := va, pc := pc, time := s.dieTime m.die, ctx := m.ctx, core := m.core, kind := kind,
                                      reason := reason, count := 1 }] }

/-- Whether a fault record stands for a page of a context. -/
def State.faultOn (s : State) (die ctx page : Nat) : Bool :=
  match s.die? die with | some d => d.faults.any fun f => f.ctx == ctx && f.va / 8192 == page | none => false

-- operation numbers and timelines (R205)

/-- An engine context of a team. -/
def Team.ectxAt (t : Team) (e : Nat) : ECtx := t.ectx[e]?.getD {}

/-- The engine that makes a timeline's write. -/
def TlWrite.master (w : TlWrite) : Master := ⟨w.die, w.core, w.ctx, w.op⟩
/-- The write itself (R205): the status word of an errored operation while that word is 0, or max(old value, k); or a word as it is. -/
def TlWrite.act (w : TlWrite) : Eng Unit := do
  match w.word, w.err with
  | some v, _ => engStore w.master w.tl (bytesLE 8 v)
  | none, some (op, kind) =>
    let st ← engLoad w.master (w.tl + 8) 8
    if natLE st == 0 then engStore w.master (w.tl + 8) (bytesLE 8 (op % 2 ^ 32 * 2 ^ 32 + kind))
  | none, none =>
    let v ← engLoad w.master w.tl 8
    if natLE v < w.k then engStore w.master w.tl (bytesLE 8 w.k)
/-- A timeline's write tried (R213): a miss writes its fault record and holds it, and one that waits is tried again. A timeline that its context
may not write stays as it is. -/
def State.tlTry (s : State) (w : TlWrite) : State :=
  let rest := s.tlWrites.filter (·.op != w.op)
  match w.act s with
  | .ok (_, s) => { s with tlWrites := rest }
  | .error (.hold va k r) => { s.engineFault w.master 0 va k r with tlWrites := rest ++ [{ w with held := some va }] }
  | .error (.wait s) => { s with tlWrites := rest ++ [{ w with held := none }] }
  | .error (.fail _ _) => { s with tlWrites := rest }
/-- A write of a timeline, with an operation name of its own. -/
def State.timelineWrite (s : State) (m : Master) (tl k : Nat) (err : Option (Nat × Nat)) : State :=
  ({ s with nextId := s.nextId + 1 } : State).tlTry { op := s.nextId, die := m.die, core := m.core, ctx := m.ctx, tl := tl, k := k, err := err }

/-- A word of 8 bytes stored by an engine, tried until it is (R213, R301). -/
def State.wordWrite (s : State) (m : Master) (va v : Nat) : State :=
  ({ s with nextId := s.nextId + 1 } : State).tlTry { op := s.nextId, die := m.die, core := m.core, ctx := m.ctx, tl := va, word := some v }

/-- The completed operations at the head of a context's list taken off: the highest, and the rest. -/
def dropDone (mine : OpOut → Bool) : List OpOut → Option Nat × List OpOut
  | [] => (none, [])
  | o :: os =>
    if mine o then
      if o.done then let (k, r) := dropDone mine os; (some (k.getD o.k), r)
      else (none, o :: os)
    else let (k, r) := dropDone mine os; (k, o :: r)

/-- Operation k of an engine context has completed: the timeline advances to the highest number at or below which every operation has
completed, and an error enters the status word (R196, R205). -/
def State.completeOp (s : State) (m : Master) (team : Option Nat) (ectx k : Nat) (err : Nat) : State :=
  let mine (o : OpOut) : Bool := o.team == team && o.die == m.die && o.ectx == ectx && (team.isSome || o.ctx == m.ctx)
  match s.ops.find? (fun o => mine o && o.k == k) with
  | none => s
  | some o =>
    let ops := s.ops.map fun o => if mine o && o.k == k then { o with done := true } else o
    let (top, rest) := dropDone mine ops
    let s := { s with ops := rest }
    let s := if err == 0 then s else s.timelineWrite m o.tl 0 (some (k, err))
    match top with
    | some n => s.timelineWrite m o.tl n none
    | none => s

/-- A number taken from an engine context of a team: none when it is untracked (R205). -/
def State.takeNumber (s : State) (uid e : Nat) : Option Nat × State :=
  let tm := s.team uid
  let ec := tm.ectxAt e
  if ec.tl == 0 then (none, s)
  else
    let k := ec.next.toNat
    let s := s.updTeam uid fun tm => { tm with ectx := tm.ectx.setIfInBounds e { ec with next := ec.next + 1 } }
    (some k, { s with ops := s.ops ++ [{ team := some uid, die := tm.die, ctx := tm.ctx, ectx := e, k := k, tl := ec.tl, scope := ec.scope }] })

-- tags (R207)

/-- A copy issued into a team: its tag's bit cleared, its count raised. -/
def Team.tagIssue (t : Team) (tag : Nat) : Team :=
  { t with tags := t.tags &&& ~~~(BitVec.twoPow 64 tag)
           tagCount := t.tagCount.setIfInBounds tag ((t.tagCount[tag]?.getD 0) + 1) }
/-- The lowest set bit of a mask. -/
def lowestBit (m : DWord) : Nat := ((List.range 64).find? (m.getLsbD ·)).getD 0
/-- What a WTAG answers at a moment: none while its condition does not hold, 0 to return, n + 1 for COPYERR on tag n (R207, R411). -/
def Team.wtagResult (t : Team) (any : Bool) (m : DWord) : Option Word :=
  if (if any then m == 0 || t.tags &&& m != 0 else t.tags &&& m == m) then
    some (if t.tagErr &&& m != 0 then w32 (lowestBit (t.tagErr &&& m) + 1) else 0)
  else none
/-- The threads blocked in WTAG whose condition holds at this moment get their answer (R411). -/
def Team.wakeTags (t : Team) : Team :=
  { t with threads := t.threads.map fun th =>
      match th.status, th.reply with
      | .blocked (.wtag any m), none => { th with reply := (t.wtagResult any (BitVec.ofNat 64 m)).map fun r => [r] }
      | _, _ => th }
/-- A copy completed into a team: the count lowered, the bit set at 0, TAGERR set by an error. -/
def Team.tagDone (t : Team) (tag : Nat) (err : Bool) : Team :=
  let c := (t.tagCount[tag]?.getD 0) - 1
  Team.wakeTags { t with
           tagCount := t.tagCount.setIfInBounds tag c
           tags := if c == 0 then t.tags ||| BitVec.twoPow 64 tag else t.tags
           tagErr := if err then t.tagErr ||| BitVec.twoPow 64 tag else t.tagErr }

/-- The cohort size of a grid: 1 when it declares none (R43). -/
def Grid.cohortSize (g : Grid) : Nat := max g.lrec.cohort 1
/-- A team's cohort rank (R43). -/
def State.rankOfTeam (s : State) (t : Team) : Nat := t.num % (s.gridOf t).cohortSize
/-- The member of a team's cohort with a rank (R43). -/
def State.cohortTeam (s : State) (t : Team) (r : Nat) : Option Team :=
  let n := (s.gridOf t).cohortSize
  s.teams.find? fun o => o.grid == t.grid && o.die == t.die && o.num == t.num / n * n + r && r < n && o.prologue.isNone

/-- The scratchpad address of a team: 0 with none, or when the team has ended (R148). -/
def Team.scrVa (t : Team) : Nat :=
  if t.scrSize == 0 || t.status == .ended then 0 else windowVa t.core t.scrBase

end Sys2Proof.Machine
end

