-- ==== Sys2Proof/Machine/Queue.lean ====
section
/-! DEFINITION. How the front end of a die reaches memory for a queue, and how a command ends: its status word, its interrupt, and the
queue's completion timeline (R65, R66, R68, R480). -/
namespace Sys2Proof.Machine

/-- The front end acting for a context: an access with core number 0xFFFF (R480). -/
def feMaster (die ctx : Nat) : Master := ⟨die, 0xFFFF, ctx, 0⟩

/-- A timeline raised to a value; it never moves back (R65, R205). -/
def engTimeline (m : Master) (tl v : Nat) : Eng Unit := do
  let old ← engLoad m tl 8
  if natLE old < v then engStore m tl (bytesLE 8 v)

/-- A command of a queue changed. -/
def Queue.updCmd (q : Queue) (idx : Nat) (f : Cmd → Cmd) : Queue :=
  { q with cmds := q.cmds.map fun c => if c.idx == idx then f c else c }
def Queue.cmd? (q : Queue) (idx : Nat) : Option Cmd := q.cmds.find? (·.idx == idx)
def State.setCmd (s : State) (uid idx : Nat) (st : CmdState) : State :=
  s.updQueue uid fun q => q.updCmd idx fun c => { c with st := some st }
/-- Whether a command slot's IRQ flag is set (R62). -/
def Cmd.irq (c : Cmd) : Bool := natLE ((c.slot.drop 1).take 1) / 2 % 2 == 1

/-- The completion timeline advances over the completed commands at the queue's head (R66): the commands left, the count, and how the
write ended. -/
def advanceTimeline (m : Master) (q : Queue) : List Cmd → Nat → State → Queue × State
  | [], n, s => ({ q with cmds := [], completed := n }, s)
  | c :: cs, n, s =>
    if c.st == some .done then
      match engTimeline m q.ctl (n + 1) s with
      | .ok (_, s') => advanceTimeline m q cs (n + 1) s'
      | .error (.hold va k r) => ({ q with cmds := c :: cs, completed := n, tlHeld := some va }, s.engineFault m 0 va k r)
      | .error (.wait s') => ({ q with cmds := c :: cs, completed := n, tlHeld := some q.ctl }, s')
      | .error (.fail _ _) => ({ q with cmds := c :: cs, completed := n, stopped := q.stopped <|> some errBody }, s)
    else ({ q with cmds := c :: cs, completed := n }, s)

/-- The completion timeline of a queue brought up to date; a failure to write it stops the queue at that command (R66, R480). -/
def State.settleQueue (s : State) (uid : Nat) : State :=
  match s.queue? uid with
  | none => s
  | some q =>
    let (q', s) := advanceTimeline (feMaster q.die q.ctx) { q with tlHeld := none } q.cmds q.completed s
    let s := s.updQueue uid fun _ => q'
    if q.stopped.isNone && q'.stopped.isSome then
      match q'.cmds.head? with
      | some c => s.queueError uid c.idx errBody
      | none => s
    else s

/-- A queue's vector raised by a completion: an MSI-X write is an outside effect of a checkpointed context, held until its commit (R305). -/
def State.raiseQueue (s : State) (q : Queue) : State := s.raiseCtx q.die q.ctx q.vector

/-- A finishing command writes its status word, raises its vector, and is done (R66, R68). -/
def State.finishStep (s : State) (uid idx : Nat) : State :=
  match s.queue? uid with
  | none => s
  | some q =>
    match q.cmd? idx with
    | some { st := some (.finishing status _), slot, .. } =>
      let m := feMaster q.die q.ctx
      let act : Eng Unit := match status with
        | some c => engStore m q.statusAddr (bytesLE 8 (idx % 2 ^ 32 + c * 2 ^ 32))
        | none => pure ()
      match act s with
      | .ok (_, s) =>
        let s := if status.isSome || (Cmd.mk idx slot none).irq then s.raiseQueue q else s
        (s.setCmd uid idx .done).settleQueue uid
      | .error (.hold va k r) => (s.setCmd uid idx (.finishing status (some va))).engineFault m 0 va k r
      | .error (.wait s') => s'.setCmd uid idx (.finishing status (some q.statusAddr))
      | .error (.fail _ _) => s.queueError uid idx errBody
    | _ => s

/-- A command completes, with a status code for the status word when it has one (R66, R68, R301): the code and, above it, the queue
number of R301. -/
def State.finishCmd (s : State) (uid idx : Nat) (status : Option Nat) : State :=
  (s.setCmd uid idx (.finishing status none)).finishStep uid idx

end Sys2Proof.Machine
end

