-- ==== Sys2Proof/Machine/Copy.lean ====
section
/-! DEFINITION. The copy engine (R208 to R214, R151, R212), the tags (R207, R410, R411), and timelines as threads see them (R461 to
R463). -/
namespace Sys2Proof.Machine

/-- A dimension record (R209). -/
structure CopyDim where
  ext : Nat
  bound : Nat
  origin : Int
  sstr : Int
  dstr : Int
  deriving DecidableEq, Repr

/-- A copy descriptor (R209). -/
structure CopyDesc where
  sbase : Nat
  dbase : Nat
  tl : Nat
  esz : Nat
  sfmt : Nat
  dfmt : Nat
  n : Nat
  rop : Nat
  drot : Nat
  srot : Nat
  fill : Bool
  pat : Nat
  mask : Nat
  dims : List CopyDim
  /-- Every reserved byte is zero, and so are the unused dimension records. -/
  clean : Bool
  deriving DecidableEq, Repr

/-- n little-endian bytes of a list at an offset. -/
def natAt (bs : List Byte) (o n : Nat) : Nat := natLE ((bs.drop o).take n)
/-- The same, signed. -/
def intAt (bs : List Byte) (o n : Nat) : Int := signedField (natAt bs o n) (8 * n)
/-- Whether the bytes of a range are zero. -/
def zeroAt (bs : List Byte) (o n : Nat) : Bool := ((bs.drop o).take n).all (· == 0)

/-- The descriptor of 256 bytes (R209). -/
def CopyDesc.parse (bs : List Byte) : CopyDesc :=
  let n := natAt bs 27 1
  { sbase := natAt bs 0 8, dbase := natAt bs 8 8, tl := natAt bs 16 8, esz := natAt bs 24 1, sfmt := natAt bs 25 1
    dfmt := natAt bs 26 1, n := n, rop := natAt bs 28 1, drot := natAt bs 29 1 / 16, srot := natAt bs 29 1 % 16
    fill := natAt bs 30 1 % 2 == 1, pat := natAt bs 32 4, mask := natAt bs 36 2
    dims := (List.range (min n 10)).map fun d =>
      let o := 48 + 20 * d
      { ext := natAt bs o 4, bound := natAt bs (o + 4) 4, origin := intAt bs (o + 8) 4, sstr := intAt bs (o + 12) 4
        dstr := intAt bs (o + 16) 4 }
    clean := natAt bs 30 1 ≤ 1 && zeroAt bs 31 1 && zeroAt bs 38 10 && zeroAt bs 248 8
      && zeroAt bs (48 + 20 * min n 10) (200 - 20 * min n 10) }

/-- The amount of a rotation code, in words (R151). -/
def rotAmount (code : Nat) : Nat := [0, 1, 2, 3, 4, 5, 6, 7, 8, 12, 16, 20, 24, 32, 40, 44][code]?.getD 0

/-- The address unit of a side: 1 on a typed side, else the element size (R211). -/
def sideUnit (mode fmt esz : Nat) : Nat := if mode == 1 && fmt != 0 then 1 else 2 ^ esz

/-- Whether a rotation code suits its side (R210, R211): the commons, whole words of pitch, and elements that keep their words
consecutive. -/
def rotOk (code base unit esz : Nat) (str1 : Int) : Bool :=
  code == 0 || (inWindow base && (str1 * unit) % 4 == 0
    && (esz < 3 || ((rotAmount code : Int) % (2 ^ (esz - 2) : Nat) == 0 && (str1 * unit / 4) % (2 ^ (esz - 2) : Nat) == 0)))

/-- The elements of a walk (R210). -/
def CopyDesc.count (cd : CopyDesc) : Nat := (cd.dims.map (·.ext)).foldl (· * ·) 1

/-- The limits of R209, R210 and R212 that the descriptor itself decides. -/
def CopyDesc.ok (cd : CopyDesc) (mode : Nat) (mask : Option Nat) (tl : Nat) : Bool :=
  let su := sideUnit mode cd.sfmt cd.esz
  let du := sideUnit mode cd.dfmt cd.esz
  let str1 (f : CopyDim → Int) : Int := ((cd.dims.drop 1).head?.map f).getD 0
  cd.clean && cd.esz ≤ 4 && cd.sfmt < 14 && cd.dfmt < 14 && 1 ≤ cd.n && cd.n ≤ 10 && cd.dims.all (1 ≤ ·.ext)
    && cd.count ≤ 2 ^ 40 && (cd.tl == 0 || cd.tl == tl)
    && (match mode with
      | 1 => (cd.sfmt != 0 || cd.dfmt != 0) && cd.esz == 2 && cd.rop == 0
      | 2 => cd.sfmt == 0 && cd.dfmt == 0 && (cd.rop ≤ 7 || (10 ≤ cd.rop && cd.rop ≤ 16))
          && (cd.esz == 2 || (cd.esz == 3 && cd.rop < 12))
      | 3 => cd.sfmt == cd.dfmt && cd.rop == 0 && mask.isSome
      | _ => cd.sfmt == cd.dfmt && cd.rop == 0)
    && rotOk cd.srot cd.sbase su cd.esz (str1 (·.sstr))
    && (if mode == 3 then rotOk cd.drot Config.commons du cd.esz (str1 (·.dstr)) else rotOk cd.drot cd.dbase du cd.esz (str1 (·.dstr)))

/-- The indices of a walk index, dimension 0 innermost (R211). -/
def walkIndices : List CopyDim → Nat → List Nat
  | [], _ => []
  | d :: ds, w => w % d.ext :: walkIndices ds (w / d.ext)

/-- The address of an element on one side (R211, R151): base, element offset, coordinates with their strides, and the rotation. -/
def sideAddr (base : Nat) (ofs : Int) (terms : List (Int × Int)) (unit rot : Nat) : Nat :=
  let plain : Int := (ofs + (terms.map fun (c, st) => c * st).sum) * unit
  let pw : Int := match terms with | _ :: (_, st) :: _ => st * unit / 4 | _ => 0
  let rel : Int :=
    if rot == 0 || pw == 0 then plain
    else
      match terms with
      | (c0, s0) :: (j, _) :: _ =>
        let inner : Int := c0 * s0 * unit
        let k := inner / 4
        plain - inner - j * pw * 4 + 4 * (j * pw + (k + j * rotAmount rot) % (pw.natAbs : Int)) + inner % 4
      | _ => plain
  (((base : Int) + rel) % (2 ^ 64 : Nat)).toNat

/-- What the walk does at an index: the addresses, and whether the source lies out of bounds (R211). -/
structure WalkStep where
  out : Bool
  sa : Nat
  da : Nat
  deriving DecidableEq, Repr

/-- The step of a walk index; `dbase` is the destination base of the receiver. -/
def CopyDesc.stepAt (cd : CopyDesc) (mode : Nat) (so dof : Int) (dbase w : Nat) : WalkStep :=
  let idx := walkIndices cd.dims w
  let cs : List Int := (cd.dims.zip idx).map fun (d, i) => d.origin + i
  { out := (cd.dims.zip cs).any fun (d, c) => d.bound != 0 && (c < 0 || (d.bound : Int) ≤ c)
    sa := sideAddr cd.sbase so (cs.zip (cd.dims.map (·.sstr))) (sideUnit mode cd.sfmt cd.esz) cd.srot
    da := sideAddr dbase dof ((idx.map fun (i : Nat) => (i : Int)).zip (cd.dims.map (·.dstr))) (sideUnit mode cd.dfmt cd.esz) cd.drot }

/-- The bytes of a fill (R211): the pattern's low bytes, repeated for 8 and 16. -/
def fillBytes (esz pat : Nat) : List Byte := ((List.range 4).flatMap fun _ => bytesLE 4 pat).take (2 ^ esz)

/-- The value of a typed source element as an engine reads it (R132, R213). -/
def engTyped (m : Master) (va fmt : Nat) : Eng Word := do
  let l ← engLoc m va 1 .read true
  if l.fmt / 8 != fmt then engFail kindAccess codeFormatBad
  for o in typedBytes fmt (l.fmt % 2 == 1) (va % 8192) do
    let _ ← engRead m { l with key := granuleKey l va + o } 1
  let s ← get
  return typedRead s ((s.ctx? m.die m.ctx).getD { die := m.die, num := m.ctx, root := 0 }) l va

/-- The source value of a conversion: FP32 bits, or none where nothing is converted (R211, R212). -/
def convValue (m : Master) (cd : CopyDesc) (st : WalkStep) : Eng (Option Nat) := do
  if st.out then return if cd.fill then some cd.pat else none
  else if cd.sfmt == 0 then return some (natLE (← engLoad m st.sa 4))
  else return some (← engTyped m st.sa cd.sfmt).toNat

/-- Element bits written into a granule, byte by byte (R132). -/
def engPutElem (m : Master) (l : Loc) (va code bits : Nat) : Eng Unit := do
  let g := granuleKey l va
  let s ← get
  let byte (o : Nat) : Nat := natLE (s.homeBytes (g + o) 1)
  for ((o, b), keepBits) in (Num.elemPut code byte (va % 8192) bits).zip (Num.elemPut code (fun _ => 255) (va % 8192) 0) do
    if engOutside s m l then engHold m { key := g + o, data := [BitVec.ofNat 8 b], mask := [BitVec.ofNat 8 (255 - keepBits.2)] }
    else engWrite m { l with key := g + o } [BitVec.ofNat 8 b]

/-- The elements of an encode run: block scales fixed by the values present, then each element present (R133, R134). -/
def encodeRun (m : Master) (code : Nat) (elems : List (Nat × Nat)) : Eng Unit := do
  match elems with
  | [] => return
  | (va0, _) :: _ =>
    let l0 ← engLoc m va0 1 .write true
    let col := l0.fmt % 2 == 1
    let k0 := va0 % 8192
    let blk := Num.blockOf col k0
    let g := granuleKey l0 va0
    if Num.isGbf code then
      let pos (va : Nat) : Nat :=
        let k := va % 8192
        Num.blockOf col k % 8 * 32 + (if col then k / 32 % 32 else k % 32)
      let vals := (List.range 256).map fun p =>
        match elems.find? (fun e => pos e.1 == p) with
        | some (_, v) => Num.decodeVal Num.fp32 v
        | none => .fin false 0 0
      let (G, hdrs, bits) := Num.gbfGroup code vals
      let b0 := blk / 8 * 8
      engWrite m { l0 with key := g + (Num.scaleAt code col b0).1 } [BitVec.ofNat 8 G]
      for (h, j) in hdrs.zip (List.range 8) do
        engWrite m { l0 with key := g + (Num.scaleAt code col (b0 + j)).2 } [BitVec.ofNat 8 h]
      for (va, _) in elems do
        let l ← engLoc m va 1 .write true
        engPutElem m l va code (bits[pos va]?.getD 0)
    else
      let (sa, bits) := Num.mxBlock code (elems.map fun e => Num.decodeVal Num.fp32 e.2)
      engWrite m { l0 with key := g + (Num.scaleAt code col blk).1 } [BitVec.ofNat 8 sa]
      for ((va, _), b) in elems.zip bits do
        let l ← engLoc m va 1 .write true
        engPutElem m l va code b

/-- The length of an encode run by destination format: a block, a group, or one element (R212). -/
def runLen (mode dfmt : Nat) : Nat :=
  if mode != 1 then 1 else if Num.isMx dfmt then 32 else if Num.isGbf dfmt then 256 else 1

/-- Whether each run of an encode covers exactly one block or group of its destination (R212). -/
def runsOk (m : Master) (cd : CopyDesc) (op : CopyOp) (run : Nat) : Nat → Nat → Eng Bool
  | 0, _ => return true
  | n + 1, w => do
    let das := (List.range run).map fun i => (cd.stepAt op.mode op.sofs op.dofs cd.dbase (w + i)).da
    let va0 := das.head?.getD 0
    let s ← get
    let col ← (match engLoc m va0 1 .write true s with
      | .ok (l, s') => do set s'; return some (l.fmt % 2 == 1)
      | .error (.fail ..) => return none
      | .error e => fun _ => .error e : Eng (Option Bool))
    match col with
    | none => runsOk m cd op run n (w + run)
    | some col =>
      let blk (va : Nat) : Nat × Nat := (va / 8192, Num.blockOf col (va % 8192) / (run / 32))
      if das.all (fun va => blk va == blk va0) && das.eraseDups.length == run then runsOk m cd op run n (w + run) else return false

/-- One element of a copy, a reduce or a multicast receiver. -/
def rawElem (m : Master) (s0 : State) (op : CopyOp) (cd : CopyDesc) (st : WalkStep) (src : List Byte) : Eng Unit := do
  let n := 2 ^ cd.esz
  if op.mode == 2 then
    let l ← engLoc m st.da n .atomic false
    if l.home == 3 && cd.rop != 0 then engFail kindAccess codeHostAtomic
    let s ← get
    let c := (s.ctx? m.die m.ctx).getD { die := m.die, num := m.ctx, root := 0 }
    let scope := match op.who with
      | some id => ((s0.team id.1).ectxAt op.ectx).scope
      | none => (c.ectx[op.ectx]?.getD {}).scope
    if engOutside s m l then engHold m { key := l.key, data := src, red := some (cd.rop, cd.esz == 3), scope := scope }
    else
      let lost ← engDir m l true false
      if !lost then
        let s ← get
        if s.poisoned l.key n then engFail kindPoison codeUncorrectable
        set ((s.applyAtom c l none n cd.rop 0 scope (natLE src) 0).2.dropCopies m.die m.core l.key n)
  else engStore m st.da src

/-- The members of a mask, in ascending rank. -/
def maskRanks (mask : Nat) : List Nat := (List.range 16).filter (flagAt mask ·)

/-- What stops a walk: a hold, a wait, or a failure at a walk index. -/
inductive WalkEnd where
  | done
  | hold (va : Nat) (kind : AccKind) (reason : Nat)
  | wait
  | fail (idx kind code : Nat)
  deriving DecidableEq, Repr

/-- One walk index of modes 0, 2 and 3: the receivers by their destination bases; a receiver that fails alone is left out from there on
(R211, R214). -/
def walkOne (m : Master) (op : CopyOp) (cd : CopyDesc) (bases : List (Nat × Nat)) (w : Nat) (failed : List Nat) :
    Eng (List (Nat × Nat)) := do
  let st0 := cd.stepAt op.mode op.sofs op.dofs cd.dbase w
  if st0.out && (op.mode == 2 || !cd.fill) then return []
  let src ← (if st0.out then pure (fillBytes cd.esz cd.pat) else engLoad m st0.sa (2 ^ cd.esz) : Eng (List Byte))
  let s0 ← get
  let mut bad : List (Nat × Nat) := []
  for (r, base) in bases do
    if !failed.contains r then
      let st := cd.stepAt op.mode op.sofs op.dofs base w
      let s ← get
      let tm := match s.teams.find? (·.uid == (op.receivers[r]?.getD 0)) with | some t => t | none => Team.blank
      if op.mode == 3 && op.bank == some (r, w) then bad := (r, codeUncorrectable) :: bad
      else if op.mode == 3 && !(tm.scrVa != 0 && tm.scrVa ≤ st.da && st.da + 2 ^ cd.esz ≤ tm.scrVa + tm.scrSize) then
        let code := match s.window m.die m.ctx st.da with | .error (.trap _ c) => c | _ => codeCrossCtx
        bad := (r, code) :: bad
      else rawElem m s0 op cd st src
  return bad

/-- The walk of modes 0, 2 and 3 (R211): where it stands and why it stopped, and the receivers that failed, with the record of each. -/
def walkRaw (m : Master) (op : CopyOp) (cd : CopyDesc) (bases : List (Nat × Nat)) :
    Nat → Nat → List Nat → State → Nat × List Nat × WalkEnd × State
  | 0, w, failed, s => (w, failed, .done, s)
  | n + 1, w, failed, s =>
    match walkOne m op cd bases w failed s with
    | .ok (bad, s') =>
      let s' := bad.foldl (fun s (r, code) => s.report m.die
        { kind := 7, ctx := m.ctx, code := code, a := op.pc.toNat, b := w, detail := [BitVec.ofNat 8 kindReceiver, BitVec.ofNat 8 ((maskRanks (op.mask.getD 0))[r]?.getD 0)] }) s'
      walkRaw m op cd bases n (w + 1) (failed ++ bad.map (·.1)) s'
    | .error (.hold va k r) => (w, failed, .hold va k r, s)
    | .error (.wait s') => (w, failed, .wait, s')
    | .error (.fail k c) => (w, failed, .fail w k c, s)

/-- The values of a conversion run, up to the first that fails. -/
def gatherRun (m : Master) (op : CopyOp) (cd : CopyDesc) : Nat → Nat → Eng (List (Nat × Nat) × Option (Nat × Nat × Nat))
  | 0, _ => return ([], none)
  | n + 1, w => fun s =>
    let st := cd.stepAt op.mode op.sofs op.dofs cd.dbase w
    match convValue m cd st s with
    | .error (.fail k c) => .ok (([], some (w, k, c)), s)
    | .error e => .error e
    | .ok (v, s') =>
      match gatherRun m op cd n (w + 1) s' with
      | .error e => .error e
      | .ok ((vs, f), s'') => .ok (((match v with | some v => (st.da, v) :: vs | none => vs), f), s'')

/-- One conversion run: a block or group, or one element (R212). -/
def convRun (m : Master) (op : CopyOp) (cd : CopyDesc) (run w : Nat) : Eng (Option (Nat × Nat × Nat)) := do
  let (elems, f) ← gatherRun m op cd run w
  if cd.dfmt == 0 then
    for (da, v) in elems do engStore m da (bytesLE 4 v)
  else
    for (da, _) in elems do
      let l ← engLoc m da 1 .write true
      if l.fmt / 8 != cd.dfmt then engFail kindAccess codeFormatBad
    if run == 1 then
      for (da, v) in elems do
        let l ← engLoc m da 1 .write true
        engPutElem m l da cd.dfmt (Num.elemEncode cd.dfmt 0 0 (Num.decodeVal Num.fp32 v))
    else encodeRun m cd.dfmt elems
  return f

/-- The walk of mode 1 by runs (R212). -/
def walkConv (m : Master) (op : CopyOp) (cd : CopyDesc) (run : Nat) : Nat → Nat → State → Nat × WalkEnd × State
  | 0, w, s => (w, .done, s)
  | n + 1, w, s =>
    match convRun m op cd run w s with
    | .ok (none, s') => walkConv m op cd run n (w + run) s'
    | .ok (some (i, k, c), s') => (i, .fail i k c, s')
    | .error (.hold va k r) => (w, .hold va k r, s)
    | .error (.wait s') => (w, .wait, s')
    | .error (.fail k c) => (w, .fail w k c, s)

def CopyOp.master (op : CopyOp) : Master := ⟨op.die, op.core, op.ctx, op.op⟩
def State.updCopy (s : State) (n : Nat) (f : CopyOp → CopyOp) : State :=
  { s with copies := s.copies.map fun c => if c.op == n then f c else c }

/-- A copy ends, with a KIND of R205 (0 for none): its tags, its number, its command (R207, R213, R214, R196). -/
def State.endCopy (s : State) (op : CopyOp) (kind : Nat) : State :=
  let s := { s with copies := s.copies.filter (·.op != op.op) }
  let ranks := op.receivers.zip (List.range op.receivers.length)
  let s := ranks.foldl (fun s (uid, r) =>
    s.updTeam uid (·.tagDone op.tag (if kind == kindReceiver then op.failedRanks.contains r else kind != 0))) s
  let s := match op.k with
    | some k => s.completeOp op.master (if op.cmd.isSome then none else op.who.map (·.1)) op.ectx k kind
    | none => s
  match op.cmd with
  | some (q, idx) => if ((s.queue? q).bind (·.cmd? idx)).any (·.st == some (.copying op.op)) then s.finishCmd q idx none else s
  | none => s

/-- The error record of a stopped copy (R213): context, pc, walk index, kind. -/
def State.copyError (s : State) (op : CopyOp) (idx kind code : Nat) : State :=
  s.report op.die { kind := 7, ctx := op.ctx, code := code, a := op.pc.toNat, b := idx, detail := [BitVec.ofNat 8 kind] }

/-- The timeline address of a copy's engine context: 0 when it is untracked (R209). -/
def State.copyTl (s : State) (op : CopyOp) : Nat :=
  match op.who with
  | some (uid, _) => ((s.team uid).ectxAt op.ectx).tl
  | none => match s.ctx? op.die op.ctx with | some c => (c.ectx[op.ectx]?.getD {}).tl | none => 0

/-- The copy engine's run of an operation from where it stands: to its end, or until it is held (R208 to R214). -/
def State.runCopy (s : State) (op : CopyOp) : State :=
  let m := op.master
  let held (s : State) (w : Nat) (fr : List Nat) (va : Nat) (k : AccKind) (r : Nat) : State :=
    (s.engineFault m op.pc va k r).updCopy op.op fun o => { o with walk := w, held := some (va, k), failedRanks := fr }
  if op.doomed then (s.copyError op op.walk kindXlate 0).endCopy op kindXlate
  else if op.poisoned then (s.copyError op 0 kindPoison codeUncorrectable).endCopy op kindPoison
  else if op.desc % 64 != 0 then s.endCopy op kindDescbad
  else
    match (if op.dbytes.isEmpty then engLoadBlocks m 64 4 op.desc s else .ok (op.dbytes, s)) with
    | .error (.hold va k r) => held s 0 [] va k r
    | .error (.wait s') => s'
    | .error (.fail k c) => (s.copyError op 0 k c).endCopy op k
    | .ok (bs, s) =>
      let op := { op with dbytes := bs }
      let s := s.updCopy op.op fun o => { o with dbytes := bs }
      let cd := CopyDesc.parse bs
      if !cd.ok op.mode op.mask (s.copyTl op) then s.endCopy op kindDescbad
      else
        let run := runLen op.mode cd.dfmt
        if op.mode == 1 then
          match (if run == 1 || op.walk != 0 then .ok (true, s)
              else if cd.count % run != 0 then .ok (false, s) else runsOk m cd op run (cd.count / run) 0 s) with
          | .error (.hold va k r) => held s 0 [] va k r
          | .error (.wait s') => s'
          | .error (.fail ..) | .ok (false, _) => s.endCopy op kindDescbad
          | .ok (true, s) =>
            match walkConv m op cd run (cd.count / run - op.walk / run) op.walk s with
            | (_, .done, s) => s.endCopy op 0
            | (w, .hold va k r, s) => held s w [] va k r
            | (w, .wait, s) => s.updCopy op.op fun o => { o with walk := w }
            | (_, .fail i k c, s) => (s.copyError op i k c).endCopy op k
        else
          let bases : List (Nat × Nat) :=
            if op.mode == 3 then
              (op.receivers.zip (List.range op.receivers.length)).map fun (uid, r) => (r, (s.team uid).scrVa + cd.dbase)
            else [(0, cd.dbase)]
          match walkRaw m op cd bases (cd.count - op.walk) op.walk op.failedRanks s with
          | (_, fr, .done, s) => s.endCopy { op with failedRanks := fr } (if fr.isEmpty then 0 else kindReceiver)
          | (w, fr, .hold va k r, s) => held s w fr va k r
          | (w, fr, .wait, s) => s.updCopy op.op fun o => { o with walk := w, failedRanks := fr }
          | (_, _, .fail i k c, s) => (s.copyError op i k c).endCopy op k

/-- A copy operation runs on until it completes or is held (R207, R211). -/
def execCopyComplete (op : Nat) (s : State) : Host.Outcome State Fault Refusal :=
  match s.copies.find? (fun c => c.op == op && c.held.isNone) with
  | some c => .next (s.runCopy c)
  | none => .next s

/-- CPY of the issuing thread (R208): the mask of a multicast is its own read; the queue of 64 has room, or the thread waits. -/
def cpyBody (i : Instr) (ectx : Nat) (ofs : YReg) (mode tag desc : Nat) : Op Unit := do
  checkFlagRoom true
  let d ← readSPair (2 * desc)
  let so ← readX (2 * ofs.val)
  let dof ← readX (2 * ofs.val + 1)
  let s ← get
  let tm := s.curTeam
  let va := (d.toNat + 36) % 2 ^ 64
  let (mask, poison) ← (if mode == 3 then do
      let (l, _) ← locateOp va 2 2 .read false true false fun _ => none
      let (bs, err) ← readBytes l 2 false
      return (natLE bs, err)
    else pure (0, 0) : Op (Nat × Nat))
  let s ← get
  if 64 ≤ (s.copies.filter fun c => c.die == tm.die && c.core == tm.core).length then stop (.block .engine)
  let ranks := maskRanks mask
  let valid := mode == 3 && poison == 0 && mask != 0 && ranks.all (· < (s.gridOf tm).cohortSize)
  let receivers := if valid then ranks.filterMap fun r => (s.cohortTeam tm r).map (·.uid) else [tm.uid]
  let (k, s) := s.takeNumber tm.uid ectx
  let s := receivers.foldl (fun s u => s.updTeam u (·.tagIssue tag)) s
  let op : CopyOp :=
    { op := s.nextId, die := tm.die, core := tm.core, ctx := tm.ctx, who := some s.cur, desc := d.toNat, sofs := so.toInt
      dofs := dof.toInt, mode := mode, tag := tag, ectx := ectx, k := k, receivers := receivers
      mask := if valid then some mask else none, poisoned := poison != 0, pc := s.curThread.pc }
  set { s with copies := s.copies ++ [op], nextId := s.nextId + 1 }
  startFlight true [] []
    (if poison != 0 then some { cause := causePoison, code := poison, addr := BitVec.ofNat 64 va } else none) none
  retire i none

/-- `cpy.mode eE, tTAG, [s pair desc], x pair ofs` (R208, R393). -/
def execCpy (p : PReg) (ectx : Fin 16) (ofs : YReg) (mode : Fin 4) (tag : Fin 64) (desc : Fin 32) (s : State) :
    Host.Outcome State Fault Refusal :=
  runThread (.cpy p ectx ofs mode tag desc) (cpyBody (.cpy p ectx ofs mode tag desc) ectx.val ofs mode.val tag.val desc.val) s

-- tags (R207, R410, R411)


/-- `wtag.all` and `wtag.any` (R410): it returns at the first moment its condition holds, or raises COPYERR then. -/
def execWtag (p : PReg) (a : XReg) (y l : Bool) (s : State) : Host.Outcome State Fault Refusal :=
  runThread (.wtag p a y l) (do
    let m ← readPair a.val
    let s ← get
    match (match s.curThread.reply with
      | some r => r.head?
      | none => s.curTeam.wtagResult y m) with
    | none => stop (.block (.wtag y m.toNat))
    | some r =>
      acquireAt true scopeCluster
      if r != 0 then trap { cause := causeCopyerr, reg := r.toNat - 1 }
      retire (.wtag p a y l) none) s

/-- `ftag xD:xD+1, xA:xA+1` (R410): an acquire of each tag that it reports set (R411). -/
def execFtag (p : PReg) (d a : XReg) (l : Bool) (s : State) : Host.Outcome State Fault Refusal :=
  runThread (.ftag p d a l) (do
    let m ← readPair a.val
    let tm := (← get).curTeam
    acquireAt (tm.tags &&& m != 0) scopeCluster
    writeRegs (pairR d.val) (words64 (tm.tags &&& m)) none
    retire (.ftag p d a l) none) s

/-- `tagclr xA:xA+1` (R410). -/
def execTagclr (p : PReg) (a : XReg) (l : Bool) (s : State) : Host.Outcome State Fault Refusal :=
  runThread (.tagclr p a l) (do
    let m ← readPair a.val
    modTeam fun tm => { tm with tagErr := tm.tagErr &&& ~~~m }
    retire (.tagclr p a l) none) s

-- timelines (R461 to R463)

/-- The scope of TLWAIT and TLREAD: the prefix's, the named context's own, or die (R374, R461). -/
def tlScope (tm : Team) (payload : Option Nat) : Nat :=
  match payload with
  | none => 6
  | some w => let e := engPfx w; if e.own then (tm.ectxAt e.ectx).scope else e.scope

/-- `tlwait [xA:xA+1], xB:xB+1` (R462). -/
def execTlwait (p : PReg) (a b : XReg) (l : Bool) (s : State) : Host.Outcome State Fault Refusal :=
  runThread (.tlwait p a b l) (do
    let va ← readPair a.val
    let n ← readPair b.val
    let (loc, _) ← locateOp va.toNat 8 16 .read false true false fun _ => none
    let (bs, err) ← readBytes loc 8 (scopeCluster ≤ tlScope (← get).curTeam s.pfx)
    if err != 0 then trap { cause := causePoison, code := err, addr := va }
    if natLE bs < n.toNat then stopKeep (.block .tlwait)
    retire (.tlwait p a b l) s.pfx) s

/-- `tlread xD:xD+3, [xA:xA+1]` (R462). -/
def execTlread (p : PReg) (d a : XReg) (l : Bool) (s : State) : Host.Outcome State Fault Refusal :=
  runThread (.tlread p d a l) (do
    checkFlagRoom false
    let va ← readPair a.val
    tryPrepare (quadR d.val) none
    let (loc, _) ← locateOp va.toNat 16 16 .read false true false fun _ => none
    let (bs, err) ← readBytes loc 16 (scopeCluster ≤ tlScope (← get).curTeam s.pfx)
    prepareDsts (quadR d.val) none
    startFlight false ((quadR d.val).zip (if err != 0 then [0, 0, 0, 0] else wordsOf bs)) []
      (if err != 0 then some { cause := causePoison, code := err, addr := va } else none) none
    retire (.tlread p d a l) s.pfx) s

/-- `tlnote xD:xD+1, eN` (R463): an empty operation, complete when the thread's earlier accesses have performed. -/
def execTlnote (p : PReg) (d : XReg) (s : State) : Host.Outcome State Fault Refusal :=
  runThread (.tlnote p d) (do
    let s ← get
    let e := match s.pfx with | some w => (engPfx w).ectx | none => 0
    tryPrepare (pairR d.val) none
    let (k, s') := s.takeNumber s.cur.1 e
    match k with
    | none => writeRegs (pairR d.val) [0, 0] none
    | some k => do
      let scope := match s.pfx with
        | some w => if (engPfx w).own then (s.curTeam.ectxAt e).scope else (engPfx w).scope
        | none => (s.curTeam.ectxAt 0).scope
      let note : NoteOp := { op := s'.nextId, team := s'.cur.1, ectx := e, k := k, scope := scope }
      set ({ s' with notes := s'.notes ++ [note], nextId := s'.nextId + 1 } : State)
      writeRegs (pairR d.val) [w32 k, w32 (k / 2 ^ 32)] none
    retire (.tlnote p d) s.pfx) s

/-- A note completes (R463): accesses perform in program order, so those before it have performed. -/
def execTlnoteComplete (op : Nat) (s : State) : Host.Outcome State Fault Refusal :=
  match s.notes.find? (·.op == op) with
  | none => .next s
  | some n =>
    let s := { s with notes := s.notes.filter (·.op != op) }
    let tm := s.team n.team
    .next (s.completeOp ⟨tm.die, tm.core, tm.ctx, op⟩ (some n.team) n.ectx n.k 0)

end Sys2Proof.Machine
end

