-- ==== Sys2Proof/Machine/Float.lean ====
section
/-! DEFINITION. Floating-point lane operations (R400 to R409): their values stand in aluEval; FSFU counts in SETA (R344), and FCVT
with SR draws its random bits from the counter of the thread's lane (R122). -/
namespace Sys2Proof.Machine

/-- `fadd xD, xA, xB` (R400). -/
def execFadd (p : PReg) (d : XReg) (a : XReg) (b : XReg) (l : Bool) (k : Bool) (s : State) : Host.Outcome State Fault Refusal :=
  aluOp (.fadd p d a b l k) s

/-- `fsub xD, xA, xB` (R400). -/
def execFsub (p : PReg) (d : XReg) (a : XReg) (b : XReg) (l : Bool) (k : Bool) (s : State) : Host.Outcome State Fault Refusal :=
  aluOp (.fsub p d a b l k) s

/-- `fmul xD, xA, xB` (R400). -/
def execFmul (p : PReg) (d : XReg) (a : XReg) (b : XReg) (l : Bool) (k : Bool) (s : State) : Host.Outcome State Fault Refusal :=
  aluOp (.fmul p d a b l k) s

/-- `ffma xD, xA, xB, xC` (R406). -/
def execFfma (p : PReg) (d : YReg) (a : YReg) (b : YReg) (c : YReg) (l : Bool) (k : Bool) (s : State) : Host.Outcome State Fault Refusal :=
  aluOp (.ffma p d a b c l k) s

/-- `fmin, or fmin.num when u` (R407). -/
def execFmin (p : PReg) (d : XReg) (a : XReg) (b : XReg) (u : Bool) (l : Bool) (k : Bool) (s : State) : Host.Outcome State Fault Refusal :=
  aluOp (.fmin p d a b u l k) s

/-- `fmax, or fmax.num when u` (R407). -/
def execFmax (p : PReg) (d : XReg) (a : XReg) (b : XReg) (u : Bool) (l : Bool) (k : Bool) (s : State) : Host.Outcome State Fault Refusal :=
  aluOp (.fmax p d a b u l k) s

/-- `fsfu.f xD, xA` (R409). -/
def execFsfu (p : PReg) (d : XReg) (a : XReg) (f : Fin 64) (l : Bool) (k : Bool) (s : State) : Host.Outcome State Fault Refusal :=
  slowOp (.fsfu p d a f l k) s

/-- `frnd.r xD, xA` (R408). -/
def execFrnd (p : PReg) (d : XReg) (a : XReg) (r : Fin 4) (l : Bool) (k : Bool) (s : State) : Host.Outcome State Fault Refusal :=
  aluOp (.frnd p d a r l k) s

/-- `fadd2.h, or .b when t` (R401). -/
def execFadd2 (p : PReg) (d : XReg) (a : XReg) (b : XReg) (t : Bool) (l : Bool) (k : Bool) (s : State) : Host.Outcome State Fault Refusal :=
  aluOp (.fadd2 p d a b t l k) s

/-- `fmul2.h, or .b when t` (R401). -/
def execFmul2 (p : PReg) (d : XReg) (a : XReg) (b : XReg) (t : Bool) (l : Bool) (k : Bool) (s : State) : Host.Outcome State Fault Refusal :=
  aluOp (.fmul2 p d a b t l k) s

/-- `ffma2_h xD, xA, xB, xC` (R401). -/
def execFfma2H (p : PReg) (d : YReg) (a : YReg) (b : YReg) (c : YReg) (l : Bool) (k : Bool) (s : State) : Host.Outcome State Fault Refusal :=
  aluOp (.ffma2H p d a b c l k) s

/-- `ffma2_b xD, xA, xB, xC` (R401). -/
def execFfma2B (p : PReg) (d : YReg) (a : YReg) (b : YReg) (c : YReg) (l : Bool) (k : Bool) (s : State) : Host.Outcome State Fault Refusal :=
  aluOp (.ffma2B p d a b c l k) s

/-- `fdot xD, xA, xB, xC` (R404). -/
def execFdot (p : PReg) (d : YReg) (a : YReg) (b : YReg) (c : YReg) (l : Bool) (k : Bool) (s : State) : Host.Outcome State Fault Refusal :=
  aluOp (.fdot p d a b c l k) s

/-- `idot xD, xA, xB, xC` (R404). -/
def execIdot (p : PReg) (d : YReg) (a : YReg) (b : YReg) (c : YReg) (l : Bool) (k : Bool) (s : State) : Host.Outcome State Fault Refusal :=
  aluOp (.idot p d a b c l k) s

/-- The stochastic-rounding counter of a lane of a core (R122). -/
def CoreState.laneCtr (c : CoreState) (lane : Nat) : Nat := ((c.srCtr.find? (·.1 == lane)).map (·.2)).getD 0
/-- The counter of a lane after one more element (R122). -/
def CoreState.bumpLane (c : CoreState) (lane : Nat) : CoreState :=
  { c with srCtr := (lane, (c.laneCtr lane + 1) % 2 ^ 32) :: c.srCtr.filter (·.1 != lane) }

/-- One draw of the issuing thread's lane: Mix of SEED, the thread's identity and the counter (R121, R122). -/
def laneDraw : Op (BitVec 64) := do
  let s ← get
  let tm := s.curTeam
  let t := s.curThread
  let cs := s.core tm.die tm.core
  let addr := BitVec.ofNat 64 ((s.gridOf tm).num * 2 ^ 40) ^^^ BitVec.ofNat 64 (tm.num * 2 ^ 10) ^^^ BitVec.ofNat 64 t.tid
  set (s.setCore (cs.bumpLane t.lane))
  return Num.mix (s.ctxOf tm).seed addr (BitVec.ofNat 32 (cs.laneCtr t.lane))

/-- FCVT (R403): with SR in the prefix one draw of the lane gives the random bits. The lane's counter advances for every element, also for one
that is exact or a NaN (DEDUCED, log 103). -/
def fcvtBody (i : Instr) : Op Unit := do
  let s ← get
  let ftz ← curFtz
  let src ← readList i.srcX
  let sr := match s.pfx with | some w => (floatPfx w).sr | none => false
  let rnd ← (if sr then do return (← laneDraw).toNat / 2 ^ 48 else pure 0 : Op Nat)
  match aluEval i s.pfx ftz rnd s.curTeam.s src with
  | none => illegal 0
  | some (outs, fl) =>
    writeRegs i.dstX outs (recipeFor i s.pfx ftz)
    setFlags fl
    retire i s.pfx

/-- `fcvt.c.r xD, xA` (R403). -/
def execFcvt (p : PReg) (d : XReg) (a : XReg) (c : Fin 64) (r : Fin 4) (l : Bool) (k : Bool) (s : State) : Host.Outcome State Fault Refusal :=
  runThread (.fcvt p d a c r l k) (fcvtBody (.fcvt p d a c r l k)) s

end Sys2Proof.Machine
end

