-- ==== Sys2Proof/Machine/Matrix.lean ====
section
/-! DEFINITION. The matrix engine: operand formats and layouts (R218, R219, R151), accumulation (R136, R138), convergence sets (R215 to
R217), tile moves (R221, R222, R430 to R432), peer-adds (R223) and MTILE (R225). -/
namespace Sys2Proof.Machine

/-- Info codes of R234. -/
def codeCvbusy : Nat := 0x17
def codeTilemode : Nat := 0x18

-- formats: the codes of R128; 20 to 23 stand for the unscaled E2M3, E3M2, E2M1 and integer INT8 of MFMT

/-- The format of an MFMT code (R218); none for 8 to 15. -/
def mfmtFormat (c : Nat) : Option Nat :=
  match c with
  | 0 => some 10 | 1 => some 11 | 2 => some 12 | 3 => some 13 | 4 => some 20 | 5 => some 21 | 6 => some 22 | 7 => some 23 | _ => none
/-- K of a format (R218). -/
def fmtK (f : Nat) : Nat := if f == 10 || f == 11 then 16 else if f == 22 || f == 5 || f == 9 then 64 else 32
/-- Bits of an element as operands store it (R219). -/
def fmtBits (f : Nat) : Nat :=
  match f with
  | 10 | 11 => 16 | 22 | 5 | 9 => 4 | 20 | 21 | 3 | 4 | 8 => 6 | _ => 8
/-- Whether a format is scaled by blocks (R218). -/
def fmtScaled (f : Nat) : Bool := 1 ≤ f && f ≤ 9
/-- The integer format (R138). -/
def fmtInt : Nat := 23
/-- Blocks of a row: two for the four-bit formats (R136). -/
def fmtBlocks (f : Nat) : Nat := if fmtK f == 64 then 2 else 1
/-- Scale bytes of a row tile (R219). -/
def fmtScaleBytes (f : Nat) : Nat := if !fmtScaled f then 0 else 32 * fmtBlocks f * (if Num.isGbf f then 2 else 1)
/-- Bytes of a row in a scratchpad operand (R219). -/
def fmtRowBytes (f : Nat) : Nat := if fmtBits f == 6 then 24 else fmtK f * fmtBits f / 8

/-- The exact value of an operand element; `sa` and `hdr` are its block's scale bytes (R123, R136). -/
def operandVal (f bits sa hdr : Nat) : Num.Val :=
  match f with
  | 20 => Num.decodeVal Num.e2m3 bits
  | 21 => Num.decodeVal Num.e3m2 bits
  | 22 => Num.decodeVal Num.e2m1 bits
  | _ => Num.elemVal f bits sa hdr

/-- Element codes of a row of bytes: `plane` says that six-bit elements lie in planes, as in a scratchpad row, and not in bytes (R219). -/
def rowElems (f : Nat) (plane : Bool) (row : List Byte) : List Nat :=
  let b (o : Nat) : Nat := (row[o]?.getD 0).toNat
  (List.range (fmtK f)).map fun k =>
    match fmtBits f with
    | 16 => b (2 * k) + 256 * b (2 * k + 1)
    | 4 => b (k / 2) / 16 ^ (k % 2) % 16
    | 6 => if plane then b (k / 2) / 16 ^ (k % 2) % 16 + b (16 + k / 4) / 4 ^ (k % 4) % 4 * 16 else b k % 64
    | _ => b k

/-- One output element of an MMA on a float tile (R136): block by block, each an exact sum of exact products, rounded to W56. -/
def mmaFloat (fa fb : Nat) (a b : List Nat) (sa sb : Nat → Nat × Nat) (acc : Nat) : Nat :=
  (List.range (fmtBlocks fa)).foldl (fun acc blk =>
    let n := fmtK fa / fmtBlocks fa
    let S := (List.range n).foldl (fun (v : Num.Val) k =>
      let x := operandVal fa (a[blk * n + k]?.getD 0) (sa blk).1 (sa blk).2
      let y := operandVal fb (b[blk * n + k]?.getD 0) (sb blk).1 (sb blk).2
      (Num.addVal .rne v (Num.mulVal x y).1).1) (.fin false 0 0)
    (Num.finish Num.w56 {} (Num.addVal .rne (Num.decodeVal Num.w56 acc) S).1).1) acc

/-- A 56-bit two's complement value as an integer. -/
def int56 (v : BitVec 56) : Int := v.toInt
/-- Exact addition into an integer element: wrapping, with its companion (R138). -/
def addInt56 (e : BitVec 56 × Nat) (d : Int) : BitVec 56 × Nat :=
  let x := int56 e.1 + d
  (BitVec.ofInt 56 x, if e.2 != 0 then e.2 else if (2 : Int) ^ 55 ≤ x then 1 else if x < -(2 : Int) ^ 55 then 2 else 0)

/-- One output element of an MMA on an integer tile (R138). -/
def mmaInt (a b : List Nat) (acc : BitVec 56 × Nat) : BitVec 56 × Nat :=
  addInt56 acc ((a.zip b).map fun (x, y) => signedField x 8 * signedField y 8).sum

/-- The tile after an MMA (R136, R138). -/
def applyMma (op : MmaOp) (t : Tile) : Tile :=
  let int := op.afmt == fmtInt
  let base : List (BitVec 56 × Nat) := if op.zero then List.replicate 1024 (0, 0) else t.elems
  let scale (f : Nat) (l : List Nat) (j blk : Nat) : Nat × Nat :=
    if Num.isGbf f then (l[2 * (32 * blk + j)]?.getD 0, l[2 * (32 * blk + j) + 1]?.getD 0) else (l[32 * blk + j]?.getD 0, 0)
  { isInt := if op.zero then int else t.isInt
    elems := base.zip (List.range 1024) |>.map fun (e, n) =>
      let i := n / 32
      let j := n % 32
      let a := op.a[i]?.getD []
      let b := op.b[j]?.getD []
      if int then mmaInt a b e
      else (BitVec.ofNat 56 (mmaFloat op.afmt op.bfmt a b (scale op.afmt op.ascale i) (scale op.bfmt op.bscale j) e.1.toNat), 0) }

/-- A tile of a team changed. -/
def Team.updTile (t : Team) (n : Nat) (f : Tile → Tile) : Team := { t with tiles := t.tiles.modify n f }
/-- The accepted MMAs of a tile, in order, applied (R220), up to and including operation `last` when one is named. -/
def State.flushTile (s : State) (uid tile : Nat) (last : Option Nat) : State :=
  let mine := s.mmas.filter fun o => o.team == uid && o.tile == tile && (match last with | some n => o.op ≤ n | none => true)
  let s := mine.foldl (fun s o => s.updTeam uid (·.updTile tile (applyMma o))) s
  { s with mmas := s.mmas.filter fun o => !mine.any (·.op == o.op) }

/-- The matrix engine applies an accepted MMA, after those accepted before it on its tile (R136, R220). -/
def execMmaApply (op : Nat) (s : State) : Host.Outcome State Fault Refusal :=
  match s.mmas.find? (·.op == op) with
  | none => .next s
  | some o => .next (s.flushTile o.team o.tile (some op))

-- scratchpad operands (R219)

/-- A scratchpad descriptor of R219, from its two words. -/
structure ScrDesc where
  rot : Nat
  off : Nat
  tilePitch : Nat
  pitch : Nat
  ok : Bool
  deriving DecidableEq, Repr

def ScrDesc.parse (w0 w1 : Word) : ScrDesc :=
  { rot := bitsAt w0.toNat 20 4, off := bitsAt w0.toNat 0 20, tilePitch := bitsAt w1.toNat 12 16, pitch := bitsAt w1.toNat 0 12
    ok := bitsAt w0.toNat 24 8 == 0 && bitsAt w1.toNat 28 4 == 0 && bitsAt w0.toNat 0 20 % 16 == 0 && 2 ≤ bitsAt w1.toNat 0 12 }

/-- The slice offset of byte o of row j (R151, R219). -/
def ScrDesc.at (d : ScrDesc) (j o : Nat) : Nat :=
  let pw := 4 * d.pitch
  d.off + 4 * (j * pw + (o / 4 + j * rotAmount d.rot) % pw) + o % 4
/-- The slice offset of byte o of the scale area (R219). -/
def ScrDesc.scaleAt (d : ScrDesc) (o : Nat) : Nat := d.off + 32 * 16 * d.pitch + o

/-- The info code with which a slice offset is refused to a team's operand: outside the scratchpads of the team and of the members of
its cohort on its core (R219). -/
def State.scrRefused (s : State) (tm : Team) (off : Nat) : Option Nat :=
  match (s.core tm.die tm.core).region? off with
  | some r =>
    match r.kind with
    | .scratch uid =>
      let o := s.team uid
      let n := (s.gridOf tm).cohortSize
      if uid == tm.uid || (o.grid == tm.grid && o.die == tm.die && o.num / n == tm.num / n) then none else some codeCrossCtx
    | _ => some codeCrossCtx
  | none => some codeWindowHole

/-- The first refusal among slice offsets: the offset and its code. -/
def State.scrCheck (s : State) (tm : Team) (offs : List Nat) : Option (Nat × Nat) :=
  (offs.filterMap fun o => (s.scrRefused tm o).map fun c => (o, c)).head?

/-- The bytes of slice offsets of a team's core. -/
def State.scrBytes (s : State) (tm : Team) (offs : List Nat) : List Byte :=
  offs.map fun o => Memory.get s.mem (commonsKey tm.die tm.core o)

/-- The offsets of row j's first n bytes. -/
def ScrDesc.row (d : ScrDesc) (j n : Nat) : List Nat := (List.range n).map (d.at j)
/-- The offsets of the scale area. -/
def ScrDesc.scales (d : ScrDesc) (f : Nat) : List Nat := (List.range (fmtScaleBytes f)).map d.scaleAt
/-- Every offset an operand reaches. -/
def ScrDesc.reach (d : ScrDesc) (f : Nat) : List Nat := (List.range 32).flatMap (d.row · (fmtRowBytes f)) ++ d.scales f

/-- The rows of an operand and its scales. -/
def State.scrOperand (s : State) (tm : Team) (d : ScrDesc) (f : Nat) : List (List Nat) × List Nat :=
  ((List.range 32).map fun j => rowElems f true (s.scrBytes tm (d.row j (fmtRowBytes f))),
    (s.scrBytes tm (d.scales f)).map (·.toNat))

-- MMA (R215 to R217, R433)

/-- `cvset cvD, xA` (R394): the CVSETs of one issue apply in ascending TID, so that a higher TID's size stands. -/
def execCvset (p : PReg) (cv : Fin 16) (a : XReg) (s : State) : Host.Outcome State Fault Refusal :=
  runThread (.cvset p cv a) (do
    let n := (← readX a.val).toNat
    if 1024 < n then illegal 0
    let c := (← get).curTeam.cvAt cv.val
    if c.signers.isEmpty then modTeam fun tm => if sOvertaken s p then tm else tm.setCv cv.val { c with size := n }
    else if n != c.size then illegal codeCvbusy
    retire (.cvset p cv a) none) s

/-- The formats of an MMA: each operand's from the prefix when it is a scratchpad operand with a code, else from MFMT (R218). -/
def mmaFormats (payload : Option Nat) (sa sb : Bool) (mfmt : Word) : Option (Nat × Nat) := do
  let pick (s : Bool) (code lo : Nat) : Option Nat :=
    if s && code != 0 then some code else mfmtFormat (bitsAt mfmt.toNat lo 4)
  let fa ← pick sa (match payload with | some w => mmaAfmt w | none => 0) 0
  let fb ← pick sb (match payload with | some w => mmaBfmt w | none => 0) 4
  return (fa, fb)

/-- Whether two formats go together (R218). -/
def fmtPairOk (fa fb : Nat) : Bool := fmtK fa == fmtK fb && (fa == fmtInt) == (fb == fmtInt)

/-- The bytes of a register fragment: 8 registers, 32 bytes (R219). -/
def fragBytes (ws : List Word) : List Byte := ws.flatMap fun w => bytesLE 4 w.toNat

/-- The rows of a register operand: row ρ from the signer whose TID mod 32 is ρ (R219). -/
def regRows (f : Nat) (frag : Signer → List Word) (sg : List Signer) : List (List Nat) :=
  (List.range 32).map fun r =>
    match sg.find? (·.tid % 32 == r) with
    | some g => rowElems f false (fragBytes (frag g))
    | none => []

/-- A set of 32 threads with one TID div 32 (R219). -/
def regSetOk (sg : List Signer) : Bool :=
  sg.length == 32 && (match sg with | g :: _ => sg.all (·.tid / 32 == g.tid / 32) | [] => false)

/-- The operand of a completed set: its refusal as a trap, or its rows and scales (R219). -/
def mmaOperand (s : State) (tm : Team) (scr : Bool) (f : Nat) (frag : Signer → List Word) (sg : List Signer) :
    Except TrapRec (List (List Nat) × List Nat) :=
  if scr then
    match (sg.head?.map frag).getD [] with
    | w0 :: w1 :: _ =>
      let d := ScrDesc.parse w0 w1
      if !d.ok then .error { cause := causeIllegal }
      else match s.scrCheck tm (d.reach f) with
        | some (o, code) => .error { cause := causeAccess, code := code, addr := BitVec.ofNat 64 (windowVa tm.core o) }
        | none => .ok (s.scrOperand tm d f)
    | _ => .error { cause := causeIllegal }
  else if regSetOk sg then .ok (regRows f frag sg, [])
  else .error { cause := causeCvmismatch }

/-- A complete set (R216): the trap every signer takes, or the state in which the engine has the operands and every signer is free. A scratchpad
operand is read as it stands then, whatever was written to it since the first signature (DESIGN CHOICE, log 105). -/
def mmaComplete (s : State) (tm : Team) (acc cv : Nat) (z sa sb : Bool) (fmts : Nat × Nat) (sg : List Signer) : Except TrapRec State :=
  let (fa, fb) := fmts
  let int := fa == fmtInt
  match sg with
  | [] => .ok s
  | g :: _ =>
    if sg.any fun o => o.word != g.word || o.payload != g.payload then .error { cause := causeCvmismatch }
    else if !fmtPairOk fa fb then .error { cause := causeIllegal, code := codeFmtpair }
    else if !z && (((s.flushTile tm.uid acc none).team tm.uid).tiles[acc]?.getD {}).isInt != int then
      .error { cause := causeIllegal, code := codeTilemode }
    else match mmaOperand s tm sa fa (·.a) sg, mmaOperand s tm sb fb (·.b) sg with
      | .error r, _ | _, .error r => .error r
      | .ok (ar, as), .ok (br, bs) =>
        let op : MmaOp :=
          { op := s.nextId, team := tm.uid, tile := acc, zero := z, afmt := fa, bfmt := fb, a := ar, b := br, ascale := as, bscale := bs }
        .ok ({ s with mmas := s.mmas ++ [op], nextId := s.nextId + 1 }.updTeam tm.uid fun tm => tm.setCv cv { tm.cvAt cv with signers := [] })

/-- MMA of the issuing thread (R216): it signs and blocks; the last to sign completes the set. -/
def mmaBody (i : Instr) (acc cv : Nat) (z sa sb : Bool) (a b : Nat) : Op Unit := do
  let s ← get
  let t := s.curThread
  let tm := s.curTeam
  if t.arrKind == 3 then
    if (tm.cvAt cv).signers.any (·.tid == t.tid) then stop (.block (.mma cv)) else retire i s.pfx
  else
    let c := tm.cvAt cv
    if c.size == 0 then illegal 0
    let mf ← modeView t.mfmt tm.mfmt
    match mmaFormats s.pfx sa sb mf with
    | none => illegal 0
    | some fmts =>
      let frag (scr : Bool) (n : Nat) : Op (List Word) :=
        if scr then do
          holdSregs [n, n + 1]
          return [tm.s[n]?.getD 0, tm.s[n + 1]?.getD 0]
        else readList ((List.range 8).map (n + ·))
      let fa ← frag sa a
      let fb ← frag sb b
      let me : Signer := { tid := t.tid, word := (encode i).getD 0, payload := s.pfx, a := fa, b := fb }
      let sg := c.signers ++ [me]
      if sg.length < c.size then
        modTeam (·.setCv cv { c with signers := sg })
        modThread fun t => { t with arrKind := 3, arrOp := cv }
        stopKeep (.block (.mma cv))
      else
        match mmaComplete (← get) tm acc cv z sa sb fmts sg with
        | .ok s' =>
          set s'
          retire i s.pfx
        | .error r =>
          let s ← get
          stop (.keep (s.trapSigners tm.uid cv none r) (.trap r))

/-- `mma[.z] mACC, A, B, cvV` (R216, R433). -/
def execMma (p : PReg) (acc : Fin 8) (cv : Fin 16) (z sa sb : Bool) (a b : XReg) (s : State) : Host.Outcome State Fault Refusal :=
  runThread (.mma p acc cv z sa sb a b) (mmaBody (.mma p acc cv z sa sb a b) acc.val cv.val z sa sb a.val b.val) s

-- tile moves (R221, R222, R430 to R432)

/-- `mzero.f` and `mzero.i` (R222). -/
def execMzero (p : PReg) (tile kind : Fin 8) (s : State) : Host.Outcome State Fault Refusal :=
  runThread (.mzero p tile kind) (do
    let tm := (← get).curTeam
    modify fun s => (s.flushTile tm.uid tile.val none).updTeam tm.uid
      (·.updTile tile.val fun _ => { isInt := kind.val == 1, elems := List.replicate 1024 (0, 0) })
    retire (.mzero p tile kind) none) s

/-- Bytes of an element by drain format (R221). -/
def drainBytes (fmt : Nat) : Nat := match fmt with | 0 | 5 | 6 => 4 | 1 | 2 => 2 | 3 | 4 => 1 | _ => 8
/-- The float format of a drain format (R221). -/
def drainFmt (fmt : Nat) : Num.Fmt := match fmt with | 0 => Num.fp32 | 1 => Num.bf16 | 2 => Num.fp16 | 3 => Num.e4m3 | _ => Num.e5m2
/-- Whether a drain format suits a tile's mode (R221). -/
def drainModeOk (fmt : Nat) (isInt : Bool) : Bool := fmt == 7 || (5 ≤ fmt) == isInt

/-- RAW56 of an element: the value in [55:0], the companion in [57:56] (R221). -/
def raw56 (e : BitVec 56 × Nat) : Nat := e.1.toNat + e.2 * 2 ^ 56

/-- One element drained (R137, R139); `rnd` gives SR its bits. -/
def drainElem (fmt : Nat) (mode : Num.RMode) (sat : Bool) (e : BitVec 56 × Nat) : Nat :=
  match fmt with
  | 5 => e.1.toNat % 2 ^ 32
  | 6 =>
    if e.2 == 1 then 0x7FFFFFFF else if e.2 == 2 then 0x80000000
    else ((max (-2 ^ 31) (min (2 ^ 31 - 1) (int56 e.1))) % (2 ^ 32 : Int)).toNat
  | 7 => raw56 e
  | f => (Num.toFmt (drainFmt f) mode false sat (Num.decodeVal Num.w56 e.1.toNat)).1

/-- One element loaded (R222). A RAW56 companion of 0b11, which R138 says is never produced, is kept (DESIGN CHOICE, log 101). -/
def loadElem (fmt v : Nat) : BitVec 56 × Nat :=
  match fmt with
  | 5 => ((BitVec.ofNat 32 v).signExtend 56, 0)
  | 7 => (BitVec.ofNat 56 v, bitsAt v 56 2)
  | f => (BitVec.ofNat 56 (Num.finish Num.w56 {} (Num.decodeVal (drainFmt f) v)).1, 0)

/-- Elements drained in order; each takes a draw of the thread's lane when SR rounds it (R137, R122). -/
def drainList (fmt : Nat) (mode : Num.RMode) (sr sat : Bool) : List (BitVec 56 × Nat) → Op (List Nat)
  | [] => return []
  | e :: es => do
    let m ← (if sr then do return Num.RMode.sr ((← laneDraw).toNat / 2 ^ 48) else pure mode : Op Num.RMode)
    let r ← drainList fmt mode sr sat es
    return drainElem fmt m sat e :: r

/-- The value of bytes in groups of n. -/
def groupsOf (n : Nat) (bs : List Byte) : List Nat := (List.range (bs.length / n)).map fun i => natAt bs (n * i) n

/-- A tile with rows replaced: its mode from the source format, unchanged for RAW56 (R222, R431). -/
def Tile.putRows (t : Tile) (fmt r0 : Nat) (vals : List Nat) : Tile :=
  { isInt := if fmt == 7 then t.isInt else fmt == 5
    elems := t.elems.take (32 * r0) ++ vals.map (loadElem fmt) ++ t.elems.drop (32 * r0 + vals.length) }

/-- Address and pitch of the memory kind (R222), checked to be multiples of 16. -/
def tileAddr (a b : XReg) : Op (Nat × Nat) := do
  let va := (← readPair a.val).toNat
  let pitch := (← readX b.val).toNat
  if va % 16 != 0 then trap { cause := causeAlign, addr := BitVec.ofNat 64 va }
  if pitch % 16 != 0 then trap { cause := causeAlign, addr := BitVec.ofNat 64 (va + pitch) }
  return (va, pitch)

/-- The locations of the 16-byte chunks of 32 rows, each translated and checked at issue (R222). The reads of MLD are the thread's own, and
watched; a drain is a hand-off, whose writes are not (R195, R283, log 80). -/
def tileChunks (va pitch rowBytes : Nat) (kind : AccKind) : Op (List Loc) :=
  ((List.range 32).flatMap fun j => (List.range (rowBytes / 16)).map fun c => (va + j * pitch + 16 * c) % 2 ^ 64).mapM fun a => do
    let (l, _) ← locateOp a 16 16 kind false (kind == .read) false fun _ => none
    return l

/-- The scratchpad descriptor an A field names, as the thread reads it (R219, R221). -/
def scrDescOp (a : XReg) : Op ScrDesc := do
  let v ← readSPair a.val
  let w := words64 v
  let d := ScrDesc.parse (w[0]?.getD 0) (w[1]?.getD 0)
  if !d.ok then illegal 0
  return d

/-- The slice offsets of 32 rows of a tile image in a scratchpad, checked (R219). -/
def scrRows (d : ScrDesc) (rowBytes : Nat) : Op (List Nat) := do
  let s ← get
  let tm := s.curTeam
  let offs := (List.range 32).flatMap (d.row · rowBytes)
  match s.scrCheck tm offs with
  | some (o, code) => trap { cause := causeAccess, code := code, addr := BitVec.ofNat 64 (windowVa tm.core o) }
  | none => return offs

/-- `mld.kind mN, A, B` (R221, R222, R431). -/
def mldBody (i : Instr) (tile kind : Nat) (a b : XReg) : Op Unit := do
  let s ← get
  let tm := s.curTeam
  checkFlagRoom false
  let s := s.flushTile tm.uid tile none
  set s
  let isInt := ((s.team tm.uid).tiles[tile]?.getD {}).isInt
  let fmt := match s.pfx with | some w => (drainPfx w).fmt | none => if isInt then 5 else 0
  let n := drainBytes fmt
  let put (r0 : Nat) (vals : List Nat) (late : Option TrapRec) : Op Unit := do
    if late.isNone then modTeam (·.updTile tile (·.putRows fmt r0 vals))
    startFlight false [] [] late none
    retire i s.pfx
  match kind with
  | 0 => do
    let ws ← readList ((List.range (8 * n)).map (a.val + ·))
    put (s.cur.2 % 32) (groupsOf n (fragBytes ws)) none
  | 1 => do
    let d ← scrDescOp a
    let offs ← scrRows d (32 * n)
    put 0 (groupsOf n ((← get).scrBytes tm offs)) none
  | _ => do
    let (va, pitch) ← tileAddr a b
    let ls ← tileChunks va pitch (32 * n) .read
    let rs ← ls.mapM fun l => readBytes l 16 false
    let late : Option TrapRec := ((rs.filter (·.2 != 0)).head?).map fun r =>
      { cause := causePoison, code := r.2, addr := BitVec.ofNat 64 va }
    put 0 (groupsOf n (rs.flatMap (·.1))) late

/-- `mld.kind mN, A, B` (R430). -/
def execMld (p : PReg) (tile kind : Fin 8) (a b : XReg) (l : Bool) (s : State) : Host.Outcome State Fault Refusal :=
  runThread (.mld p tile kind a b l) (mldBody (.mld p tile kind a b l) tile.val kind.val a b) s

/-- A drain handed off, and its number when its prefix tracks it (R205, R222, R374, R375). -/
def startDrain (i : Instr) (data : List Byte) (t : Tile) (dest : DrainDest) (num : Option (Nat × Nat)) : Op Unit := do
  let s ← get
  let op : DrainOp := { op := s.nextId, team := s.cur.1, who := s.cur, data := data, tile := t, dest := dest, num := num }
  set ({ s with drains := s.drains ++ [op], nextId := s.nextId + 1 } : State)
  startFlight true [] [] none (some op.op)
  retire i s.pfx

/-- Rows of bytes of drained elements. -/
def drainRows (n : Nat) (vals : List Nat) : List Byte := vals.flatMap (bytesLE n)

/-- MDRAIN (R221 to R223, R430 to R432). -/
def mdrainBody (i : Instr) (tile kind : Nat) (a b : XReg) : Op Unit := do
  let s ← get
  let tm := s.curTeam
  checkFlagRoom true
  let s := s.flushTile tm.uid tile none
  set s
  let t : Tile := (s.team tm.uid).tiles[tile]?.getD {}
  let matrix : Bool := match s.pfx with | some w => pfxClass w == .matrix | none => false
  let px : DrainPfx := match s.pfx with | some w => if matrix then drainPfx w else {} | none => {}
  let fmt := if matrix then px.fmt else if t.isInt then 5 else 0
  let number : Op (Option (Nat × Nat)) := do
    let e := if matrix then (if px.trk then some px.ectx else none)
      else match s.pfx with | some w => if (engPfx w).untrk then none else some (engPfx w).ectx | none => none
    match e with
    | none => return none
    | some e =>
      let (k, s) := (← get).takeNumber tm.uid e
      set s
      return k.map fun k => (e, k)
  if kind ≤ 2 && !drainModeOk fmt t.isInt then illegal codeTilemode
  let n := drainBytes fmt
  let convert (es : List (BitVec 56 × Nat)) : Op (List Nat) := drainList fmt (Num.RMode.ofField px.rnd) px.sr px.sat es
  match kind with
  | 0 => do
    let dsts := (List.range (8 * n)).map (a.val + ·)
    tryPrepare dsts none
    let vals ← convert ((t.elems.drop (32 * (s.cur.2 % 32))).take 32)
    let num ← number
    prepareDsts dsts none
    startFlight true (dsts.zip (wordsOf (drainRows n vals))) [] none none
    match num with
    | some (e, k) => modify fun s => s.completeOp ⟨tm.die, tm.core, tm.ctx, 0⟩ (some tm.uid) e k 0
    | none => pure ()
    retire i s.pfx
  | 1 => do
    let d ← scrDescOp a
    let offs ← scrRows d (32 * n)
    let vals ← convert t.elems
    let num ← number
    startDrain i (drainRows n vals) {} (.chunks 1 (offs.map fun o => (commonsKey tm.die tm.core o, 4, 0))) num
  | 2 => do
    let (va, pitch) ← tileAddr a b
    let ls ← tileChunks va pitch (32 * n) .write
    let vals ← convert t.elems
    let num ← number
    startDrain i (drainRows n vals) {} (.chunks 16 (ls.map fun l => (l.key, l.home, l.coh))) num
  | k => do
    let w := (← readX a.val).toNat
    let m ← (if k == 4 then do return (← readX b.val).toNat else pure 0 : Op Nat)
    let size := (s.gridOf tm).cohortSize
    if w / 128 != 0 || size ≤ w % 16 || tm.tiles.length ≤ w / 16 % 8 then illegal 0
    if k == 4 && (m / 65536 != 0 || !flagAt m (s.rankOfTeam tm)) then illegal 0
    let num ← number
    startDrain i [] t (.peer (w % 16) (w / 16 % 8) (if k == 4 then some m else none)) num

/-- `mdrain.kind A, B, mN` (R430). -/
def execMdrain (p : PReg) (tile kind : Fin 8) (a b : XReg) (l : Bool) (s : State) : Host.Outcome State Fault Refusal :=
  runThread (.mdrain p tile kind a b l) (mdrainBody (.mdrain p tile kind a b l) tile.val kind.val a b) s

/-- A drain has ended: its flag count goes back, and its number completes (R205, R344). -/
def State.endDrain (s : State) (o : DrainOp) (err : Nat) : State :=
  let s := { s with drains := s.drains.filter (·.op != o.op) }
  let s := s.landFirst o.who fun f => f.op == some o.op
  match o.num with
  | some (e, k) => let tm := s.team o.team; s.completeOp ⟨tm.die, tm.core, tm.ctx, o.op⟩ (some o.team) e k err
  | none => s

/-- The chunks of a drain written in order, of n bytes each (R222). -/
def drainWrite (m : Master) (n : Nat) : List (Nat × Nat × Nat) → List Byte → Eng Unit
  | [], _ => return
  | (key, home, coh) :: cs, bs => do
    engWrite m { key := key, home := home, coh := coh } (bs.take n)
    drainWrite m n cs (bs.drop n)

/-- The data of an MDRAIN is written (R222). -/
def execDrainComplete (op : Nat) (s : State) : Host.Outcome State Fault Refusal :=
  match s.drains.find? (·.op == op) with
  | none => .next s
  | some o =>
    match o.dest with
    | .peer .. => .next s
    | .chunks n cs =>
      let tm := s.team o.team
      match drainWrite ⟨tm.die, tm.core, tm.ctx, op⟩ n cs o.data s with
      | .ok (_, s') => .next (s'.endDrain o 0)
      | .error (.wait s') => .next s'
      | .error _ => .next (s.endDrain o 0)

/-- One tile added into another element by element (R223, R135, R138). -/
def addTiles (t u : Tile) : Tile :=
  { t with elems := (t.elems.zip u.elems).map fun (x, y) =>
      if t.isInt then addInt56 x (int56 y.1)
      else (BitVec.ofNat 56 (Num.finish Num.w56 {} (Num.addVal .rne (Num.decodeVal Num.w56 x.1.toNat)
        (Num.decodeVal Num.w56 y.1.toNat)).1).1, 0) }

/-- A peer-add contribution is added into the peer tile (R223): it waits for a resident peer and, when ordered, for every lower rank of
its round; modes or masks that differ discard it with KIND PEERMASK. One discarded for its mode counts as its rank's turn (DESIGN CHOICE,
log 104). -/
def execPeerAddApply (op : Nat) (s : State) : Host.Outcome State Fault Refusal :=
  match s.drains.find? (·.op == op) with
  | none => .next s
  | some o =>
    match o.dest with
    | .chunks .. => .next s
    | .peer rank tile mask =>
      let tm := s.team o.team
      match s.cohortTeam tm rank with
      | none => .next (s.endDrain o 0)
      | some peer =>
        if peer.status != .resident && peer.status != .ended then .next s
        else
          let s := s.flushTile peer.uid tile none
          let t := ((s.team peer.uid).tiles[tile]?.getD {})
          let me := s.rankOfTeam tm
          let round := peer.rounds.find? (·.tile == tile)
          match mask with
          | none =>
            if t.isInt != o.tile.isInt then .next (s.endDrain o kindPeermask)
            else .next ((s.updTeam peer.uid (·.updTile tile (addTiles · o.tile))).endDrain o 0)
          | some m =>
            let r : PeerRound := round.getD { tile := tile, mask := m, done := [] }
            let keep (r : PeerRound) (s : State) : State := s.updTeam peer.uid fun p =>
              { p with rounds := r :: p.rounds.filter (·.tile != tile) }
            if r.mask != m then .next (s.endDrain o kindPeermask)
            else if r.done.contains me || !(maskRanks m).all (fun q => me ≤ q || r.done.contains q) then .next (keep r s)
            else
              let bad := t.isInt != o.tile.isInt
              let s := if bad then s else s.updTeam peer.uid (·.updTile tile (addTiles · o.tile))
              let done := me :: r.done
              let s := if (maskRanks m).all done.contains then
                  s.updTeam peer.uid fun p => { p with rounds := p.rounds.filter (·.tile != tile) }
                else keep { r with done := done } s
              .next (s.endDrain o (if bad then kindPeermask else 0))

-- MTILE (R224, R225, R435)

/-- The descriptor of an MTILE (R225), parsed under the MFMT in use; `ok` is its well-formedness. -/
structure MtileDesc where
  a : Nat
  b : Nat
  asc : Nat
  bsc : Nat
  apitch : Nat
  bpitch : Nat
  astep : Int
  bstep : Int
  asstep : Int
  bsstep : Int
  da : ScrDesc
  db : ScrDesc
  ks : Nat
  tile : Nat
  z : Bool
  fa : Nat
  fb : Nat
  ok : Bool
  deriving DecidableEq, Repr

def MtileDesc.parse (bs : List Byte) (mfmt : Word) (tiles : Nat) : MtileDesc :=
  let fmt (o lo : Nat) : Option Nat :=
    let c := natAt bs o 1
    if c == 0 then mfmtFormat (bitsAt mfmt.toNat lo 4) else if c < 14 then some c else none
  let fa := fmt 76 0
  let fb := fmt 77 4
  let da := ScrDesc.parse (w32 (natAt bs 56 4)) (w32 (natAt bs 60 4))
  let db := ScrDesc.parse (w32 (natAt bs 64 4)) (w32 (natAt bs 68 4))
  { a := natAt bs 0 8, b := natAt bs 8 8, asc := natAt bs 16 8, bsc := natAt bs 24 8, apitch := natAt bs 32 4
    bpitch := natAt bs 36 4, astep := intAt bs 40 4, bstep := intAt bs 44 4, asstep := intAt bs 48 4, bsstep := intAt bs 52 4
    da := da, db := db, ks := natAt bs 72 2, tile := natAt bs 74 1, z := natAt bs 75 1 == 1
    fa := fa.getD 0, fb := fb.getD 0
    ok := fa.isSome && fb.isSome && da.ok && db.ok && natAt bs 72 2 != 0 && natAt bs 74 1 < tiles && natAt bs 75 1 ≤ 1
      && zeroAt bs 78 50 && fmtPairOk (fa.getD 0) (fb.getD 0)
      && (fmtScaled (fa.getD 0) || natAt bs 16 8 == 0) && (fmtScaled (fb.getD 0) || natAt bs 24 8 == 0) }

/-- The operand buffer of step k: buffer 1 lies 256 × the tile pitch above buffer 0 (R225). -/
def ScrDesc.buffer (d : ScrDesc) (k : Nat) : ScrDesc := { d with off := d.off + k % 2 * (256 * d.tilePitch) }

/-- The bytes of an address range as an engine reads them, one by one. -/
def engBytes (m : Master) : Nat → Int → Eng (List Byte)
  | 0, _ => return []
  | n + 1, va => do
    let b ← engLoad m (va % (2 ^ 64 : Nat)).toNat 1
    let r ← engBytes m n (va + 1)
    return b ++ r

/-- Bytes written to slice offsets of a team's core. -/
def State.scrWrite (s : State) (tm : Team) (offs : List Nat) (bs : List Byte) : State :=
  (offs.zip bs).foldl (fun s (o, b) => s.putHome (commonsKey tm.die tm.core o) [b]) s

/-- Load(k) of one operand (R225): 32 rows and the scales into the buffer of step k. -/
def mtileLoad (m : Master) (tm : Team) (d : ScrDesc) (f src : Nat) (pitch : Nat) (step : Int) (sc : Nat) (sstep : Int) (k : Nat) :
    Eng Unit := do
  let d := d.buffer k
  for j in List.range 32 do
    let bs ← engBytes m (fmtRowBytes f) ((src : Int) + k * step + j * pitch)
    modify fun s => s.scrWrite tm (d.row j (fmtRowBytes f)) bs
  let ss ← engBytes m (fmtScaleBytes f) ((sc : Int) + k * sstep)
  modify fun s => s.scrWrite tm (d.scales f) ss

/-- The descriptor of an MTILE of the issuing thread: its address is a multiple of 64 (R225). -/
def mtileDesc (a : Nat) : Op MtileDesc := do
  let va := (← readSPair a).toNat
  let (l0, _) ← locateOp va 64 64 .read false true false fun _ => none
  let (b0, e0) ← readBytes l0 64 false
  let (l1, _) ← locateOp (va + 64) 64 64 .read false true false fun _ => none
  let (b1, e1) ← readBytes l1 64 false
  if e0 != 0 || e1 != 0 then trap { cause := causePoison, code := if e0 != 0 then e0 else e1, addr := BitVec.ofNat 64 va }
  let s ← get
  let mf ← modeView s.curThread.mfmt s.curTeam.mfmt
  let d := MtileDesc.parse (b0 ++ b1) mf s.curTeam.tiles.length
  if !d.ok then illegal 0
  return d

/-- One step of an MTILE of the issuing thread: Load(k), then the MMA with MSTEP (R225). -/
def mtileOne (a k : Nat) : Op Unit := do
  let d ← mtileDesc a
  let s ← get
  let tm := s.curTeam
  let offs := (d.da.buffer k).reach d.fa ++ (d.db.buffer k).reach d.fb
  match s.scrCheck tm offs with
  | some (o, code) => trap { cause := causeAccess, code := code, step := k, addr := BitVec.ofNat 64 (windowVa tm.core o) }
  | none => pure ()
  let m : Master := ⟨tm.die, tm.core, tm.ctx, 0⟩
  let loads : Eng Unit := do
    mtileLoad m tm d.da d.fa d.a d.apitch d.astep d.asc d.asstep k
    mtileLoad m tm d.db d.fb d.b d.bpitch d.bstep d.bsc d.bsstep k
  match loads s with
  | .error (.hold va kind r) => stop (.park va kind r none)
  | .error (.wait s') => stop (.keep s' (.block (.mtile a)))
  | .error (.fail kind code) =>
    trap { cause := if kind == kindPoison then causePoison else if kind == kindXlate then causeXlate else causeAccess, code := code, step := k }
  | .ok (_, s) =>
    let s := s.flushTile tm.uid d.tile none
    let z := d.z && k == 0
    if !z && ((s.team tm.uid).tiles[d.tile]?.getD {}).isInt != (d.fa == fmtInt) then
      trap { cause := causeIllegal, code := codeTilemode, step := k }
    let (ar, as) := s.scrOperand tm (d.da.buffer k) d.fa
    let (br, bs) := s.scrOperand tm (d.db.buffer k) d.fb
    let op : MmaOp :=
      { op := 0, team := tm.uid, tile := d.tile, zero := z, afmt := d.fa, bfmt := d.fb, a := ar, b := br, ascale := as, bscale := bs }
    set ((s.updTeam tm.uid (·.updTile d.tile (applyMma op))).updThread s.cur fun t => t.setProgress (mstepWord 4 (k + 1)))

/-- The next step of a macro-sequenced instruction of a kind: MSTEP's when it is active (R224). -/
def Thread.stepOf (t : Thread) (kind : Nat) : Nat :=
  if t.progress.msb && t.progress.toNat / 2 ^ 28 % 8 == kind then t.progress.toNat % 65536 else 0

/-- `mtile [sA:sA+1]` (R225, R435): the thread blocks until the last step has applied. -/
def execMtile (p : PReg) (a : YReg) (s : State) : Host.Outcome State Fault Refusal :=
  runThread (.mtile p a) (do
    let d ← mtileDesc a.val
    if d.ks ≤ (← get).curThread.stepOf 4 then retire (.mtile p a) none
    else stopKeep (.block (.mtile a.val))) s

/-- One MTILE step of a blocked thread applies (R225); a stop leaves MSTEP at the step not yet applied (R224). -/
def execMtileStep (team tid : Nat) (s : State) : Host.Outcome State Fault Refusal :=
  match s.thread? (team, tid) with
  | none => .next s
  | some t =>
    match t.status with
    | .blocked (.mtile a) =>
      let k := t.stepOf 4
      let as (todo : List ThreadId) (s : State) : State :=
        { s with issue := some { die := (s.team team).die, core := (s.team team).core, quarter := 0, pc := t.pc, todo := todo } }
      let back (s' : State) : State := { s' with issue := s.issue }
      let s1 := as [(team, tid)] s
      match (do
          let d ← mtileDesc a
          if k < d.ks then mtileOne a k : Op Unit) s1 with
      | .ok (_, s') => .next (back s')
      | .error r =>
        let s2 := s1.updThread (team, tid) fun t => t.setProgress (mstepWord 4 k)
        .next (back (s2.onStop (r.atStep k)))
    | _ => .next s

end Sys2Proof.Machine
end

