-- ==== Sys2Proof/Machine/Sync.lean ====
section
/-! DEFINITION. The synchronisation engine: team and grid barriers (R230, R231, R384, R412), phasers (R226 to R229, R441, R442) and queue
locks (R232, R233, R427). -/
namespace Sys2Proof.Machine

/-- The built-in phaser of a team after a signal or a departure (R230): its phase completes when every member has signalled. -/
def Team.barStep (t : Team) : Team :=
  let members := (t.threads.filter fun th => !th.gone).map (·.tid)
  if !members.isEmpty && members.all t.bsignals.contains then { t with bphase := t.bphase + 1, bsignals := [] } else t

/-- What leaving BAR gives a thread: the team's mode registers (R109, R194). -/
def adoptModes : Op Unit := do
  let tm := (← get).curTeam
  modThread fun t => { t with fmode := tm.fmode, mfmt := tm.mfmt }

/-- `bar` (R230, R384): the thread signals the current phase, and leaves once the counter has passed it. -/
def execBar (p : PReg) (s : State) : Host.Outcome State Fault Refusal :=
  runThread (.bar p) (do
    let t := s.curThread
    if t.arrKind == 1 then
      if (s.curTeam.bphase - t.arrVal).msb then stop (.block .bar)
      else do
        adoptModes
        retire (.bar p) none
    else
      let target := s.curTeam.bphase + 1
      modTeam fun tm => Team.barStep { tm with bsignals := t.tid :: tm.bsignals }
      if (← get).curTeam.bphase == target then
        adoptModes
        retire (.bar p) none
      else
        modThread fun t => { t with arrKind := 1, arrVal := target }
        stopKeep (.block .bar)) s

/-- Teams of a grid (R42). -/
def Grid.teamCount (g : Grid) : Nat := g.lrec.x * g.lrec.y * g.lrec.z

/-- The grid barrier after an arrival or the end of a team (R231): when every team has arrived or ended, its generation passes. -/
def State.gbarStep (s : State) (uid : Nat) : State :=
  match s.grid? uid with
  | none => s
  | some g =>
    if g.gbar != 0 && g.gbar + g.ended == g.teamCount then
      let s := s.updGrid uid fun g => { g with gbar := 0, gbarGen := g.gbarGen + 1 }
      { s with teams := s.teams.map fun t => if t.grid == uid then { t with gbarArrived := false } else t }
    else s

/-- A team arrives at the grid barrier when each of its live threads has (R231, R412). -/
def State.gbarTeam (s : State) (uid : Nat) : State :=
  let tm := s.team uid
  let g := s.gridOf tm
  let live := tm.threads.filter fun t => !t.gone
  if !tm.gbarArrived && !live.isEmpty && live.all (fun t => t.arrKind == 2 && t.arrVal == g.gbarGen) then
    ((s.updTeam uid fun tm => { tm with gbarArrived := true }).updGrid tm.grid fun g => { g with gbar := g.gbar + 1 }).gbarStep tm.grid
  else s

/-- `gbar` (R231, R412). -/
def execGbar (p : PReg) (s : State) : Host.Outcome State Fault Refusal :=
  runThread (.gbar p) (do
    let t := s.curThread
    let gen := (s.gridOf s.curTeam).gbarGen
    if t.arrKind == 2 && t.arrVal != gen then
      acquireAt true 6
      retire (.gbar p) none
    else
      if t.arrKind != 2 then modThread fun t => { t with arrKind := 2, arrVal := gen }
      modify (·.gbarTeam s.cur.1)
      let s ← get
      if (s.gridOf s.curTeam).gbarGen != gen then
        acquireAt true 6
        retire (.gbar p) none
      else stopKeep (.block .gbar)) s

-- phasers (R226 to R229)

/-- Info codes of R234. -/
def codePhrange : Nat := 0x1B
def codePhlimit : Nat := 0x1D
def codePhmode : Nat := 0x1E

def State.phaser? (s : State) (die num : Nat) : Option Phaser := s.phasers.find? fun p => p.die == die && p.num == num
/-- A phaser replaced; one with no members is closed (R227). -/
def State.setPhaser (s : State) (p : Phaser) : State :=
  let rest := s.phasers.filter fun q => !(q.die == p.die && q.num == p.num)
  { s with phasers := if p.members.isEmpty then rest else p :: rest }
/-- A member that signals in the current phase. -/
def PhMember.signals (m : PhMember) : Bool := (m.mode == 1 || m.mode == 3) && !m.pending
/-- A member that has not announced its departure. -/
def PhMember.here (m : PhMember) : Bool := !m.leaving
def Phaser.member? (p : Phaser) (team tid : Nat) : Option PhMember := p.members.find? fun m => m.team == team && m.tid == tid
def Phaser.updMember (p : Phaser) (team tid : Nat) (f : PhMember → PhMember) : Phaser :=
  { p with members := p.members.map fun m => if m.team == team && m.tid == tid then f m else m }

/-- Complete when every signalling member has signalled (R229): the counter advances, pending registrations and departures apply. A
phaser that every member leaves closes. -/
def Phaser.step (p : Phaser) : Phaser :=
  let n := (p.members.filter (·.signals)).length
  if n != 0 && p.signals == n then
    { p with counter := p.counter + 1, signals := 0
             members := (p.members.filter (·.here)).map fun m => { m with pending := false } }
  else if p.members.all (·.leaving) then { p with members := [] }
  else p

/-- A departure (R229): at the next boundary; a signaller that has not signalled the current phase counts as having signalled it. -/
def Phaser.drop (p : Phaser) (team tid : Nat) : Phaser :=
  match p.member? team tid with
  | none => p
  | some m =>
    if m.leaving then p
    else
      let counts := m.signals && m.next == p.counter
      let p := p.updMember team tid fun m => { m with leaving := true, next := if counts then m.next + 1 else m.next }
      { p with signals := if counts then p.signals + 1 else p.signals }.step

/-- Every registration of a thread dropped (R229, R399). -/
def State.dropPhasers (s : State) (team tid : Nat) : State :=
  s.phasers.foldl (fun s p => if (p.member? team tid).isSome then s.setPhaser (p.drop team tid) else s) s

/-- The phaser number a register names, in the context's range (R226). -/
def phaserNum (a : XReg) : Op Nat := do
  let v := (← readX a.val).toNat
  let s ← get
  let c := s.ctxOf s.curTeam
  if v / 4096 != 0 || c.phCount ≤ v then illegal codePhrange
  return c.phBase + v

/-- The phaser and the issuing thread's membership, or PHMODE when it has none of a kind (R228). -/
def membership (n : Nat) (ok : PhMember → Bool) : Op (Phaser × PhMember) := do
  let s ← get
  match s.phaser? s.curTeam.die n with
  | none => illegal codePhmode
  | some ph =>
    match ph.member? s.cur.1 s.cur.2 with
    | some m => if m.here && ok m then return (ph, m) else illegal codePhmode
    | none => illegal codePhmode

/-- `phreg xD, xA, mode` (R227 to R229). -/
def execPhreg (p : PReg) (d a : XReg) (mode : Fin 64) (l : Bool) (s : State) : Host.Outcome State Fault Refusal :=
  let i : Instr := .phreg p d a mode l
  runThread i (do
    let n ← phaserNum a
    let s ← get
    let die := s.curTeam.die
    let uid := s.cur.1
    let ph := s.phaser? die n
    if (ph.bind (·.member? uid s.cur.2)).isSome then illegal codePhmode
    let others := s.phasers.filter fun q => q.die == die && q.num != n && q.members.any (·.team == uid)
    if 16 ≤ others.length then illegal codePhlimit
    let scope := match s.pfx with | some w => min (memPfx w).scope 6 | none => 2
    let ph : Phaser := ph.getD { die := die, num := n, scope := scope }
    let first := if ph.signalled then ph.counter + 1 else 0
    let m : PhMember := { team := uid, tid := s.cur.2, mode := mode.val, next := first, pending := ph.signalled }
    writeX d.val first
    modify (·.setPhaser { ph with members := ph.members ++ [m] })
    retire i s.pfx) s

/-- `phsig xD, xA` (R229): it blocks until its phase is the current one. -/
def execPhsig (p : PReg) (d a : XReg) (l : Bool) (s : State) : Host.Outcome State Fault Refusal :=
  let i : Instr := .phsig p d a l
  runThread i (do
    let n ← phaserNum a
    let (ph, m) ← membership n fun m => m.mode == 1 || m.mode == 3
    if ph.counter != m.next then stop (.block .phsig)
    writeX d.val m.next
    let s ← get
    let ph' := ph.updMember s.cur.1 s.cur.2 fun m => { m with next := m.next + 1 }
    set (s.setPhaser { ph' with signals := ph'.signals + 1, signalled := true }.step)
    retire i none) s

/-- `phwait xA, xB` (R229): it blocks until the counter has reached the phase. -/
def execPhwait (p : PReg) (a b : XReg) (l : Bool) (s : State) : Host.Outcome State Fault Refusal :=
  let i : Instr := .phwait p a b l
  runThread i (do
    let n ← phaserNum a
    let v ← readX b.val
    let (ph, _) ← membership n fun m => m.mode == 2 || m.mode == 3
    if (ph.counter - v).msb then stop (.block .phwait)
    acquireAt true ph.scope
    retire i none) s

/-- `phdrop xA` (R229). -/
def execPhdrop (p : PReg) (a : XReg) (l : Bool) (s : State) : Host.Outcome State Fault Refusal :=
  let i : Instr := .phdrop p a l
  runThread i (do
    let n ← phaserNum a
    let (ph, _) ← membership n fun _ => true
    let s ← get
    set (s.setPhaser (ph.drop s.cur.1 s.cur.2))
    retire i none) s

-- queue locks (R232, R233)

def codeNotholder : Nat := 0x1F
def codeLockplace : Nat := 0x20

/-- The identity of the issuing thread (R232). -/
def State.lockId (s : State) : LockId :=
  let tm := s.curTeam
  { ctxDie := tm.die, ctx := tm.ctx, grid := (s.gridOf tm).num, team := tm.num, tid := s.cur.2 }
def State.lock? (s : State) (key : Nat) : Option LockRec := s.locks.find? (·.key == key)
def State.setLock (s : State) (r : LockRec) : State := { s with locks := r :: s.locks.filter (·.key != r.key) }
/-- The waiters a home node keeps (R233). -/
def State.nodeWaiters (s : State) (key : Nat) : Nat :=
  let node (k : Nat) : Nat × Nat := (k / 2 ^ 52, homeNode (isDie (k / 2 ^ 52)) (k % 2 ^ 52))
  ((s.locks.filter fun r => node r.key == node key).map (·.fifo.length)).sum

/-- The lock word of a LOCK or UNLOCK (R232, R427, R305): checked, and taken to its home. -/
def lockLoc (a : XReg) : Op (Nat × Loc) := do
  let s ← get
  let tm := s.curTeam
  let c := s.ctxOf tm
  let base ← readPair a.val
  let m := memFields s.pfx
  let va := (((base.toNat : Int) + m.off) % (2 ^ 64 : Nat)).toNat
  let (l, _) ← locateOp va 8 8 .atomic false true false fun l =>
    if 3 ≤ l.home then some codeLockplace else if c.outside tm.die l then some 0x26 else none
  let lost ← dirOp l l.home true true
  if lost then trap { cause := causePoison, code := codeOwnerLost, addr := BitVec.ofNat 64 va }
  return (va, l)

/-- The lock word rewritten (R232). -/
def putLockWord (l : Loc) (v : Nat) : Op Unit := do
  let tm := (← get).curTeam
  modify fun s => s.cachedWrite tm.die tm.core l.key (bytesLE 8 v)

/-- The lock granted: LOCK returns with an acquire (R194). -/
def lockReturn (i : Instr) : Op Unit := do
  acquireAt true (memFields (← get).pfx).scope
  retire i (← get).pfx

/-- `lock [xA:xA+1]` (R232, R233). -/
def execLock (p : PReg) (a : XReg) (l : Bool) (s : State) : Host.Outcome State Fault Refusal :=
  let i : Instr := .lock p a l
  runThread i (do
    let (_, loc) ← lockLoc a
    let s ← get
    let me := s.lockId
    let r := (s.lock? loc.key).getD { key := loc.key, holder := none }
    if r.holder == some me && r.granted then
      set (s.setLock { r with granted := false })
      lockReturn i
    else if r.fifo.contains me then stop (.block .lock)
    else if r.holder.isNone then
      set (s.setLock { r with holder := some me, granted := false })
      putLockWord loc 1
      lockReturn i
    else if 1024 ≤ s.nodeWaiters loc.key then stop (.block .retry)
    else
      set (s.setLock { r with fifo := r.fifo ++ [me] })
      stopKeep (.block .lock)) s

/-- `unlock [xA:xA+1]` (R232). -/
def execUnlock (p : PReg) (a : XReg) (l : Bool) (s : State) : Host.Outcome State Fault Refusal :=
  let i : Instr := .unlock p a l
  runThread i (do
    let (va, loc) ← lockLoc a
    let s ← get
    match s.lock? loc.key with
    | some r =>
      if r.holder == some s.lockId then
        match r.fifo with
        | w :: ws => do
          set (s.setLock { r with holder := some w, granted := true, fifo := ws })
          putLockWord loc 1
        | [] => do
          set ({ s with locks := s.locks.filter (·.key != loc.key) } : State)
          putLockWord loc 0
      else startLate { cause := causeAccess, code := codeNotholder, addr := BitVec.ofNat 64 va }
    | none => startLate { cause := causeAccess, code := codeNotholder, addr := BitVec.ofNat 64 va }
    retire i s.pfx) s

end Sys2Proof.Machine
end

