-- ==== Sys2Proof/Machine/Launch.lean ====
section
/-! DEFINITION. Launches and their ends: launch records and their checks (R44, R70, R77, R97, R204, R483), save-slot sizes (R293), the
grid a launch creates (R45, R46), prologues (R74, R75), and the end of teams, grids and commands (R47, R71, R73). -/
namespace Sys2Proof.Machine

/-- One of a list, by a draw; none when it is empty. -/
def State.choose {α : Type} (s : State) (xs : List α) : Option α × State :=
  if xs.isEmpty then (none, s) else let (d, s) := s.draw; (xs[d % xs.length]?, s)
/-- A number below a bound that is not in use, by a draw. -/
def State.unused (s : State) (bound : Nat) (used : List Nat) : Nat × State :=
  let (d, s) := s.draw
  (((List.range (used.length + 1)).map fun i => (d + i) % bound).find? (fun n => !used.contains n) |>.getD 0, s)

-- launch records (R70, R204)

/-- The launch record of 64 bytes (R70). -/
def LaunchRec.parse (bs : List Byte) : LaunchRec :=
  { entry := natAt bs 0 8, x := natAt bs 8 4, y := natAt bs 12 4, z := natAt bs 16 4, teamSize := natAt bs 20 2
    widthCode := natAt bs 22 1, cohort := natAt bs 23 1, gridsync := natAt bs 24 1 % 2 == 1, quads := natAt bs 24 1 / 2 % 2 == 1
    quota := natAt bs 26 1, recipes := natAt bs 27 1, scratch := natAt bs 28 4, tiles := natAt bs 32 1, param := natAt bs 40 8
    ctlAddr := natAt bs 48 8, ctlVal := natAt bs 56 8 }
/-- The gang width a code declares, 0 for none (R70). -/
def widthOf (code : Nat) : Nat := match code with | 1 => 8 | 2 => 16 | 3 => 32 | 4 => 64 | _ => 0
/-- Gangs of a launch (R22, R293). -/
def LaunchRec.width (r : LaunchRec) : Nat := if widthOf r.widthCode == 0 then 64 else widthOf r.widthCode
def LaunchRec.gangs (r : LaunchRec) : Nat := (r.teamSize + r.width - 1) / r.width
/-- The limits of R70 and R97, but for the entry: the record's fields, its reserved bytes, and the recipe entries of a team. -/
def LaunchRec.limits (r : LaunchRec) (bs : List Byte) (isD : Bool) : Bool :=
  1 ≤ r.x && 1 ≤ r.y && 1 ≤ r.z && r.x * r.y * r.z ≤ 2 ^ 32 && 1 ≤ r.teamSize && r.teamSize ≤ 1024 && r.widthCode ≤ 4
    && 1 ≤ r.cohort && r.cohort ≤ 16 && r.x * r.y * r.z % r.cohort == 0 && natAt bs 24 1 < 4 && zeroAt bs 25 1
    && 1 ≤ r.quota && r.quota ≤ 64 && r.recipes ≤ 31 && r.scratch % 256 == 0 && r.scratch ≤ Config.sliceBytes isD - 65536
    && r.tiles ≤ 8 && zeroAt bs 33 7 && r.gangs * r.recipes ≤ Config.coreRecipes

/-- The sixteen engine context records of 256 bytes (R204). -/
def parseEctx (bs : List Byte) : List ECtxRec :=
  (List.range 16).map fun i => { tl := natAt bs (16 * i) 8, stride := natAt bs (16 * i + 8) 4, scope := natAt bs (16 * i + 12) 1 }
/-- Their limits (R204). -/
def ectxOk (bs : List Byte) : Bool :=
  (List.range 16).all fun i => natAt bs (16 * i) 8 % 16 == 0 && natAt bs (16 * i + 8) 4 % 16 == 0 && natAt bs (16 * i + 12) 1 ≤ 10
    && zeroAt bs (16 * i + 13) 3

/-- A code version of a context. -/
def Context.version? (c : Context) (num : Nat) : Option CodeVersion := c.versions.find? (·.num == num)
/-- Whether an address is an entry of a kind in a code version (R483). -/
def Context.isEntry (c : Context) (version addr : Nat) (kind : EntryKind) : Bool :=
  match c.version? version with | some v => v.entries.any fun e => e.addr == addr && e.kind == kind | none => false

-- save slots (R293)

/-- The save-slot size of a team of a launch (R293). -/
def LaunchRec.slotBytes (r : LaunchRec) : Nat :=
  let up (n k : Nat) : Nat := (n + k - 1) / k * k
  let image := 12288 + 256 * r.teamSize + 4 * r.gangs * r.quota * r.width
  up (up (up image 256 + r.scratch) 256 + 8192 * r.tiles) 4096
/-- The start of the save pool that is free for slots: less the commit buffer while the context runs on D (R293, R323). -/
def Context.poolStart (c : Context) : Nat := if c.die == 0 then 0 else c.commitSize
/-- The free bytes of the save pool (R293). -/
def Context.poolFree (c : Context) : Nat :=
  c.poolSize - c.poolStart - (c.slots.map (·.size)).sum - (c.reserved.map fun (_, z, n) => z * n).sum

-- room (R41, R76, R77)

/-- How many of a list of lanes stand on each home lane; the peak. -/
def lanePeak (isD : Bool) (lanes : List Nat) : Nat :=
  ((List.range (Config.lanes isD)).map fun l => lanes.count l).foldl max 0
/-- The lanes of n threads from a lane base (R23). -/
def teamLanes (isD : Bool) (base n : Nat) : List Nat := (List.range n).map fun t => (base + t) % Config.lanes isD
/-- The lane base for n more threads on a core, if they fit (R23, R76). -/
def laneBase (isD : Bool) (used : List Nat) (n : Nat) : Option Nat :=
  let p0 := lanePeak isD (used ++ teamLanes isD 0 n)
  let p1 := if isD then lanePeak isD (used ++ teamLanes isD 64 n) else p0
  if p1 < p0 then (if p1 ≤ Config.threadsPerLane then some 64 else none)
  else if p0 ≤ Config.threadsPerLane then some 0 else none
/-- How many teams of n threads an empty core's lanes hold, up to a number. -/
def lanesHold (isD : Bool) (n : Nat) : Nat → List Nat → Nat
  | 0, _ => 0
  | k + 1, used =>
    match laneBase isD used n with | some b => 1 + lanesHold isD n k (used ++ teamLanes isD b n) | none => 0
/-- How many teams of a launch an empty core holds, up to its cohort size (R41, R97, R147). -/
def LaunchRec.perCore (r : LaunchRec) (isD : Bool) : Nat :=
  let bytes := r.gangs * blockBytes r.quota r.width + r.scratch
  let by_ (total each : Nat) : Nat := if each == 0 then r.cohort else total / each
  min (min (by_ (Config.sliceBytes isD - 65536) bytes) (by_ Config.coreTiles r.tiles))
    (min (by_ Config.coreRecipes (r.gangs * r.recipes)) (lanesHold isD r.teamSize r.cohort []))

/-- The status of a launch (R44, R77, R420): the first failing check. `read` is false when the record or the parameter bytes were
poisoned; `eb` is the 256 bytes of engine context records. -/
def launchStatus (c : Context) (version : Nat) (bs eb : List Byte) (read : Bool) (parentDepth : Nat) : Nat :=
  let r := LaunchRec.parse bs
  let isD := isDie c.die
  if !read || !r.limits bs isD || !(r.param == 0 || ectxOk eb) || !c.isEntry version r.entry .kernel then 1
  else if 10 ≤ parentDepth then 2
  else if r.gridsync && c.poolFree < r.x * r.y * r.z * r.slotBytes then 3
  else if c.part.length * r.perCore isD < r.cohort then 4
  else 0

/-- The grid of an accepted launch, queued for placement (R44, R45, R360). Its number is any not in use (R107). -/
def State.makeGrid (s : State) (c : Context) (r : LaunchRec) (ectx : List ECtxRec) (version depth : Nat) (parentTeam parent node : Option Nat)
    (prio queue slotSeq : Nat) : Nat × State :=
  let (num, s) := s.unused (2 ^ 32) ((s.grids.filter fun g => g.die == c.die && g.ctx == c.num).map (·.num))
  let uid := s.nextId
  let s := { s with nextId := uid + 1
                    grids := s.grids ++ [{ uid := uid, die := c.die, ctx := c.num, num := num, lrec := r, ectx := ectx
                                           parentTeam := parentTeam, parent := parent, depth := depth, prio := prio, queue := queue
                                           slotSeq := slotSeq, version := version, node := node }] }
  (uid, if r.gridsync then
      s.updCtx c.die c.num fun c => { c with reserved := (uid, r.slotBytes, r.x * r.y * r.z) :: c.reserved }
    else s)

/-- The open code version sealed and made current (R361): its pages get CODE and lose W, and their translations are dropped. -/
def State.sealVersion (s : State) (die num : Nat) : State :=
  match s.ctx? die num with
  | some c =>
    match c.openVer with
    | none => s
    | some v =>
      let s := v.frames.foldl (fun s (page, _, _) =>
        match walkFrom s.mem die page 4 c.root with
        | .ok lf =>
          let d0 := lf.pte.d0 - (if lf.pte.w then 8 else 0) + (if lf.pte.code then 0 else 256)
          { s with mem := Memory.write s.mem lf.key (bytesLE 8 d0) }
        | .error _ => s) s
      let s := { s with cores := s.cores.map fun (cs : CoreState) => if cs.die == die then { cs with tlb := cs.tlb.filter (·.ctx != num) } else cs }
      s.updCtx die num fun c => { c with versions := c.versions ++ [{ v with frames := [] }], current := v.num, openVer := none }
  | none => s

-- reads of the front end

/-- Bytes read by an engine at an address of any alignment: in the widest aligned pieces up to 8. -/
def feBytes (m : Master) (va n : Nat) : Eng (List Byte) :=
  if va % 8 == 0 && n % 8 == 0 then engLoadBlocks m 8 (n / 8) va
  else if va % 4 == 0 && n % 4 == 0 then engLoadBlocks m 4 (n / 4) va
  else engLoadBlocks m 1 n va

/-- What the front end does when an access of a command does not go through (R480): a miss holds the command, a wait leaves it to be
tried again, a failure stops the queue. -/
def State.feStop (s : State) (uid idx : Nat) (r : EngStop) (m : Master) (code : Nat) : State :=
  match r with
  | .hold va k reason => (s.engineFault m 0 va k reason).updQueue uid fun q => { q with held := some (va, idx) }
  | .wait s' => s'
  | .fail _ _ => s.queueError uid idx code

/-- A LAUNCH command launches from its record (R70, R71, R75). -/
def State.tryLaunch (s : State) (uid idx : Nat) : State :=
  match s.queue? uid with
  | none => s
  | some q =>
    match (q.cmd? idx).bind (·.st), s.ctx? q.die q.ctx with
    | some (.launching lrec pro version none rerun), some c =>
      let m := feMaster q.die q.ctx
      if lrec % 64 != 0 then s.queueError uid idx errBody
      else
        let act : Eng (List Byte × List Byte) := do
          let bs ← feBytes m lrec 64
          let p := natAt bs 40 8
          let eb ← (if p == 0 then pure [] else feBytes m (p + 64) 256)
          return (bs, eb)
        match act s with
        | .error r => s.feStop uid idx r m errBody
        | .ok ((bs, eb), s) =>
          match launchStatus c version bs eb true 0 with
          | 0 =>
            let r := LaunchRec.parse bs
            let (g, s) := s.makeGrid c r (if r.param == 0 then [] else parseEctx eb) version 1 none none none q.prio uid idx
            s.setCmd uid idx (.launching lrec pro version (some g) rerun)
          | 1 => s.queueError uid idx errBody
          | n => s.finishCmd uid idx (some n)
    | _, _ => s

/-- A prologue begins (R74): one thread of the launch sequencer, x0:x1 the record's address, every other register 0; ordered as
by an acquire at system scope after what retired before it (R46, R75, R194). -/
def State.startPrologue (s : State) (q : Queue) (idx lrec entry version : Nat) : State :=
  let x := (Vector.replicate 64 { dead := false : XCell }).setIfInBounds 0 { val := BitVec.ofNat 32 lrec, dead := false }
  let t : Thread := { tid := 0, pc := BitVec.ofNat 64 entry, status := .fold s.steps
                      x := x.setIfInBounds 1 { val := BitVec.ofNat 32 (lrec / 2 ^ 32), dead := false } }
  let tm : Team :=
    { uid := s.nextId, die := q.die, ctx := q.ctx, core := 0xFFFF, grid := 0, num := 0, declared := 0, threads := [t]
      gangs := [{ quota := 64 }], quota0 := 64, version := version, prologue := some (q.uid, idx, 0) }
  let s := s.setCore (s.core q.die 0xFFFF).acquire
  { s with nextId := s.nextId + 1, teams := s.teams ++ [tm] }

-- the end of grids and teams (R47)

/-- Whether an active graph is idle (R73). -/
def State.graphIdle (s : State) (die ctx : Nat) (g : Graph) : Bool :=
  g.pend.isEmpty && g.nodes.all (·.queue.isEmpty) && !(s.grids.any fun gr => gr.die == die && gr.ctx == ctx && gr.node.isSome)
    && !(s.gfx.any fun x => x.die == die && x.ctx == ctx && (x.tiles.any (!·.prims.isEmpty) || x.frags.any (!·.ended)))
    && !(s.blends.any fun b => b.die == die && b.ctx == ctx)
/-- The GRAPH command that waits for its graph completes once it is idle (R73). -/
def State.graphCheck (s : State) (die ctx : Nat) : State :=
  match (s.ctx? die ctx).bind (·.graph) with
  | some g =>
    match g.waiting with
    | some (q, idx) =>
      if s.graphIdle die ctx g then
        (s.updCtx die ctx fun c => { c with graph := c.graph.map fun g => { g with waiting := none } }).finishCmd q idx none
      else s
    | none => s
  | none => s

/-- The command that launched a root grid, after it retired: its prologue again, or its end (R71, R75). -/
def State.rootRetired (s : State) (g : Grid) : State :=
  match s.queue? g.queue with
  | none => s
  | some q =>
    match (q.cmd? g.slotSeq).bind (·.st) with
    | some (.launching lrec pro version (some u) rerun) =>
      if u != g.uid then s
      else if rerun then
        (s.setCmd q.uid g.slotSeq (.launching lrec pro version none rerun)).startPrologue q g.slotSeq lrec pro version
      else s.finishCmd q.uid g.slotSeq none
    | _ => s

/-- A grid retires when every team has ended and every child has retired: its completion timeline is written, it is gone, and what
waited for it goes on (R46, R47, R70). `f` bounds the nesting depth (R45). -/
def State.retireGrid : Nat → State → Nat → State
  | 0, s, _ => s
  | f + 1, s, uid =>
    match s.grid? uid with
    | none => s
    | some g =>
      if g.ended != g.teamCount || s.grids.any (·.parent == some uid) then s
      else
        let m := feMaster g.die g.ctx
        let act : Eng Unit :=
          if g.lrec.ctlAddr == 0 || g.node.isSome then pure ()
          else if g.lost.contains (g.lrec.ctlAddr / 8192) then engFail kindXlate 0
          else engTimeline m g.lrec.ctlAddr g.lrec.ctlVal
        let finish (s : State) (ok : Bool) : State :=
          let s := { s with grids := s.grids.filter (·.uid != uid), teams := s.teams.filter (·.grid != uid) }
          let s := s.updCtx g.die g.ctx fun c => { c with reserved := c.reserved.filter (·.1 != uid) }
          match g.parent with
          | some p => State.retireGrid f s p
          | none =>
            if g.node.isSome then s.graphCheck g.die g.ctx
            else if ok then s.rootRetired g
            else s.queueError g.queue g.slotSeq errBody
        match act s with
        | .ok (_, s) => finish s true
        | .error (.hold va k r) => (s.updGrid uid fun g => { g with held := some va }).engineFault m 0 va k r
        | .error (.wait s') => s'.updGrid uid fun g => { g with held := some g.lrec.ctlAddr }
        | .error (.fail _ _) => finish s false

/-- The regions of a team returned to the cache (R147). -/
def State.freeRegions (s : State) (tm : Team) : State :=
  let cs := s.core tm.die tm.core
  s.setCore { cs with regions := cs.regions.filter fun r => match r.kind with
    | .block t _ => t != tm.uid
    | .scratch t => t != tm.uid
    | .tile => true }

/-- A team ends: its core resources and its save slot are free, the grid counts it (R47, R231, R292). -/
def State.endTeam (s : State) (uid : Nat) : State :=
  match s.team? uid with
  | none => s
  | some tm =>
    let s := (s.freeRegions tm).updTeam uid fun tm => { tm with status := .ended, tiles := [] }
    let s := s.updCtx tm.die tm.ctx fun c =>
      if c.slots.any (·.team == uid) then { c with slots := c.slots.filter (·.team != uid) }
      else { c with reserved := c.reserved.map fun (g, z, n) => if g == tm.grid then (g, z, n - 1) else (g, z, n) }
    let s := (s.updGrid tm.grid fun g => { g with ended := g.ended + 1 }).gbarStep tm.grid
    s.retireGrid 12 tm.grid

/-- The registers of a thread that ends are released (R399). -/
def Thread.finish (t : Thread) : Thread :=
  { t with status := .ended, handler := .none, frame := none, k := Vector.replicate 8 0, quad := .exited, infl := [], late := []
           x := t.x.map fun c => { c with dead := true, tag := 0, stored := false } }

/-- A thread ends: its phaser registrations, its place in the barriers, and the team with its last thread (R47, R229 to R231, R399). -/
def State.endThread (s : State) (id : ThreadId) : State :=
  let s := (s.updThread id Thread.finish).dropPhasers id.1 id.2
  if (s.team id.1).threads.all (·.status == .ended) then s.endTeam id.1
  else ((s.updTeam id.1 fun tm => Team.barStep { tm with bsignals := tm.bsignals.filter (· != id.2) }).gbarTeam id.1).cvShort id.1

/-- A team ended without a save (R282, R291, R321). -/
def State.killTeam (s : State) (uid : Nat) : State :=
  let tids := (s.team uid).threads.map (·.tid)
  let s := tids.foldl (fun s t => s.dropPhasers uid t) s
  (s.updTeam uid fun tm => { tm with threads := tm.threads.map Thread.finish }).endTeam uid

end Sys2Proof.Machine
end

