-- ==== Sys2Proof/Machine/Save.lean ====
section
/-! DEFINITION. The save slot of a team (R288 to R295): thread records, the team header and recipe tables, as the device writes them at a
switch-out and reads them at a switch-in; a failed restore (R299). -/
namespace Sys2Proof.Machine

/-- Info codes of R312. -/
def codeSavetimeout : Nat := 0x2C
def codeImagebad : Nat := 0x2D

/-- An access of the device made while a thread executes: a miss parks the thread, a failure traps it. -/
def engOp {α : Type} (e : Eng α) : Op α := fun s =>
  match e s with
  | .ok r => .ok r
  | .error (.hold va k r) => .error (.park va k r none)
  | .error (.wait s') => .error (.keep s' (.block .engine))
  | .error (.fail kind code) =>
    .error (.trap { cause := if kind == kindXlate then causeXlate else if kind == kindPoison then causePoison else causeAccess, code := code })

/-- Bytes written by an engine in aligned pieces of 8. -/
def feStore (m : Master) : Nat → Nat → List Byte → Eng Unit
  | 0, _, _ => pure ()
  | n + 1, va, bs => do
    engStore m va (bs.take 8)
    feStore m n (va + 8) (bs.drop 8)

/-- The device acting for a team. -/
def Team.master (tm : Team) : Master := ⟨tm.die, tm.core, tm.ctx, 0⟩

/-- Bits as a number, bit i from the i-th. -/
def maskOf (bs : List Bool) : Nat := bs.foldr (fun b n => (if b then 1 else 0) + 2 * n) 0

-- masks of R107

/-- DEADMASK: the dead registers (R103). -/
def deadMask (quota : Nat) (t : Thread) : Nat :=
  maskOf ((List.range 64).map fun n => regState quota n (t.cell n) == .dead)
/-- DROPMASK: dropped or virtual (R107). -/
def dropMask (quota : Nat) (t : Thread) : Nat :=
  maskOf ((List.range 64).map fun n => match regState quota n (t.cell n) with | .dropped | .virtual => true | _ => false)
/-- RECIPEMASK: registers with dependents (R107). -/
def recipeMask (tm : Team) (t : Thread) : Nat :=
  maskOf ((List.range 64).map fun n => !(dependents tm t [n]).isEmpty)

/-- The code of a quad state (R295). -/
def QuadState.code : QuadState → Nat | .live => 0 | .helper => 1 | .exited => 2
/-- The quad state of a code (R295). -/
def QuadState.ofCode : Nat → QuadState | 1 => .helper | 2 => .exited | _ => .live

/-- The phasers a team is registered on (R294): their numbers within the context's range, in ascending order. -/
def State.phaserNumbers (s : State) (tm : Team) : List Nat :=
  (((s.phasers.filter fun p => p.die == tm.die && p.members.any (·.team == tm.uid)).map fun p => p.num - (s.ctxOf tm).phBase).mergeSort
    fun a b => a ≤ b).take 16
/-- The phasers of registrations 0 to 15, as their numbers stood when the team was stopped (R294). -/
def State.registrations (s : State) (tm : Team) : List (Option Phaser) :=
  tm.regs.map fun n => s.phasers.find? fun p => p.die == tm.die && p.num == (s.ctxOf tm).phBase + n

/-- The thread record of R295. -/
def State.threadRecord (s : State) (tm : Team) (t : Thread) : List Byte :=
  let quota := tm.quotaOf t.tid
  let regs := s.registrations tm
  let v := t.levels.head?.getD {}
  let mem (p : Option Phaser) : Option (Phaser × PhMember) := p.bind fun p => (p.member? tm.uid t.tid).map fun m => (p, m)
  let modes := (regs.map fun p => match mem p with | some (_, m) => m.mode | none => 0).foldr (fun m n => m + 4 * n) 0
  let signalled := maskOf (regs.map fun p => match mem p with | some (p, m) => m.next != p.counter | none => false)
  let tags := t.x.toList.foldr (fun c n => c.tag + 32 * n) 0
  let frame := t.frame.getD { k := Vector.replicate 8 0, pc := 0, addr := 0, cause := 0, info := 0, seq := 0 }
  bytesLE 8 t.trapPc.toNat ++ bytesLE 4 t.mstep.toNat ++ bytesLE 4 t.fstat.toNat ++ bytesLE 1 (maskOf (false :: t.p.toList.drop 1))
    ++ bytesLE 1 (t.quad.code + (if t.frame.isSome then 4 else 0)) ++ bytesLE 2 (v.arrKind + 16 * v.arrOp) ++ bytesLE 4 v.arrVal.toNat
    ++ List.replicate 8 0 ++ bytesLE 8 (deadMask quota t) ++ bytesLE 8 (dropMask quota t) ++ bytesLE 40 tags
    ++ bytesLE 4 modes ++ bytesLE 2 signalled ++ List.replicate 2 0 ++ frame.k.toList.flatMap (fun w => bytesLE 4 w.toNat)
    ++ bytesLE 8 frame.pc.toNat ++ bytesLE 8 frame.addr.toNat ++ bytesLE 4 frame.cause.toNat ++ bytesLE 4 frame.info.toNat
    ++ bytesLE 4 frame.seq.toNat ++ List.replicate 100 0

/-- The address of a thread record in a slot (R293). -/
def recordVa (slot tid : Nat) : Nat := slot + 12288 + 256 * tid

/-- Whether a thread record has only values R295 defines (R4, R289, R299), in a team of some recipe entries: the reserved fields of FSTAT,
MSTEP and the frame's TRAPCAUSE and TRAPINFO among them (R108, R224, R278). -/
def recordOk (bs : List Byte) (recipes : Nat) : Bool :=
  natAt bs 8 4 / 2 ^ 16 % 2 ^ 12 == 0 && natAt bs 12 4 < 64 && natAt bs 144 4 < 256 && natAt bs 148 4 % 256 == 0
    && natAt bs 16 1 % 2 == 0 && natAt bs 17 1 < 8 && natAt bs 17 1 % 4 != 3 && natAt bs 18 1 % 16 ≤ 3 && zeroAt bs 19 1 && zeroAt bs 24 8
    && zeroAt bs 94 2 && zeroAt bs 156 100
    && (List.range 64).all fun n => natAt bs 48 40 / 32 ^ n % 32 ≤ recipes

/-- A register as a record has it (R96, R295). -/
def cellOf (bs : List Byte) (quota n : Nat) (c : XCell) : XCell :=
  let tag := natAt bs 48 40 / 32 ^ n % 32
  { c with tag := tag, stored := tag != 0 && n < quota && !flagAt (natAt bs 40 8) n
           dead := tag == 0 && (quota ≤ n || flagAt (natAt bs 32 8) n) }

/-- The thread record applied (R290, R292 step 4): the thread re-enters the fold at its pc. -/
def Thread.applyRecord (t : Thread) (bs : List Byte) (quota step : Nat) : Thread :=
  let t := { t with
    pc := BitVec.ofNat 64 (natAt bs 0 8)
    mstep := w32 (natAt bs 8 4)
    fstat := w32 (natAt bs 12 4)
    p := Vector.ofFn fun i => i.val == 0 || flagAt (natAt bs 16 1) i.val
    quad := QuadState.ofCode (natAt bs 17 1 % 4)
    arrKind := natAt bs 18 1 % 16
    arrOp := natAt bs 18 1 / 16
    arrVal := w32 (natAt bs 20 4)
    x := Vector.ofFn fun i => cellOf bs quota i.val (t.cell i.val)
    clause := (t.levels.head?.getD {}).clauseAt (BitVec.ofNat 64 (natAt bs 0 8))
    entry := (t.levels.head?.getD {}).entryAt (BitVec.ofNat 64 (natAt bs 0 8))
    hstep := (t.levels.head?.getD {}).hstep
    unwatched := (t.levels.head?.getD {}).unwatched
    levels := t.levels.drop 1
    frame := none
    status := .fold step }
  if natAt bs 17 1 / 4 % 2 == 1 then
    { t with handler := .trap, k := Vector.ofFn fun i => w32 (natAt bs (96 + 4 * i.val) 4), trapPc := BitVec.ofNat 64 (natAt bs 128 8)
             trapAddr := BitVec.ofNat 64 (natAt bs 136 8), trapCause := w32 (natAt bs 144 4), trapInfo := w32 (natAt bs 148 4)
             trapSeq := w32 (natAt bs 152 4) }
  else { t with handler := .none, k := Vector.replicate 8 0 }

/-- The phaser state of a thread record applied to the phasers that the header names (R292, R294, R295). -/
def State.applyPhasers (s : State) (tm : Team) (tid : Nat) (bs hdr : List Byte) : State :=
  (List.range 16).foldl (fun s i =>
    let mode := natAt bs 88 4 / 4 ^ i % 4
    let sig := flagAt (natAt bs 92 2) i
    let p? := s.phasers.find? fun p => p.die == tm.die && p.num == (s.ctxOf tm).phBase + natAt hdr (168 + 2 * i) 2
    match p?.bind fun p => (p.member? tm.uid tid).map fun m => (p, m) with
    | some (p, m) => if mode == 0 || m.leaving then s
        else s.setPhaser (p.updMember tm.uid tid fun m => { m with mode := mode, next := if m.pending then m.next
                                                                              else if sig then p.counter + 1 else p.counter })
    | none => s) s

/-- The width code of a gang width (R70). -/
def widthCodeOf (w : Nat) : Nat := match w with | 8 => 1 | 16 => 2 | 32 => 3 | 64 => 4 | _ => 0

/-- A convergence register in the header (R294). -/
def Cv.bytes (c : Cv) : List Byte :=
  let f := c.signers.head?
  bytesLE 2 c.size ++ bytesLE 2 c.signers.length ++ bytesLE 4 0 ++ bytesLE 4 ((f.map (·.word)).getD 0)
    ++ bytesLE 4 ((f.bind (·.payload)).getD 0) ++ List.replicate 16 0
    ++ bytesLE 128 (c.signers.foldl (fun n sg => n ||| 2 ^ sg.tid) 0)

/-- The team header of R294. -/
def State.header (s : State) (tm : Team) : List Byte :=
  bytesLE 4 1 ++ bytesLE 4 tm.num ++ bytesLE 4 (s.gridOf tm).num ++ bytesLE 2 tm.threads.length ++ bytesLE 1 (widthCodeOf tm.declared)
    ++ bytesLE 1 (if tm.gbarArrived then 1 else 0) ++ bytesLE 8 tm.tags.toNat ++ bytesLE 8 tm.tagErr.toNat
    ++ tm.tagCount.toList.flatMap (bytesLE 2) ++ bytesLE 4 tm.bphase.toNat ++ bytesLE 4 tm.bsignals.length
    ++ ((List.range 16).flatMap fun i => bytesLE 2 (tm.regs[i]?.getD 0xFFFF))
    ++ tm.s.toList.flatMap (fun w => bytesLE 4 w.toNat) ++ bytesLE 4 tm.fmode.toNat ++ bytesLE 4 tm.mfmt.toNat
    ++ (tm.ectx.toList.flatMap fun e => bytesLE 8 e.tl ++ bytesLE 8 e.next.toNat ++ bytesLE 1 e.scope ++ List.replicate 7 0)
    ++ tm.cv.toList.flatMap Cv.bytes
    ++ ((List.range 128).flatMap fun g => match tm.gangs[g]? with
        | some gg => bytesLE 1 gg.quota ++ bytesLE 1 gg.prio ++ [0, 0]
        | none => [0, 0, 0, 0])
    ++ bytesLE 1 (maskOf (tm.tiles.map (·.isInt))) ++ List.replicate 303 0

/-- The recipe tables of a team with E entries a gang (R293). -/
def Team.recipeTables (tm : Team) : List Byte :=
  tm.gangs.flatMap fun g => (List.range tm.recipeMax).flatMap fun j =>
    match g.recipes.find? (·.1 == j + 1) with
    | some (_, r) => bytesLE 4 r.word ++ bytesLE 4 (r.payload.getD 0) ++ bytesLE 1 (if r.ftz then 1 else 0) ++ List.replicate 7 0
    | none => List.replicate 16 0

/-- Whether a header holds only values R294 defines, for this team (R299). -/
def headerOk (bs : List Byte) (tm : Team) : Bool :=
  natAt bs 0 4 == 1 && natAt bs 12 2 == tm.threads.length && natAt bs 14 1 == widthCodeOf tm.declared && natAt bs 15 1 < 2
    && zeroAt bs 3793 303 && natAt bs 328 4 < 2 && natAt bs 332 4 < 256
    && (List.range 16).all (fun e => natAt bs (336 + 24 * e) 8 % 16 == 0 && natAt bs (352 + 24 * e) 1 ≤ 10 && zeroAt bs (353 + 24 * e) 7)
    && (List.range 16).all (fun c => zeroAt bs (724 + 160 * c) 4 && zeroAt bs (736 + 160 * c) 16 && natAt bs (720 + 160 * c) 2 ≤ 1024)
    && (List.range tm.gangs.length).all (fun g => 1 ≤ natAt bs (3280 + 4 * g) 1 && natAt bs (3280 + 4 * g) 1 ≤ 64
        && natAt bs (3281 + 4 * g) 1 ≤ 7 && zeroAt bs (3282 + 4 * g) 2)

/-- Whether recipe tables hold only values R293 defines (R4, R299). -/
def recipesOk (bs : List Byte) : Bool := (List.range (bs.length / 16)).all fun e => natAt bs (16 * e + 8) 1 < 2 && zeroAt bs (16 * e + 9) 7

/-- A convergence register from a header. -/
def cvOf (bs : List Byte) (o : Nat) (old : Cv) : Cv :=
  let mask := natAt bs (o + 32) 128
  let payload := natAt bs (o + 12) 4
  { size := natAt bs o 2
    signers := ((List.range 1024).filter (flagAt mask ·)).map fun t =>
      (old.signers.find? (·.tid == t)).getD
        { tid := t, word := natAt bs (o + 8) 4, payload := if payload == 0 then none else some payload, a := [], b := [] } }

/-- The header and the recipe tables applied at a switch-in (R292 step 1). -/
def Team.applyHeader (tm : Team) (bs rec : List Byte) : Team :=
  let modes := natAt bs 3792 1
  { tm with
    tags := BitVec.ofNat 64 (natAt bs 16 8)
    tagErr := BitVec.ofNat 64 (natAt bs 24 8)
    tagCount := Vector.ofFn fun i => natAt bs (32 + 2 * i.val) 2
    s := Vector.ofFn fun i => w32 (natAt bs (200 + 4 * i.val) 4)
    fmode := w32 (natAt bs 328 4)
    mfmt := w32 (natAt bs 332 4)
    ectx := Vector.ofFn fun i =>
      { tl := natAt bs (336 + 24 * i.val) 8, next := BitVec.ofNat 64 (natAt bs (344 + 24 * i.val) 8), scope := natAt bs (352 + 24 * i.val) 1 }
    cv := Vector.ofFn fun i => cvOf bs (720 + 160 * i.val) (tm.cvAt i.val)
    gangs := (tm.gangs.zip (List.range tm.gangs.length)).map fun (gg, g) =>
      { gg with quota := natAt bs (3280 + 4 * g) 1, prio := natAt bs (3281 + 4 * g) 1, pad := []
                recipes := (List.range tm.recipeMax).map fun j =>
                  let o := 16 * (g * tm.recipeMax + j)
                  let pl := natAt rec (o + 4) 4
                  (j + 1, { word := natAt rec o 4, payload := if pl == 0 then none else some pl, ftz := natAt rec (o + 8) 1 == 1 }) }
    tiles := (List.range tm.tiles.length).map fun i => { isInt := flagAt modes i } }

/-- A failed restore (R299): the team ends without running, an error record of kind 11, the context failed. -/
def State.restoreFail (s : State) (uid : Nat) : State :=
  let tm := s.team uid
  let s := s.killTeam uid
  let s := s.report tm.die { kind := 11, ctx := tm.ctx, code := codeImagebad, a := tm.slot.getD 0 }
  (s.raiseCtx tm.die tm.ctx (s.ctxOf tm).errVector).failCtx tm.die tm.ctx

/-- The bound code version of a team. -/
def State.bound (s : State) (tm : Team) : List (Nat × Nat) :=
  match (s.ctxOf tm).version? tm.version with | some v => v.ranges | none => []
/-- Whether an address lies in the bound code of a team (R360). -/
def State.inCode (s : State) (tm : Team) (pc : Nat) : Bool := (s.bound tm).any fun (b, n) => b ≤ pc && pc < b + n

/-- Kept registers become dropped, as the hardware does at a switch-out (R96). -/
def Thread.dropKept (t : Thread) : Thread :=
  { t with x := t.x.map fun c => { c with stored := false } }

/-- A thread's save TRET (R288): its record is written, it leaves the core, and after the last the device writes the header and the recipe
tables and frees the core. -/
def saveTret : Op Unit := do
  let s ← get
  let tm := s.curTeam
  let t := s.curThread
  let m := tm.master
  let slot := tm.slot.getD 0
  let t := t.dropKept
  engOp (feStore m 32 (recordVa slot t.tid) (s.threadRecord tm t))
  modThread fun _ => { t with status := .out, handler := .none, pc := t.trapPc, clause := none, entry := none }
  let s ← get
  let tm := s.curTeam
  if tm.threads.all fun t => t.status == .out || t.status == .ended then
    engOp (feStore m 512 slot (s.header tm))
    engOp (feStore m (2 * tm.gangs.length * tm.recipeMax) (slot + 4096) tm.recipeTables)
    modify fun s => ((s.freeRegions tm).updTeam tm.uid fun tm => { tm with status := .out }).leaveIssue
  else modify (·.leaveIssue)

/-- A thread's restore TRET (R292 step 4, R299): an acquire at system scope, and its record applied. -/
def restoreTret : Op Unit := do
  let s ← get
  let tm := s.curTeam
  let t := s.curThread
  let bs ← engOp (feBytes tm.master (recordVa (tm.slot.getD 0) t.tid) 256)
  let hdr ← engOp (feBytes tm.master (tm.slot.getD 0) 200)
  acquireAt true 10
  let s ← get
  if !recordOk bs tm.recipeMax || !s.inCode tm (natAt bs 0 8) then set (s.leaveIssue.restoreFail tm.uid)
  else
    let s := (s.updThread s.cur fun t => t.applyRecord bs (tm.quotaOf t.tid) s.steps).applyPhasers tm t.tid bs hdr
    set (s.updTeam tm.uid fun tm =>
      if tm.threads.all (fun t => t.handler != .restore) then { tm with status := .resident } else tm).leaveIssue

end Sys2Proof.Machine
end

