-- ==== Sys2Proof/Machine/Control.lean ====
section
/-! DEFINITION. Clauses and prefixes (R342 to R348), the segment enders (R25 to R28, R389, R390, R399, R437, R469), NOP, BKPT, TRAP, TRET
and SLEEP (R281, R387, R439, R452, R465). -/
namespace Sys2Proof.Machine

/-- Info codes of R312. -/
def codeCoderange : Nat := 0x2E
def codeNothandler : Nat := 0x27

-- clauses and prefixes

/-- `clause` (R342, R343): it opens a clause; inside a clause of non-zero LEN that has not ended, or after an open clause with no
instruction, it is ILLEGAL. At a segment's entry it begins the segment. -/
def execClause (len : Fin 32) (setB setA : Fin 16) (wait : Fin 4096) (s : State) : Host.Outcome State Fault Refusal :=
  runThread (.clause len setB setA wait) (do
    let t := s.curThread
    match t.clause with
    | some c => if c.left.getD 0 != 0 || (c.left.isNone && c.fresh) then illegal 0
    | none => pure ()
    modThread fun t =>
      { t with pc := t.pc + 4, entry := if t.clause.isNone then some t.pc else t.entry
               clause := some { left := if len.val == 0 then none else some len.val, setA := setA.val, setB := setB.val, wait := wait.val } }
    modify (·.stayIssue)) s

/-- `pfx` (R347): its payload is latched for the instruction it makes a unit with. -/
def execPfx (payload : Fin 33554432) (s : State) : Host.Outcome State Fault Refusal :=
  match s.cur?.bind s.thread? with
  | none => .fault .noIssuingThread
  | some _ => .next { s with issue := s.issue.map fun i => { i with pfx := some payload.val } }

-- targets

/-- The following segment of an ender (R25). -/
def following (pc : DWord) (bytes : Nat) : DWord := (pc + BitVec.ofNat 64 (bytes + 3)) &&& ~~~3#64
/-- The target of format J (R341). -/
def targetJ (pc : DWord) (off : Nat) : DWord := (pc &&& ~~~3#64) + BitVec.ofInt 64 (signedField off 20 * 4)
/-- The checks of an indirect target (R27): ALIGN, then the bound code. -/
def checkTarget (target : DWord) : Op Unit := do
  if target.toNat % 4 != 0 then trap { cause := causeAlign, addr := target }
  let s ← get
  if !s.inCode s.curTeam target.toNat then trap { cause := causeXlate, code := codeCoderange, addr := target }

/-- `next label` (R437). -/
def execNext (off : Fin 1048576) (s : State) : Host.Outcome State Fault Refusal :=
  runThread (.next off) (retireTo (.next off) (targetJ s.curThread.pc off.val)) s

/-- `nextp pN, label`: the target when the predicate is true (R26, R437). -/
def execNextp (off : Fin 1048576) (q : PReg) (s : State) : Host.Outcome State Fault Refusal :=
  runThread (.nextp off q) (do
    let t := s.curThread
    retireTo (.nextp off q) (if t.pred q.val then targetJ t.pc off.val else following t.pc 4)) s

/-- `nextp.n pN, label`: the target when the predicate is false (R26, R437). -/
def execNextpN (off : Fin 1048576) (q : PReg) (s : State) : Host.Outcome State Fault Refusal :=
  runThread (.nextpN off q) (do
    let t := s.curThread
    retireTo (.nextpN off q) (if t.pred q.val then following t.pc 4 else targetJ t.pc off.val)) s

/-- `nextx xA:xA+1` (R437). -/
def execNextx (a : XReg) (s : State) : Host.Outcome State Fault Refusal :=
  runThread (.nextx a) (do
    let v ← readPair a.val
    checkTarget v
    retireTo (.nextx a) v) s

/-- The link register written: x63, or k7 inside a handler (R390); never with a recipe. -/
def writeLink (pc : DWord) : Op Unit := writeX 63 ((following pc 4).truncate 32)

/-- `call label` (R390). -/
def execCall (off : Fin 1048576) (s : State) : Host.Outcome State Fault Refusal :=
  runThread (.call off) (do
    writeLink s.curThread.pc
    retireTo (.call off) (targetJ s.curThread.pc off.val)) s

/-- `callx xA:xA+1` (R390). -/
def execCallx (a : XReg) (s : State) : Host.Outcome State Fault Refusal :=
  runThread (.callx a) (do
    let v ← readPair a.val
    checkTarget v
    writeLink s.curThread.pc
    retireTo (.callx a) v) s

/-- `callk xA:xA+1, xD` (R48, R49, R390): the target must be a dissolve entry, and the thread enters the fold with its key. -/
def execCallk (d a : XReg) (s : State) : Host.Outcome State Fault Refusal :=
  runThread (.callk d a) (do
    let v ← readPair a.val
    let key ← readX d.val
    checkTarget v
    let tm := s.curTeam
    let entries := match (s.ctxOf tm).version? tm.version with | some v => v.dissolve | none => []
    if !entries.contains v.toNat then illegal 0
    writeLink s.curThread.pc
    modThread fun t => { t with dissolve := some key }
    retireTo (.callk d a) v) s

/-- `ret` (R390): the high half of the target comes from CODEBASE. -/
def execRet (s : State) : Host.Outcome State Fault Refusal :=
  runThread .ret (do
    let l ← readX 63
    let target : DWord := BitVec.ofNat 64 ((s.ctxOf s.curTeam).codeBase / 2 ^ 32 * 2 ^ 32 + l.toNat)
    checkTarget target
    retireTo .ret target) s

/-- `yield` (R26, R82, R469): the thread goes to the following segment, out of selection until its quarter's next selection round. -/
def execYield (s : State) : Host.Outcome State Fault Refusal :=
  runThread .yield (modify fun s =>
    (s.updThread s.cur fun t => { t.toFold (following t.pc 4) s.steps with status := .yielding }).leaveIssue) s

-- EXIT (R399)

/-- The other members of a thread's quad that are live or running helpers. -/
def quadOthers (tm : Team) (tid : Nat) : List Thread := tm.threads.filter fun t => t.tid != tid && t.tid / 4 == tid / 4 && !t.gone

/-- EXIT of a prologue (R75): launch, cancel, launch and run again, or ERR_PROLOGUE. -/
def prologueExit (q idx n : Nat) : Op Unit := do
  let s ← get
  let uid := s.cur.1
  let s := { s.leaveIssue with teams := s.teams.filter (·.uid != uid) }
  match ((s.queue? q).bind (·.cmd? idx)).bind (·.st) with
  | some (.launching lrec pro version _ _) =>
    if n == 1 then set (s.finishCmd q idx none)
    else if n ≤ 2 then set ((s.setCmd q idx (.launching lrec pro version none (n == 2))).tryLaunch q idx)
    else set (s.queueError q idx errPrologue)
  | _ => set s

/-- A thread becomes a helper that waits at its EXIT (R38, R39): it leaves every phaser, the built-in one among them (R229, R230), and a team
or grid barrier that only it held back completes. -/
def State.helperWaits (s : State) (id : ThreadId) : State :=
  let s := (s.updThread id fun t => { t with quad := .helper, handler := .none, levels := [], status := .blocked .exitHelper }).dropPhasers id.1 id.2
  (s.updTeam id.1 fun tm => Team.barStep { tm with bsignals := tm.bsignals.filter (· != id.2) }).gbarTeam id.1

/-- `exit n` (R39, R75, R399): it waits for the thread's flags and late replies; in a quad it becomes a helper until the last member exits. -/
def execExit (n : Fin 16) (s : State) : Host.Outcome State Fault Refusal :=
  runThread (.exit n) (do
    let tm := s.curTeam
    let t := s.curThread
    if t.handler == .save || t.handler == .restore then illegal 0
    match t.late with
    | (_, r) :: _ => trap r
    | [] => pure ()
    if !t.infl.isEmpty then stop .hold
    match tm.prologue with
    | some (q, idx, m) => if 65536 ≤ m then illegal 0 else prologueExit q idx n.val
    | none =>
      if tm.quads && !(quadOthers tm t.tid).isEmpty then
        modify (·.helperWaits s.cur)
        stopKeep (.block .exitHelper)
      else
        let tids := if tm.quads then (tm.threads.filter fun o => o.tid / 4 == t.tid / 4).map (·.tid) else [t.tid]
        modify (·.leaveIssue)
        modify fun s => (tids.filter fun i => (s.thread (tm.uid, i)).status != .ended).foldl (fun s i => s.endThread (tm.uid, i)) s) s

-- the rest

/-- `nop` (R439). -/
def execNop (p : PReg) (s : State) : Host.Outcome State Fault Refusal := runThread (.nop p) (retire (.nop p) none) s

/-- `bkpt` (R387). -/
def execBkpt (s : State) : Host.Outcome State Fault Refusal := runThread .bkpt (trap { cause := causeBkpt }) s

/-- `trap n` (R465). -/
def execTrap (p : PReg) (n : Fin 16) (s : State) : Host.Outcome State Fault Refusal :=
  runThread (.trap p n) (trap { cause := causeSwtrap, step := n.val }) s

/-- A thread leaves its trap handler (R281): k0 to k7 are discarded, and it resumes at TRAPPC, in the clause and the segment it was stopped in while TRAPPC
lies there (R27, R346), without watch checks when that instruction raised the WATCH (R283), and with its arrival state when it was stopped
there (R289). -/
def Thread.leaveTrap (t : Thread) (step : Nat) : Thread :=
  let v := t.levels.head?.getD {}
  let same : Bool := v.pc == some t.trapPc
  { t.settle with
    pc := t.trapPc, handler := .none, k := Vector.replicate 8 0, clause := v.clauseAt t.trapPc, entry := v.entryAt t.trapPc
    levels := t.levels.drop 1, hstep := v.hstep
    arrKind := if same then v.arrKind else 0, arrOp := if same then v.arrOp else 0, arrVal := if same then v.arrVal else 0
    unwatched := t.watchPc == some t.trapPc, watchPc := none, status := .fold step }

/-- TRET of a trap handler (R281, R283): the k registers are discarded, and the thread resumes at TRAPPC. -/
def trapTret : Op Unit := do
  let s ← get
  let t := s.curThread
  if t.trapPc.toNat % 2 != 0 then trap { cause := causeAlign, addr := t.trapPc }
  if !s.inCode s.curTeam t.trapPc.toNat then trap { cause := causeXlate, code := codeCoderange, addr := t.trapPc }
  modThread fun t => t.leaveTrap s.steps
  modify (·.leaveIssue)

/-- `tret` (R281, R288, R292, R466). -/
def execTret (s : State) : Host.Outcome State Fault Refusal :=
  runThread .tret (do
    let t := s.curThread
    match t.handler with
    | .none => illegal codeNothandler
    | h =>
      if !t.infl.isEmpty then stop .hold
      match h with
      | .save => saveTret
      | .restore => restoreTret
      | _ => trapTret) s

/-- `sleep xA` (R452): it retires, and the thread leaves selection for a number of cycles. -/
def execSleep (p : PReg) (a : XReg) (s : State) : Host.Outcome State Fault Refusal :=
  runThread (.sleep p a) (do
    let c := min (← readX a.val).toNat 1048575
    if c == 0 then retire (.sleep p a) none
    else
      applyMarks (marksOf (.sleep p a) none) []
      modThread fun t => { t.advance 4 with status := .sleeping c }
      modify (·.leaveIssue)) s

/-- A sleeping thread returns to selection (R452). -/
def execSleepEnd (team tid : Nat) (s : State) : Host.Outcome State Fault Refusal :=
  match (s.thread (team, tid)).status with
  | .sleeping _ => .next (s.updThread (team, tid) fun t => { t with status := .fold s.steps })
  | _ => .next s

/-- A stopped thread whose flag counts are zero and whose late replies have arrived enters its handler (R280). -/
def execTrapEntry (team tid : Nat) (s : State) : Host.Outcome State Fault Refusal :=
  let t := s.thread (team, tid)
  match t.status with
  | .stopping r time seq => if t.flagsClear && t.infl.isEmpty then .next (s.enterTrap (team, tid) r time seq) else .next s
  | _ => .next s

end Sys2Proof.Machine
end

