-- ==== Sys2Proof/Machine/RayMath.lean ====
section
/-! DEFINITION. The exact arithmetic of rays and rasters: FP32 as integers, ratios rounded once, the box test of R246 and the triangle test
of R247. -/
namespace Sys2Proof.Num

/-- Whether an FP32 code is finite. -/
def finite32 (w : Nat) : Bool := w / 2 ^ 23 % 256 != 255
/-- A finite FP32 value times 2^149. -/
def fixed32 (w : Nat) : Int :=
  let ex := w / 2 ^ 23 % 256
  let fr := w % 2 ^ 23
  let m : Nat := if ex == 0 then fr else (2 ^ 23 + fr) * 2 ^ (ex - 1)
  if w / 2 ^ 31 % 2 == 1 then -(m : Int) else m
/-- 2^149, the unit of `fixed32`. -/
def unit32 : Int := 2 ^ 149

/-- The quotient of two integers as a dyadic value with a sticky last bit: enough for one rounding into FP32 or FP16. -/
def ratioVal (n d : Int) : Val :=
  let neg := (n < 0) != (d < 0)
  let a := n.natAbs
  let b := d.natAbs
  if a == 0 then .fin false 0 0
  else
    let k := 512 + Nat.log2 b
    let q := a * 2 ^ k / b
    .fin neg (2 * q + (if a * 2 ^ k % b == 0 then 0 else 1)) (-(k : Int) - 1)
/-- A quotient rounded once into a format, RNE. -/
def ratioTo (f : Fmt) (n d : Int) : Nat := (finish f {} (ratioVal n d)).1

/-- A point or a direction. -/
structure V3 where
  x : Int
  y : Int
  z : Int
  deriving DecidableEq, Repr
def V3.sub (a b : V3) : V3 := ⟨a.x - b.x, a.y - b.y, a.z - b.z⟩
def V3.scale (k : Int) (a : V3) : V3 := ⟨k * a.x, k * a.y, k * a.z⟩
def V3.dot (a b : V3) : Int := a.x * b.x + a.y * b.y + a.z * b.z
def V3.cross (a b : V3) : V3 := ⟨a.y * b.z - a.z * b.y, a.z * b.x - a.x * b.z, a.x * b.y - a.y * b.x⟩

/-- A closed range of the ray parameter as two quotients with positive divisors; no upper end when unbounded. -/
structure TRange where
  lo : Int × Int
  hi : Option (Int × Int)
  deriving DecidableEq, Repr

/-- The order of two quotients with positive divisors. -/
def leRatio (a b : Int × Int) : Bool := a.1 * b.2 ≤ b.1 * a.2
/-- A range cut by a slab: the points o + t d between lo and hi on one axis. -/
def TRange.cut (r : TRange) (o d lo hi : Int) : Option TRange :=
  if d == 0 then (if lo ≤ o && o ≤ hi then some r else none)
  else
    let q (v : Int) : Int × Int := if 0 < d then (v - o, d) else (o - v, -d)
    let a := if 0 < d then q lo else q hi
    let b := if 0 < d then q hi else q lo
    let lo' := if leRatio r.lo a then a else r.lo
    let hi' := match r.hi with | some h => if leRatio b h then b else h | none => b
    if leRatio lo' hi' then some ⟨lo', some hi'⟩ else none

/-- A ray in the space of a test: origin and direction in one unit, its range of t as FP32 codes (tmax may be infinite). -/
structure RaySpace where
  o : V3
  d : V3
  tmin : Nat
  tmax : Nat
  deriving DecidableEq, Repr

/-- The t range of a ray; none when it is empty (R240). -/
def RaySpace.range (r : RaySpace) : Option TRange :=
  if !finite32 r.tmax then (if r.tmax == 0x7F800000 then some ⟨(fixed32 r.tmin, unit32), none⟩ else none)
  else if fixed32 r.tmax < fixed32 r.tmin then none
  else some ⟨(fixed32 r.tmin, unit32), some (fixed32 r.tmax, unit32)⟩

/-- The box test of R246: the t at which the ray enters a box that holds one of its points, none for a box that holds none. -/
def RaySpace.box (r : RaySpace) (lo hi : V3) : Option (Int × Int) :=
  ((((r.range.bind fun t => t.cut r.o.x r.d.x lo.x hi.x).bind fun t => t.cut r.o.y r.d.y lo.y hi.y).bind
    fun t => t.cut r.o.z r.d.z lo.z hi.z)).map (·.lo)

/-- A range cut to one side of a plane: the points o + t d at or above lo on one axis. -/
def TRange.above (r : TRange) (o d lo : Int) : Option TRange :=
  if d == 0 then (if lo ≤ o then some r else none)
  else if 0 < d then
    let a : Int × Int := (lo - o, d)
    let lo' := if leRatio r.lo a then a else r.lo
    match r.hi with
    | some h => if leRatio lo' h then some ⟨lo', some h⟩ else none
    | none => some ⟨lo', none⟩
  else
    let b : Int × Int := (o - lo, -d)
    let hi' := match r.hi with | some h => if leRatio b h then b else h | none => b
    if leRatio r.lo hi' then some ⟨r.lo, some hi'⟩ else none
/-- A range cut by a slab whose bounds are FP32 codes, times a scale; an infinite bound (R242) holds every point on its side, or none. -/
def TRange.slab (r : TRange) (o d u : Int) (lo hi : Nat) : Option TRange :=
  let low : Option TRange := if finite32 lo then r.above o d (u * fixed32 lo) else if lo == 0xFF800000 then some r else none
  low.bind fun r => if finite32 hi then r.above (-o) (-d) (-(u * fixed32 hi)) else if hi == 0x7F800000 then some r else none
/-- The box test of R246 on bounds of the treelet table: six FP32 codes, in a space of a scale. -/
def RaySpace.bounds (r : RaySpace) (u : Int) (b : List Nat) : Option (Int × Int) :=
  let at' (i : Nat) : Nat := b.getD i 0
  ((((r.range.bind fun t => t.slab r.o.x r.d.x u (at' 0) (at' 3)).bind fun t => t.slab r.o.y r.d.y u (at' 1) (at' 4)).bind
    fun t => t.slab r.o.z r.d.z u (at' 2) (at' 5))).map (·.lo)

/-- What a triangle test finds: tr as an FP32 code, u and v as FP16, and whether it is front-facing (R247). -/
structure TriHit where
  tr : Nat
  bary : Nat
  front : Bool
  deriving DecidableEq, Repr

/-- The triangle test of R247, decided exactly. -/
def RaySpace.tri (r : RaySpace) (v0 v1 v2 : V3) : Option TriHit :=
  let e1 := v1.sub v0
  let e2 := v2.sub v0
  let q := r.d.cross e2
  let det := e1.dot q
  if det == 0 then none
  else
    let sg : Int := if det < 0 then -1 else 1
    let s := r.o.sub v0
    let se := s.cross e1
    let u := sg * s.dot q
    let v := sg * r.d.dot se
    let t := sg * e2.dot se
    let dd := sg * det
    if 0 ≤ u && 0 ≤ v && u + v ≤ dd then
      let tr := ratioTo fp32 t dd
      let ok := finite32 tr && fixed32 r.tmin ≤ fixed32 tr
        && (if finite32 r.tmax then decide (fixed32 tr ≤ fixed32 r.tmax) else r.tmax == 0x7F800000)
      let inf := tr == 0x7F800000 && r.tmax == 0x7F800000
      if ok || inf then some ⟨tr, ratioTo fp16 u dd + 65536 * ratioTo fp16 v dd, decide (det < 0)⟩ else none
    else none

/-- A 3 × 4 transform of FP32 codes applied to a point (w = 1) or a direction (w = 0), in the unit of its square (R246). -/
def transform (m : List Nat) (p : V3) (w : Int) : V3 :=
  let c (i : Nat) : Int := fixed32 (m[i]?.getD 0)
  let row (i : Nat) : Int := c (4 * i) * p.x + c (4 * i + 1) * p.y + c (4 * i + 2) * p.z + w * unit32 * c (4 * i + 3)
  ⟨row 0, row 1, row 2⟩

end Sys2Proof.Num
end

