-- ==== Sys2Proof/Machine/System.lean ====
section
/-! DEFINITION. System registers (R106 to R109, R453), TSTAMP (R467), SETPRI (R448), RMAT and RDROP (R102), LAUNCH and JOINC (R418 to
R420), EMIT and the append of its record (R53, R398). -/
namespace Sys2Proof.Machine

/-- A system register of a cohort rank's scratchpad (R107, R148). -/
def State.peerScr (s : State) (tm : Team) (r : Nat) : Nat := match s.cohortTeam tm r with | some o => o.scrVa | none => 0

/-- The value of a system register for the issuing thread, FMODE and MFMT aside (R107, R453). -/
def sysReg (s : State) (num : Nat) : Nat :=
  let tm := s.curTeam
  let t := s.curThread
  let g := s.gridOf tm
  let c := s.ctxOf tm
  let w := tm.width
  let quota := tm.quotaOf t.tid
  let gang := tm.gang (tm.gangNo t.tid)
  let lq := Config.lanesPerQuarter (isDie tm.die)
  match num with
  | 0x000 => t.tid
  | 0x001 => t.tid / w
  | 0x002 => t.tid % w
  | 0x003 => tm.num % g.lrec.x
  | 0x004 => tm.num / g.lrec.x % g.lrec.y
  | 0x005 => tm.num / (g.lrec.x * g.lrec.y)
  | 0x006 => g.lrec.x
  | 0x007 => g.lrec.y
  | 0x008 => g.lrec.z
  | 0x009 => g.num
  | 0x00A => g.depth
  | 0x00B => tm.ctx
  | 0x00C => tm.die
  | 0x00D => tm.core
  | 0x00E => t.lane / lq
  | 0x00F => t.lane % lq
  | 0x010 => quota
  | 0x011 => gang.prio
  | 0x012 => windowVa tm.core gang.base
  | 0x013 => tm.scrVa
  | 0x014 => tm.scrSize
  | 0x015 => s.rankOfTeam tm
  | 0x016 => Config.commons
  | 0x017 => c.codeBase
  | 0x018 => tm.tags.toNat
  | 0x019 => tm.tagErr.toNat
  | 0x01A => t.fstat.toNat
  | 0x01D => t.mstep.toNat
  | 0x01E => c.seed.toNat
  | 0x01F => deadMask quota t
  | 0x020 => recipeMask tm t
  | 0x021 => dropMask quota t
  | 0x040 => t.trapCause.toNat
  | 0x041 => t.trapPc.toNat
  | 0x042 => t.trapAddr.toNat
  | 0x043 => t.trapInfo.toNat
  | 0x044 => t.trapSeq.toNat
  | n => if 0x30 ≤ n && n < 0x40 then s.peerScr tm (n - 0x30) else 0

/-- `srd xD, name` (R106, R453). -/
def execSrd (p : PReg) (d : XReg) (num : Fin 1024) (s : State) : Host.Outcome State Fault Refusal :=
  runThread (.srd p d num) (do
    let v ← (match num.val with
      | 0x01B => do return (← modeView s.curThread.fmode s.curTeam.fmode).toNat
      | 0x01C => do return (← modeView s.curThread.mfmt s.curTeam.mfmt).toNat
      | n => pure (sysReg s n) : Op Nat)
    let dsts := (Instr.srd p d num).dstX
    writeRegs dsts ((words64 (BitVec.ofNat 64 v)).take dsts.length) none
    retire (.srd p d num) none) s

/-- Whether a write of a system register needs a trap handler or context 0 and lacks it (R106, R107). -/
def swrPrivileged (s : State) (num : Nat) : Bool :=
  ((num == 0x01D || num == 0x041) && s.curThread.handler != .trap) || (num == 0x01E && s.curTeam.ctx != 0)

/-- The effect of a SWR with a value; reserved fields are taken as 0 (R4, R108, R109, R218, R224, R453). -/
def swrEffect (num : Nat) (v : DWord) (s : State) : State :=
  let w : Word := v.truncate 32
  let id := s.cur
  match num with
  | 0x01A => s.updThread id fun t => { t with fstat := w &&& 0x3F }
  | 0x01B => (s.updThread id fun t => { t with fmode := w &&& 1 }).updTeam id.1 fun tm => { tm with fmode := w &&& 1 }
  | 0x01C => (s.updThread id fun t => { t with mfmt := w &&& 0xFF }).updTeam id.1 fun tm => { tm with mfmt := w &&& 0xFF }
  | 0x01D => s.updThread id fun t => { t with mstep := w &&& 0xF000FFFF }
  | 0x01E => s.updCtx s.curTeam.die s.curTeam.ctx fun c => { c with seed := v }
  | 0x041 => s.updThread id fun t => { t with trapPc := v }
  | _ => s

/-- `swr name, xD` (R106, R453): a handler or firmware register out of place raises PRIV, whatever the guard. -/
def execSwr (p : PReg) (d : XReg) (num : Fin 1024) (s : State) : Host.Outcome State Fault Refusal :=
  match s.cur? with
  | none => .fault .noIssuingThread
  | some _ =>
    if swrPrivileged s num.val then .next (s.onStop (.trap { cause := causePriv }))
    else runThread (.swr p d num) (do
      let vs ← readList (Instr.swr p d num).srcX
      let hi : Word := if sr64 num.val then vs[1]?.getD 0 else 0
      modify (swrEffect num.val (pair64 (vs[0]?.getD 0) hi))
      retire (.swr p d num) none) s

/-- `tstamp xD:xD+1` (R467): the core's timestamp, never below the thread's last (R302). -/
def execTstamp (p : PReg) (d : XReg) (s : State) : Host.Outcome State Fault Refusal :=
  runThread (.tstamp p d) (do
    let v := max s.curThread.stamp (s.coreTime s.curTeam.die s.curTeam.core)
    writeRegs [d.val, d.val + 1] (words64 (BitVec.ofNat 64 v)) none
    modThread fun t => { t with stamp := v }
    retire (.tstamp p d) none) s

/-- `setpri n` (R448). -/
def execSetpri (p : PReg) (n : Fin 16) (s : State) : Host.Outcome State Fault Refusal :=
  runThread (.setpri p n) (do
    modTeam fun tm => tm.updGang (tm.gangNo s.cur.2) fun g => { g with prio := n.val }
    retire (.setpri p n) none) s

/-- RMAT over a list of registers: each dropped one is replayed and stored, a virtual one is replayed; a stop keeps those done (R102). -/
def rmatList : List Nat → Op Unit
  | [] => pure ()
  | n :: ns => fun s =>
    let t := s.curThread
    match regState (s.curTeam.quotaOf t.tid) n (t.cell n) with
    | .dropped | .virtual =>
      match replay 4 n s with
      | .ok (_, s') => rmatList ns s'
      | .error r => .error (.keep s r)
    | _ => rmatList ns s

/-- `rmat xA:xA+1` (R102). -/
def execRmat (p : PReg) (a : XReg) (s : State) : Host.Outcome State Fault Refusal :=
  runThread (.rmat p a) (do
    let m ← readPair a.val
    rmatList ((List.range 64).filter (m.getLsbD ·))
    retire (.rmat p a) none) s

/-- `rdrop xA:xA+1` (R102): each kept register becomes dropped. -/
def execRdrop (p : PReg) (a : XReg) (s : State) : Host.Outcome State Fault Refusal :=
  runThread (.rdrop p a) (do
    let m ← readPair a.val
    let q := s.curTeam.quotaOf s.cur.2
    modThread fun t => (List.range 64).foldl (fun t n =>
      if m.getLsbD n && regState q n (t.cell n) == .kept then t.setCell n { t.cell n with stored := false } else t) t
    retire (.rdrop p a) none) s

-- LAUNCH and JOINC

/-- Bytes read by the issuing thread, 64-byte line by line: the bytes, and whether none was poisoned (R420). -/
def readRange : Nat → Nat → Nat → Op (List Byte × Bool)
  | 0, _, _ => return ([], true)
  | f + 1, va, n => do
    if n == 0 then return ([], true)
    let k := min n (64 - va % 64)
    let (l, _) ← locateOp va k 1 .read false true false fun _ => none
    let (bs, err) ← readBytes l k false
    let (rest, ok) ← readRange f (va + k) (n - k)
    return (bs ++ rest, ok && err == 0)

/-- `launch xD, xA:xA+1` (R44, R420). -/
def execLaunch (p : PReg) (d a : XReg) (s : State) : Host.Outcome State Fault Refusal :=
  runThread (.launch p d a) (do
    if s.cur.2 != 0 then illegal 0
    let ra ← readPair a.val
    tryPrepare [d.val] none
    if ra.toNat % 64 != 0 then trap { cause := causeAlign, addr := ra }
    let (bs, ok1) ← readRange 2 ra.toNat 64
    let param := natAt bs 40 8
    let (eb, ok2) ← (if param == 0 then pure ([], true) else readRange 6 (param + 64) 256)
    let s ← get
    let tm := s.curTeam
    let g := s.gridOf tm
    let c := s.ctxOf tm
    let st := launchStatus c tm.version bs eb (ok1 && ok2) g.depth
    if st == 0 then
      let r := LaunchRec.parse bs
      let (_, s') := s.makeGrid c r (if param == 0 then [] else parseEctx eb) tm.version (g.depth + 1) (some tm.uid) (some g.uid) none
        g.prio g.queue g.slotSeq
      set s'
    writeX d.val (w32 st)
    retire (.launch p d a) none) s

/-- `joinc` (R418): it blocks until no grid that the team launched lives; its return acquires at die scope. -/
def execJoinc (p : PReg) (s : State) : Host.Outcome State Fault Refusal :=
  runThread (.joinc p) (do
    if s.grids.any (·.parentTeam == some s.cur.1) then stop (.block .joinc)
    acquireAt true 6
    retire (.joinc p) none) s

-- EMIT

/-- A node of the active graph of a context. -/
def State.node? (s : State) (die ctx n : Nat) : Option Node := ((s.ctx? die ctx).bind (·.graph)).bind (·.nodes[n]?)
/-- A node of the active graph changed. -/
def State.updNode (s : State) (die ctx n : Nat) (f : Node → Node) : State :=
  s.updCtx die ctx fun c => { c with graph := c.graph.map fun g => { g with nodes := g.nodes.modify n f } }
/-- Whether a node's input queue has room for one more record, beside those on their way (R53, R73). -/
def State.nodeRoom (s : State) (die ctx n : Nat) : Bool :=
  match s.node? die ctx n with
  | some nd => nd.queue.length + (s.emits.filter fun e => e.ctxDie == die && e.ctx == ctx && e.node == n).length < nd.cap
  | none => false

/-- Every page of a range checked for reading by the issuing thread, with its watch ranges where the thread itself is to read it (R283, R398,
R460). -/
def checkPages (watched : Bool) : Nat → Nat → Nat → Op Unit
  | 0, _, _ => pure ()
  | f + 1, va, n => do
    if n == 0 then return
    let k := min n (8192 - va % 8192)
    let _ ← locateOp va k 1 .read false watched false fun _ => none
    checkPages watched f (va + k) (n - k)

/-- `emit [xA:xA+1], xB` (R53, R398); its read is the engine's, which no range watches (R195, R283). -/
def execEmit (p : PReg) (a b : XReg) (l : Bool) (s : State) : Host.Outcome State Fault Refusal :=
  let i : Instr := .emit p a b l
  runThread i (do
    checkFlagRoom true
    let tm := s.curTeam
    let src := (s.gridOf tm).node
    if src.isNone then illegal 0
    let ra ← readPair a.val
    let n := (← readX b.val).toNat
    let succ := match src.bind (s.node? tm.die tm.ctx ·) with | some nd => nd.succ | none => []
    match (if 65536 ≤ n || !succ.contains n then none else s.node? tm.die tm.ctx n) with
    | some nd =>
      if nd.kind != 1 && nd.kind != 2 then illegal 0
      if ra.toNat % 4 != 0 then trap { cause := causeAlign, addr := ra }
      checkPages false 2 ra.toNat nd.recSize
      if !(← get).nodeRoom tm.die tm.ctx n then stop (.block .emit)
      let op ← freshId
      modify fun s => { s with emits := s.emits ++ [{ op := op, who := s.cur, ctxDie := tm.die, ctx := tm.ctx, va := ra.toNat
                                                      size := nd.recSize, node := n }] }
      startFlight true [] [] none (some op)
      retire i none
    | none => illegal 0) s

/-- The thread of an emitted record: its flag counts down, with a late trap when the source is poisoned (R174, R398). -/
def State.emitDone (s : State) (e : EmitOp) (late : Option TrapRec) : State :=
  let s := { s with emits := s.emits.filter (·.op != e.op) }
  let s := s.updThread e.who fun t => { t with infl := t.infl.map fun f => if f.op == some e.op then { f with late := late } else f }
  s.landFirst e.who (·.op == some e.op)

/-- The graph engine appends an emitted record (R398): a thread's records to a node in program order; a poisoned source abandons it. -/
def execEmitAppend (op : Nat) (s : State) : Host.Outcome State Fault Refusal :=
  match s.emits.find? (·.op == op) with
  | none => .next s
  | some e =>
    if e.held.isSome || (s.emits.find? fun o => o.who == e.who && o.node == e.node).map (·.op) != some op then .next s
    else
      let tm := s.team e.who.1
      match feBytes ⟨tm.die, tm.core, e.ctx, op⟩ e.va e.size s with
      | .ok (bs, s) => .next ((s.updNode e.ctxDie e.ctx e.node fun nd => { nd with queue := nd.queue ++ [bs] }).emitDone e none)
      | .error (.wait s') => .next s'
      | .error (.hold va k r) =>
        .next ({ s with emits := s.emits.map fun (o : EmitOp) => if o.op == op then { o with held := some va } else o }.engineFault
          ⟨tm.die, tm.core, e.ctx, op⟩ 0 va k r)
      | .error (.fail kind code) =>
        .next (s.emitDone e (some { cause := if kind == kindPoison then causePoison else causeAccess, code := code
                                    addr := BitVec.ofNat 64 e.va }))

end Sys2Proof.Machine
end

