-- ==== Sys2Proof/Machine/Pixel.lean ====
section
/-! DEFINITION. The raster and blend path (R262 to R270): passes and tiles, primitives, coverage, turns, blending, and the pixel instructions.
The words of an open tile stand in its slot of the owner's tile memory (R147, R263). -/
namespace Sys2Proof.Machine

def codePxnotfrag : Nat := 0x22
def codePxword : Nat := 0x23

def State.gfx? (s : State) (die ctx : Nat) : Option Gfx := s.gfx.find? fun g => g.die == die && g.ctx == ctx
def State.setGfx (s : State) (g : Gfx) : State := { s with gfx := g :: s.gfx.filter fun o => !(o.die == g.die && o.ctx == g.ctx) }
def State.updGfx (s : State) (die ctx : Nat) (f : Gfx → Gfx) : State :=
  { s with gfx := s.gfx.map fun g => if g.die == die && g.ctx == ctx then f g else g }
/-- The raster path acting for its context. -/
def Gfx.master (g : Gfx) : Master := ⟨g.die, 0xFFFF, g.ctx, 0⟩

-- tile memory (R147, R263)

/-- The tile region of a context on a core. -/
def CoreState.tileRegion (c : CoreState) (ctx : Nat) : Option Region := c.regions.find? fun r => r.kind == .tile && r.ctx == ctx
/-- The key of a tile's first word in a slot of a core. -/
def State.slotKey (s : State) (g : Gfx) (core slot words : Nat) : Nat :=
  commonsKey g.die core (((s.core g.die core).tileRegion g.ctx).elim 0 (·.base) + slot * 16384 * words)
/-- The key of a word of a pixel in an open tile. -/
def pixelKey (base words x y w : Nat) : Nat := base + ((y % 64 * 64 + x % 64) * words + w) * 4
/-- The address of the first word of a pixel on a surface (R262). -/
def Pass.pixelVa (p : Pass) (x y : Nat) : Nat := p.surface + (y * p.width + x) * p.words * 4

/-- An access of the raster path: a page declared unresolvable, or a refused one, is recorded; its words are then free values. -/
def surfTry (g : Gfx) (n : Nat) (e : Eng (List Byte)) : Eng (List Byte) := fun s =>
  let lost (kind code va : Nat) : Except EngStop (List Byte × State) :=
    let (d, s) := (s.report g.die { kind := 7, ctx := g.ctx, code := code, a := va, detail := [BitVec.ofNat 8 kind] }).draw
    .ok (bytesLE n d, s)
  match e s with
  | .error (.fail kind code) => lost kind code ((g.pass.map (·.surface)).getD 0)
  | .error (.hold va k r) => if g.doomed.contains (va / 8192) then lost kindXlate 0 va else .error (.hold va k r)
  | r => r

/-- Words written in pieces of 4 bytes. -/
def storeWords (m : Master) : Nat → Nat → List Byte → Eng Unit
  | 0, _, _ => pure ()
  | n + 1, va, bs => do
    engStore m va (bs.take 4)
    storeWords m n (va + 4) (bs.drop 4)

/-- The columns and rows of a tile that the surface has. -/
def Pass.extent (p : Pass) (t : TileWork) : Nat × Nat := (min 64 (p.width - 64 * t.tx), min 64 (p.height - 64 * t.ty))

/-- A tile's words written back to the surface (R262, R263). -/
def surfBack (g : Gfx) (p : Pass) (t : TileWork) (base : Nat) : Nat → Eng Unit
  | 0 => pure ()
  | n + 1 => do
    surfBack g p t base n
    let (cols, _) := p.extent t
    let bs := Memory.read (← get).mem (pixelKey base p.words 0 n 0) (cols * p.words * 4)
    let _ ← surfTry g 0 (do storeWords g.master (cols * p.words) (p.pixelVa (64 * t.tx) (64 * t.ty + n)) bs; return [])

/-- A row's words as a tile opens with them: loaded where the mask says, else the clear values (R262). -/
def openRow (p : Pass) (mask : Nat) (surface : List Byte) : List Byte :=
  ((List.range (surface.length / 4)).flatMap fun i =>
    let w := i % p.words
    if flagAt mask w then (surface.drop (4 * i)).take 4 else bytesLE 4 (p.clears[w]?.getD 0))

/-- A tile's rows loaded into its slot (R263). -/
def loadTile (g : Gfx) (p : Pass) (t : TileWork) (base mask : Nat) : Nat → Eng Unit
  | 0 => pure ()
  | n + 1 => do
    loadTile g p t base mask n
    let (cols, _) := p.extent t
    let bytes := cols * p.words * 4
    let row ← (if mask == 0 then pure (List.replicate bytes 0)
      else surfTry g bytes (feBytes g.master (p.pixelVa (64 * t.tx) (64 * t.ty + n)) bytes) : Eng (List Byte))
    modify fun s => { s with mem := Memory.write s.mem (pixelKey base p.words 0 n 0) (openRow p mask row) }

def Gfx.tile? (g : Gfx) (tx ty : Nat) : Option TileWork := g.tiles.find? fun t => t.tx == tx && t.ty == ty
def Gfx.updTile (g : Gfx) (tx ty : Nat) (f : TileWork → TileWork) : Gfx :=
  { g with tiles := g.tiles.map fun t => if t.tx == tx && t.ty == ty then f t else t }

/-- One tile of a list written back and closed. -/
def closeTile (g : Gfx) (p : Pass) (t : TileWork) : Eng Unit := do
  match t.slot with
  | none => pure ()
  | some k =>
    surfBack g p t ((← get).slotKey g t.owner k p.words) (p.extent t).2
    modify fun s => s.updGfx g.die g.ctx fun g => g.updTile t.tx t.ty fun t => { t with slot := none }

/-- A tile opened in a slot of its owner; with none free, the open tile whose newest primitive is lowest is written back first (R263). -/
def openTile (g : Gfx) (p : Pass) (t : TileWork) : Eng Unit := do
  if t.slot.isSome then return
  let s ← get
  let slots := (match s.ctx? g.die g.ctx with | some c => c.tileSlots | none => 0) / p.words
  let mine := g.tiles.filter fun o => o.owner == t.owner && o.slot.isSome
  let free := (List.range slots).find? fun k => mine.all (·.slot != some k)
  let k ← (match free, mine.foldl (fun (b : Option TileWork) o => match b with
        | some x => if o.newest < x.newest then some o else b | none => some o) none with
    | some k, _ => pure k
    | none, some old => do
      closeTile g p old
      pure (old.slot.getD 0)
    | none, none => pure 0 : Eng Nat)
  loadTile g p t ((← get).slotKey g t.owner k p.words) (if t.opened then 2 ^ p.words - 1 else p.load) (p.extent t).2
  modify fun s => s.updGfx g.die g.ctx fun g => g.updTile t.tx t.ty fun t => { t with slot := some k, opened := true }

/-- A step of the raster path made or held: a miss records a fault and holds it. -/
def State.gfxTry (s : State) (g : Gfx) (e : Eng Unit) : State :=
  match e s with
  | .ok (_, s') => s'
  | .error (.wait s') => s'
  | .error (.hold va k r) => (s.engineFault g.master 0 va k r).updGfx g.die g.ctx fun g => { g with held := some va }
  | .error (.fail _ _) => s
/-- Whether a step of the raster path can be made now, and the state after it, or after its miss. -/
def State.gfxDone (s : State) (g : Gfx) (e : Eng Unit) : Bool × State :=
  if g.held.isSome then (false, s) else (match e s with | .ok _ => true | .error _ => false, s.gfxTry g e)

/-- A word of a pixel written: the value it had and the one it has (R267). -/
def State.notePast (s : State) (die ctx x y : Nat) (ws : List (Nat × Nat)) : State :=
  s.updGfx die ctx fun g => { g with past := ws.foldl (fun p (w, v) => if p.contains (x, y, w, v) then p else (x, y, w, v) :: p) g.past }

-- passes (R262)

/-- The node of a kind in a context's active graph. -/
def State.nodeOfKind (s : State) (die ctx kind : Nat) : Option Nat :=
  ((s.ctx? die ctx).bind (·.graph)).bind fun g => (List.range g.nodes.length).find? fun i => (g.nodes[i]?.map (·.kind)) == some kind
/-- The record at the head of the binner's queue. -/
def State.binnerHead (s : State) (die ctx : Nat) : Option (Nat × List Byte) :=
  (s.nodeOfKind die ctx 2).bind fun n => ((s.node? die ctx n).bind (·.queue.head?)).map fun r => (n, r)
/-- Whether a binner record is a pass record (R262). -/
def isPass (r : List Byte) : Bool := flagAt (natAt r 4 1) 7

/-- Whether every byte that must be 0 around and in a pass record is (R262). -/
def passFramed (r : List Byte) : Bool := natAt r 4 1 == 128 && zeroAt r 0 4 && zeroAt r 5 59 && zeroAt r 128 128 && zeroAt r 78 2
/-- A pass record within its limits (R262). -/
def Pass.parse (r : List Byte) (ordinal : Nat) : Option Pass :=
  let b := (r.drop 64).take 64
  let p : Pass :=
    { surface := natAt b 0 8, width := natAt b 8 2, height := natAt b 10 2, words := natAt b 12 1, load := natAt b 13 1
      ops := (List.range 8).map fun i => natAt b (16 + i) 1, clears := words32 b, tl := natAt b 56 8, ordinal := ordinal }
  if p.surface % 8192 == 0 && 1 ≤ p.width && p.width ≤ 16384 && 1 ≤ p.height && p.height ≤ 16384 && 1 ≤ p.words && p.words ≤ 8
      && p.load < 2 ^ p.words && p.ops.all (· ≤ 6) && (p.ops.drop p.words).all (· == 0) && passFramed r then some p
  else none
where
  words32 (b : List Byte) : List Nat := (List.range 8).map fun i => natAt b (24 + 4 * i) 4

/-- Whether everything binned to the current pass is done (R262). -/
def State.drained (s : State) (g : Gfx) : Bool :=
  g.tiles.all (·.prims.isEmpty) && g.frags.all (·.ended) && !s.blends.any fun b => b.die == g.die && b.ctx == g.ctx

/-- The tile regions of a context's cores set up: those that lack one get it, when their slices have room (R147). -/
def State.setupTiles (s : State) (c : Context) : List Nat → Option State
  | [] => some s
  | core :: cs =>
    let k := s.core c.die core
    if (k.tileRegion c.num).isSome then s.setupTiles c cs
    else
      let n := c.tileSlots * 16384
      let slice := Config.sliceBytes (isDie c.die)
      let kept := poolReserve (s.teams.filter (·.onCore c.die core))
      match (if slice < regionBytes k.regions + n + kept + 65536 then none else freeOffset k.regions slice n) with
      | none => none
      | some o => (s.setRegions c.die core ({ kind := .tile, base := o, size := n, ctx := c.num } :: k.regions)).setupTiles c cs

/-- The pass in progress ended: every open tile written back, and the timeline raised to its ordinal (R262). -/
def endPass (g : Gfx) (p : Pass) : Eng Unit := do
  for t in g.tiles do
    closeTile g p t
  if p.tl != 0 then modify fun s => s.timelineWrite g.master p.tl p.ordinal none
  modify fun s => s.updGfx g.die g.ctx fun g =>
    { g with pass := none, tiles := [], remain := [], past := [], frags := g.frags.filter fun f => match f.who with | some id => (s.thread? id).any (·.status != .ended) | none => false }

/-- A pass begins, or its record is refused with an error record (R262). -/
def beginPass (g : Gfx) (r : List Byte) : Eng Unit := do
  let s ← get
  match s.ctx? g.die g.ctx with
  | none => pure ()
  | some c =>
    let refuse : State := s.report g.die { kind := 13, ctx := g.ctx, a := natAt r 64 8 }
    if natAt r 64 8 == 0 then set (if passFramed r then s else refuse)
    else
      match Pass.parse r (g.ordinal + 1) with
      | none => set refuse
      | some p =>
        match (if c.tileSlots < p.words || c.part.isEmpty then none else s.setupTiles c c.part) with
        | none => set refuse
        | some s => set (s.updGfx g.die g.ctx fun g =>
            { g with pass := some p, ordinal := p.ordinal, cores := c.part.mergeSort (· ≤ ·), lastSeq := none })

/-- The binner takes a pass record (R262). -/
def execPassRecord (die ctx : Nat) (s : State) : Host.Outcome State Fault Refusal :=
  match s.binnerHead die ctx with
  | none => .next s
  | some (n, r) =>
    let g := (s.gfx? die ctx).getD { die := die, ctx := ctx }
    let s := s.setGfx g
    if !isPass r || g.held.isSome || !s.drained g then .next s
    else .next (s.gfxTry g (do
      match g.pass with
      | some p => endPass g p
      | none => pure ()
      modify fun s => s.updNode die ctx n fun nd => { nd with queue := nd.queue.drop 1 }
      beginPass (((← get).gfx? die ctx).getD g) r))

-- primitives (R265, R266)

/-- A primitive of a record; none when the binner drops it (R265). -/
def Prim.parse (r : List Byte) (succ : List Nat) (isShader : Nat → Bool) (last : Option Nat) : Option Prim :=
  let seq := natAt r 0 4
  let v := (List.range 12).map fun i => natAt r (8 + 4 * i) 4
  let nan (w : Nat) : Bool := w / 2 ^ 23 % 256 == 255 && w % 2 ^ 23 != 0
  let node := natAt r 6 2
  if (match last with | some l => decide (l < seq) | none => true) && natAt r 4 1 < 4 && natAt r 5 1 ≤ 16 && zeroAt r 56 8 && !v.any nan
      && succ.contains node && isShader node then
    some { seq := seq, cull := natAt r 4 1, node := node, v := v, na := natAt r 5 1
           attrs := (List.range 48).map fun i => natAt r (64 + 4 * i) 4 }
  else none

/-- x and y of a vertex, times 2^149. -/
def Prim.xy (p : Prim) (k : Nat) : Int × Int := (Num.fixed32 (p.v[4 * k]?.getD 0), Num.fixed32 (p.v[4 * k + 1]?.getD 0))
/-- Whether every x and y is finite. -/
def Prim.finite (p : Prim) : Bool := [0, 1, 4, 5, 8, 9].all fun i => Num.finite32 (p.v[i]?.getD 0)
/-- The edge function of b − a at c. -/
def edgeFn (a b c : Int × Int) : Int := (b.1 - a.1) * (c.2 - a.2) - (b.2 - a.2) * (c.1 - a.1)
/-- Twice the exact area, with its sign (R266). -/
def Prim.area (p : Prim) : Int := edgeFn (p.xy 0) (p.xy 1) (p.xy 2)
/-- The centre of a pixel, times 2^149 (R266). -/
def centre (x y : Nat) : Int × Int := ((2 * x + 1 : Nat) * 2 ^ 148, (2 * y + 1 : Nat) * 2 ^ 148)
/-- The edge functions at a pixel centre opposite vertices 0, 1 and 2. -/
def Prim.edges (p : Prim) (x y : Nat) : List Int :=
  let c := centre x y
  [edgeFn (p.xy 1) (p.xy 2) c, edgeFn (p.xy 2) (p.xy 0) c, edgeFn (p.xy 0) (p.xy 1) c]
/-- Whether an edge from a to b, walked with the inside to its right as y grows downward, is a top or a left edge. -/
def topLeft (a b : Int × Int) : Bool := (a.2 == b.2 && decide (a.1 < b.1)) || decide (b.2 < a.2)
/-- Whether a primitive covers a pixel (R266). -/
def Prim.covers (p : Prim) (x y : Nat) : Bool :=
  let ar := p.area
  let culled := ar == 0 || (flagAt p.cull 0 && decide (0 < ar)) || (flagAt p.cull 1 && decide (ar < 0))
  let edge (e : Int) (a b : Int × Int) : Bool :=
    if ar < 0 then decide (e < 0) || (e == 0 && topLeft b a) else decide (0 < e) || (e == 0 && topLeft a b)
  !culled && (match p.edges x y with
    | [e0, e1, e2] => edge e0 (p.xy 1) (p.xy 2) && edge e1 (p.xy 2) (p.xy 0) && edge e2 (p.xy 0) (p.xy 1)
    | _ => false)

/-- The range of tiles along one axis that a primitive's bounds meet, of n pixels. -/
def tileSpan (vs : List Int) (n : Nat) : Nat × Nat :=
  let unit : Int := 2 ^ 149 * 64
  let lo := vs.foldl min (vs.head?.getD 0)
  let hi := vs.foldl max (vs.head?.getD 0)
  if hi < 0 then (1, 0) else ((max 0 (lo / unit)).toNat, min (hi / unit).toNat ((n - 1) / 64))

/-- The tiles a primitive overlaps: those its bounds meet (R265). -/
def Pass.tilesOf (p : Pass) (q : Prim) : List (Nat × Nat) :=
  let xs := [0, 1, 2].map fun k => (q.xy k).1
  let ys := [0, 1, 2].map fun k => (q.xy k).2
  let (x0, x1) := if q.finite then tileSpan xs p.width else (0, (p.width - 1) / 64)
  let (y0, y1) := if q.finite then tileSpan ys p.height else (0, (p.height - 1) / 64)
  (List.range (y1 + 1 - y0)).flatMap fun j => (List.range (x1 + 1 - x0)).map fun i => (x0 + i, y0 + j)

/-- The owner of a tile (R263). -/
def tileOwner (cores : List Nat) (tx ty : Nat) : Nat := cores[(5 * tx + 3 * ty) % max 1 cores.length]?.getD 0

/-- The owner of a tile of the pass in progress: R263's, and where that core has been vacated, the one recomputed then (R264). -/
def Gfx.ownerOf (g : Gfx) (tx ty : Nat) : Nat :=
  g.remain.foldl (fun o cs => if cs.contains o then o else tileOwner cs tx ty) (tileOwner g.cores tx ty)

/-- A primitive appended to the queue of a tile (R265). -/
def Gfx.bin (g : Gfx) (q : Prim) (t : Nat × Nat) : Gfx :=
  if (g.tile? t.1 t.2).isSome then g.updTile t.1 t.2 fun w => { w with prims := w.prims ++ [q] }
  else { g with tiles := g.tiles ++ [{ tx := t.1, ty := t.2, owner := g.ownerOf t.1 t.2, prims := [q] }] }

/-- The binner takes a primitive record (R265). -/
def execPrimitiveRecord (die ctx : Nat) (s : State) : Host.Outcome State Fault Refusal :=
  match s.binnerHead die ctx with
  | none => .next s
  | some (n, r) =>
    if isPass r then .next s
    else
      let s := s.updNode die ctx n fun nd => { nd with queue := nd.queue.drop 1 }
      match s.gfx? die ctx with
      | none => .next s
      | some g =>
        match g.pass with
        | none => .next s
        | some p =>
          let succ := match (s.nodeOfKind die ctx 3).bind (s.node? die ctx ·) with | some nd => nd.succ | none => []
          let shader (i : Nat) : Bool := match s.node? die ctx i with | some nd => nd.kind == 1 | none => false
          match Prim.parse r succ shader g.lastSeq with
          | none => .next (s.report die { kind := 13, ctx := ctx, a := natAt r 0 4 })
          | some q => .next (s.setGfx ((p.tilesOf q).foldl (fun g t => g.bin q t) { g with lastSeq := some q.seq }))

/-- The pixels of a quad at (x, y): whether each is covered (R266). Coverage under an infinite coordinate is a free value. -/
def quadCover (p : Pass) (q : Prim) (draw : Nat) (x y : Nat) : List Bool :=
  (List.range 4).map fun k =>
    let px := x + k % 2
    let py := y + k / 2
    decide (px < p.width) && decide (py < p.height) && (if q.finite then q.covers px py else Config.freeNat (draw + (py % 64 * 64 + px % 64)) % 2 == 1)

/-- The fragments of the quads of a tile that hold a covered pixel, row by row (R266). -/
def tileFrags (p : Pass) (q : Prim) (t : TileWork) (draw quad0 : Nat) : List Frag :=
  let hits := ((List.range 32).flatMap fun j => (List.range 32).map fun i => (64 * t.tx + 2 * i, 64 * t.ty + 2 * j)).filterMap fun (x, y) =>
    let cs := quadCover p q draw x y
    if cs.any id then some (x, y, cs) else none
  (hits.zip (List.range hits.length)).flatMap fun ((x, y, cs), n) =>
    (cs.zip (List.range 4)).map fun (c, k) =>
      { quad := quad0 + n, k := k, prim := q, x := x + k % 2, y := y + k / 2, covered := c, ended := !c }

/-- The owner of a tile emits the quads of its next primitive (R266); its first fragment opens the tile (R263). -/
def execRasterise (die ctx tile : Nat) (s : State) : Host.Outcome State Fault Refusal :=
  match s.gfx? die ctx with
  | none => .next s
  | some g =>
    match g.pass with
    | none => .next s
    | some p =>
      let tw := (p.width + 63) / 64
      match g.tile? (tile % tw) (tile / tw) with
      | none => .next s
      | some t =>
        match t.prims with
        | [] => .next s
        | q :: rest =>
          if g.held.isSome then .next s
          else
            let fs := tileFrags p q t s.free g.quads
            .next (s.gfxTry g (do
              if !fs.isEmpty then openTile g p t
              modify fun s => { s with free := if q.finite then s.free else s.free + 4096 }.updGfx die ctx fun g =>
                { (g.updTile t.tx t.ty fun t => { t with prims := rest, newest := if fs.isEmpty then t.newest else q.seq }) with
                  frags := g.frags ++ fs, quads := g.quads + fs.length / 4 }))

/-- A tile of a vacated core goes to its owner over the remaining cores, with its words (R264); with no slot free there, that core writes back the
open tile whose newest primitive is lowest (R263). -/
def moveTile (g : Gfx) (p : Pass) (cs : List Nat) (t : TileWork) : Eng Unit := do
  if cs.contains t.owner then return
  let own := tileOwner cs t.tx t.ty
  let put (slot : Option Nat) : Eng Unit := modify fun s => s.updGfx g.die g.ctx fun g => g.updTile t.tx t.ty fun t => { t with owner := own, slot := slot }
  match t.slot with
  | none => put none
  | some k =>
    let s ← get
    let slots := (match s.ctx? g.die g.ctx with | some c => c.tileSlots | none => 0) / p.words
    let there := ((s.gfx? g.die g.ctx).getD g).tiles.filter fun o => o.owner == own && o.slot.isSome
    let j ← (match (List.range slots).find? fun j => there.all (·.slot != some j), there.foldl (fun (b : Option TileWork) o => match b with
          | some x => if o.newest < x.newest then some o else b | none => some o) none with
      | some j, _ => pure j
      | none, some old => do
        closeTile g p old
        pure (old.slot.getD 0)
      | none, none => pure 0 : Eng Nat)
    modify fun s => { s with mem := Memory.write s.mem (s.slotKey g own j p.words) (Memory.read s.mem (s.slotKey g t.owner k p.words) (16384 * p.words)) }
    put (some j)

/-- The raster path of a context over the cores that remain, and the vacated cores' tile regions freed (R264, R147), in one step: whether a
write-back it needs can be made now. -/
def State.reassignTiles (s : State) (c : Context) (cores : List Nat) : Bool × State :=
  let untile (k : CoreState) : CoreState :=
    if k.die == c.die && !cores.contains k.num then { k with regions := k.regions.filter fun (r : Region) => !(r.kind == .tile && r.ctx == c.num) } else k
  let freed (s : State) : State := { s with cores := s.cores.map untile }
  match s.gfx? c.die c.num with
  | none => (true, freed s)
  | some g =>
    match g.pass with
    | none => (true, freed s)
    | some p =>
      let kept := g.cores.filter cores.contains
      let (cs, s) := if kept.isEmpty then (cores.mergeSort (· ≤ ·), (s.setupTiles c cores).getD s) else (kept, s)
      match s.gfxDone g (g.tiles.forM (moveTile g p cs)) with
      | (true, s) => (true, freed (s.updGfx c.die c.num fun g => { g with remain := g.remain ++ [cs] }))
      | r => r

-- turns (R267)

/-- The fragment a thread has. -/
def State.fragOf (s : State) (tm : Team) (tid : Nat) : Option (Gfx × Frag) :=
  (s.gfx? tm.die tm.ctx).bind fun g => (g.frags.find? fun f => f.who == some (tm.uid, tid)).map fun f => (g, f)
/-- Whether a team runs a pixel-work node: a successor of the rasteriser (R265, R268). -/
def State.pixelWork (s : State) (tm : Team) : Bool :=
  match (s.gridOf tm).node, (s.nodeOfKind tm.die tm.ctx 3).bind (s.node? tm.die tm.ctx ·) with
  | some n, some r => r.succ.contains n
  | _, _ => false
/-- Whether a fragment's turn is open: every covering fragment of lower sequence number at its pixel has ended its turn, and the blender
holds nothing for the pixel (R267). -/
def State.turnOpen (s : State) (g : Gfx) (f : Frag) : Bool :=
  !(g.frags.any fun o => o.x == f.x && o.y == f.y && o.covered && !o.ended && o.prim.seq < f.prim.seq)
    && !(s.blends.any fun b => b.die == g.die && b.ctx == g.ctx && b.x == f.x && b.y == f.y)
/-- A fragment's turn ended. -/
def State.endTurn (s : State) (die ctx : Nat) (who : ThreadId) : State :=
  s.updGfx die ctx fun g => { g with frags := g.frags.map fun f => if f.who == some who then { f with ended := true } else f }

/-- Turns of fragments whose thread has become a helper or has ended (R267). -/
def State.endTurns (s : State) : State :=
  { s with gfx := s.gfx.map fun (g : Gfx) => { g with frags := g.frags.map fun f =>
      match f.who with
      | some id => if !f.ended && (s.thread? id).all (·.quad != .live) then { f with ended := true } else f
      | none => f } }

/-- The key of a pixel's word in its tile, opened again when it has been written back (R263). -/
def pixelWord (g : Gfx) (p : Pass) (x y w : Nat) : Eng Nat := do
  match g.tile? (x / 64) (y / 64) with
  | none => return 0
  | some t =>
    openTile g p t
    let s ← get
    match (s.gfx? g.die g.ctx).bind (·.tile? (x / 64) (y / 64)) with
    | some t => return pixelKey (s.slotKey g t.owner (t.slot.getD 0) p.words) p.words x y w
    | none => return 0

-- the instructions (R268)

/-- What the issuing thread has of the raster path: its pass and fragment while it may still act; PXNOTFRAG outside a pixel-work node. -/
def pixelOf (w : Nat) : Op (Option (Gfx × Pass × Frag)) := do
  let s ← get
  let tm := s.curTeam
  if !s.pixelWork tm then illegal codePxnotfrag
  match (s.gfx? tm.die tm.ctx).bind (·.pass) with
  | some p => if p.words < w then illegal codePxword
  | none => pure ()
  match s.fragOf tm s.cur.2 with
  | some (g, f) => return match g.pass with | some p => if f.ended then none else some (g, p, f) | none => none
  | none => return none

/-- What PXLD gives a thread whose turn is over or that has none (R267): one of the values its word has held, as a free value says; any word
where it has no pixel (log 29). -/
def helperWord (w : Nat) : Op Nat := do
  let d ← drawFree
  let s ← get
  match (s.fragOf s.curTeam s.cur.2).bind fun (g, f) => g.pass.bind fun ps => (g.tile? (f.x / 64) (f.y / 64)).map fun _ => (g, ps, f) with
  | none => return d % 2 ^ 32
  | some (g, ps, f) =>
    let k ← engOp (pixelWord g ps f.x f.y w)
    let vs := Memory.readNat (← get).mem k 4 :: g.past.filterMap fun (x, y, o, v) => if x == f.x && y == f.y && o == w then some v else none
    return vs[d % vs.length]?.getD 0

/-- `pxld xD, w`. -/
def execPxld (p : PReg) (d : XReg) (w : Fin 64) (s : State) : Host.Outcome State Fault Refusal :=
  let i : Instr := .pxld p d w
  runThread i (do
    checkFlagRoom false
    let px ← pixelOf (w.val + 1)
    tryPrepare [d.val] none
    let v ← (match px with
      | some (g, ps, f) => do
        let s ← get
        if !s.turnOpen g f then stop (.block .engine)
        let k ← engOp (pixelWord g ps f.x f.y w.val)
        return Memory.readNat (← get).mem k 4
      | none => helperWord w.val : Op Nat)
    prepareDsts [d.val] none
    startFlight false [(d.val, w32 v)] [] none none
    retire i none) s

/-- `pxst w, xA`. -/
def execPxst (p : PReg) (w : Fin 64) (a : XReg) (l : Bool) (s : State) : Host.Outcome State Fault Refusal :=
  let i : Instr := .pxst p w a l
  runThread i (do
    checkFlagRoom true
    let v ← readX a.val
    let px ← pixelOf (w.val + 1)
    match px with
    | some (g, ps, f) => do
      if !(← get).turnOpen g f then stop (.block .engine)
      let k ← engOp (pixelWord g ps f.x f.y w.val)
      modify fun s => ({ s with mem := Memory.write s.mem k (bytesLE 4 v.toNat) }).notePast g.die g.ctx f.x f.y
        [(w.val, Memory.readNat s.mem k 4), (w.val, v.toNat)]
    | none => pure ()
    startFlight true [] [] none none
    retire i none) s

/-- `pxout xA, n`. -/
def execPxout (p : PReg) (a : XReg) (n : Fin 64) (l : Bool) (s : State) : Host.Outcome State Fault Refusal :=
  let i : Instr := .pxout p a n l
  runThread i (do
    checkFlagRoom true
    let vs ← readList ((List.range n.val).map (a.val + ·))
    let px ← pixelOf n.val
    match px with
    | some (g, _, f) => do
      if !(← get).turnOpen g f then stop (.block .engine)
      let op ← freshId
      modify fun s => { s with blends := s.blends ++ [{ op := op, die := g.die, ctx := g.ctx, who := s.cur, x := f.x, y := f.y
                                                        vals := vs.map (·.toNat) }] }
      modify fun s => s.endTurn g.die g.ctx s.cur
      startFlight true [] [] none (some op)
    | none => pure ()
    retire i none) s

/-- `pxout.discard`: the turn ends and the thread becomes a helper. -/
def execPxoutDiscard (p : PReg) (s : State) : Host.Outcome State Fault Refusal :=
  let i : Instr := .pxoutDiscard p
  runThread i (do
    let tm := s.curTeam
    let _ ← pixelOf 0
    modify fun s => s.endTurn tm.die tm.ctx s.cur
    modThread fun t => { t with quad := .helper }
    retire i none) s

-- attributes (R269)

/-- An attribute at a pixel: .p, .l or .f. Infinite inputs have no stated value: the draw. -/
def Prim.attr (q : Prim) (m i x y draw : Nat) : Nat :=
  let a (k : Nat) : Nat := q.attrs[3 * i + k]?.getD 0
  let w (k : Nat) : Nat := q.v[4 * k + 3]?.getD 0
  let nan (c : Nat) : Bool := c / 2 ^ 23 % 256 == 255 && c % 2 ^ 23 != 0
  let ins := if m == 2 then [a 0] else if m == 1 then [a 0, a 1, a 2] else [a 0, a 1, a 2, w 0, w 1, w 2]
  if q.na ≤ i then 0
  else if ins.any nan then Num.fp32.canonNan
  else if m == 2 then a 0
  else if !ins.all Num.finite32 || !q.finite then draw % 2 ^ 32
  else
    let es := q.edges x y
    let e (k : Nat) : Int := es[k]?.getD 0
    let sum (f : Nat → Int) : Int := f 0 + f 1 + f 2
    if m == 1 then Num.ratioTo Num.fp32 (sum fun k => e k * Num.fixed32 (a k)) (q.area * Num.unit32)
    else
      let den := sum fun k => e k * Num.fixed32 (w k)
      if den == 0 then 0
      else Num.ratioTo Num.fp32 (sum fun k => e k * Num.fixed32 (a k) * Num.fixed32 (w k)) (den * Num.unit32)

/-- `ipa.m xD, i` (R269). -/
def execIpa (p : PReg) (d : XReg) (m i : Fin 64) (s : State) : Host.Outcome State Fault Refusal :=
  runThread (.ipa p d m i) (do
    let s ← get
    let tm := s.curTeam
    if !s.pixelWork tm then illegal codePxnotfrag
    let f ← drawFree
    let v := match s.fragOf tm s.cur.2 with
      | some (_, fr) => fr.prim.attr m.val i.val fr.x fr.y f
      | none => f % 2 ^ 32
    writeX d.val (w32 v)
    retire (.ipa p d m i) none) s

-- blending (R267)

/-- s < d, or s ≤ d, as FP32; a NaN fails. -/
def depthPass (orEq : Bool) (s d : Nat) : Bool :=
  let nan (c : Nat) : Bool := c / 2 ^ 23 % 256 == 255 && c % 2 ^ 23 != 0
  !nan s && !nan d && (if orEq then decide (Num.fixed32 s ≤ Num.fixed32 d) else decide (Num.fixed32 s < Num.fixed32 d))
/-- Op 4: premultiplied source over destination, byte by byte. -/
def over8 (s d : Nat) : Nat :=
  let byte (w c : Nat) : Nat := bitsAt w (8 * c) 8
  let sa := byte s 3
  let one (c : Nat) : Nat := min 255 (byte s c + (2 * (byte d c * (255 - sa)) + 255) / 510)
  one 0 + 2 ^ 8 * one 1 + 2 ^ 16 * one 2 + 2 ^ 24 * one 3
/-- A blend op on a destination and a source word. -/
def blendWord (op s d : Nat) : Nat :=
  match op with
  | 0 => d
  | 2 => (Num.fadd Num.fp32 {} d s).1
  | 3 => (Num.fminmax Num.fp32 {} true true d s).1
  | 4 => over8 s d
  | _ => s

/-- The words of a pixel after a PXOUT: unchanged when a depth word fails (R267). -/
def blendPixel (ops vals ds : List Nat) : List Nat :=
  let ws := (ds.zip (List.range ds.length)).map fun (d, i) => (if vals.length ≤ i then 0 else ops[i]?.getD 0, vals[i]?.getD 0, d)
  if ws.any fun (o, s, d) => (o == 5 && !depthPass false s d) || (o == 6 && !depthPass true s d) then ds
  else ws.map fun (o, s, d) => blendWord o s d

/-- The blender applies an accepted PXOUT (R267). -/
def execBlendApply (op : Nat) (s : State) : Host.Outcome State Fault Refusal :=
  match s.blends.find? (·.op == op) with
  | none => .next s
  | some b =>
    let gone (s : State) : State := ({ s with blends := s.blends.filter (·.op != op) }).landFirst b.who fun f => f.op == some op
    match (s.gfx? b.die b.ctx).bind fun g => g.pass.map fun p => (g, p) with
    | none => .next (gone s)
    | some (g, p) =>
      if g.held.isSome then .next s
      else
        .next (s.gfxTry g (do
          let k ← pixelWord g p b.x b.y 0
          let s ← get
          let ds := (List.range p.words).map fun w => Memory.readNat s.mem (k + 4 * w) 4
          let vs := blendPixel p.ops b.vals ds
          set (gone (({ s with mem := Memory.write s.mem k (vs.flatMap (bytesLE 4)) }).notePast b.die b.ctx b.x b.y
            (((List.range p.words).zip ds) ++ ((List.range p.words).zip vs))))))

end Sys2Proof.Machine
end

