-- ==== Sys2Proof/Machine/Front.lean ====
section
/-! DEFINITION. The front end (R60 to R75, R480): notifies, the reading of slots and their seals, and the commands of a queue. -/
namespace Sys2Proof.Machine

/-- A live queue by die and number. -/
def State.queueNo (s : State) (die num : Nat) : Option Queue := s.queues.find? fun q => q.die == die && q.num == num && !q.destroyed

-- notifies (R61, R69)

/-- A host write to a notify register (R61). Bits 63 to 32 are ignored, and the relaxed-ordering attribute gives no assurance (R64): the
write is taken as it arrives. A notify that raises ERR_TAIL on a running queue is not recorded as its last tail (DESIGN CHOICE, log 98). -/
def execQueueNotify (die q : Nat) (value : DWord) (_relaxed : Bool) (s : State) : Host.Outcome State Fault Refusal :=
  match s.queueNo die q with
  | none => .next s
  | some qu =>
    let tail := value.toNat % 2 ^ 32
    let ahead := (tail + 2 ^ 32 - qu.head % 2 ^ 32) % 2 ^ 32
    let moved := (tail + 2 ^ 32 - qu.tail % 2 ^ 32) % 2 ^ 32
    let bad := decide (2 ^ qu.k < ahead) || decide (2 ^ 31 ≤ moved)
    if !bad then .next (s.updQueue qu.uid fun q => { q with tail := tail })
    else if qu.stopped.isSome then
      .next (s.report die { kind := 1, ctx := qu.ctx, code := errTail, a := qu.num, b := qu.head })
    else .next (s.queueError qu.uid qu.head errTail)

-- seals (R63)

/-- One bit of the reflected Castagnoli CRC. -/
def crcBit (c : Nat) : Nat := if c % 2 == 1 then (c / 2) ^^^ 0x82F63B78 else c / 2
/-- One byte of it. -/
def crcByte (c : Nat) (b : Byte) : Nat :=
  crcBit (crcBit (crcBit (crcBit (crcBit (crcBit (crcBit (crcBit (c ^^^ b.toNat))))))))
/-- CRC-32C of bytes (R63). -/
def crc32c (bs : List Byte) : Nat := (bs.foldl crcByte 0xFFFFFFFF) ^^^ 0xFFFFFFFF
/-- Whether a slot read at an index is accepted (R63). -/
def slotOk (bs : List Byte) (idx : Nat) : Bool :=
  natAt bs 60 4 == crc32c (bs.take 60 ++ [0, 0, 0, 0]) && natAt bs 4 4 == idx % 2 ^ 32

/-- The front end reads the slot at a queue's head (R61 to R63): accepted, to be read again, or ERR_SEAL at the eighth failure. -/
def State.readSlot (s : State) (q : Queue) : State :=
  let m := feMaster q.die q.ctx
  match engLoadBlocks m 64 1 (q.base + 64 * (q.head % 2 ^ q.k)) s with
  | .error (.hold va k r) => (s.engineFault m 0 va k r).updQueue q.uid fun q => { q with held := some (va, q.head) }
  | .error (.wait s') => s'
  | .error (.fail _ _) => s.queueError q.uid q.head errSeal
  | .ok (bs, s) =>
    if slotOk bs q.head then
      s.updQueue q.uid fun q => { q with head := (q.head + 1) % 2 ^ 32, rereads := 0, starved := false, served := s.steps
                                         cmds := q.cmds ++ [{ idx := q.head, slot := bs }] }
    else if 7 ≤ q.rereads then (s.updQueue q.uid fun q => { q with rereads := 0 }).queueError q.uid q.head errSeal
    else s.updQueue q.uid fun q => { q with rereads := q.rereads + 1 }

/-- Whether a queue has a slot to read. -/
def State.canRead (s : State) (q : Queue) : Bool :=
  q.stopped.isNone && !q.destroyed && q.held.isNone && q.head != q.tail
    && (match s.ctx? q.die q.ctx with | some c => c.migrating.isNone | none => false)

/-- Of two queues, whether the first is read before the second (R67): a starved one, then the higher priority, then round robin. -/
def Queue.before (a b : Queue) : Bool :=
  if a.starved != b.starved then a.starved
  else if a.prio != b.prio then decide (b.prio < a.prio)
  else decide (a.served < b.served)

/-- The front end of a die reads its next ready slot (R63, R67). -/
def execSlotRead (die : Nat) (s : State) : Host.Outcome State Fault Refusal :=
  let qs := s.queues.filter fun q => q.die == die && s.canRead q && q.rereads == 0
  match qs.foldl (fun (b : Option Queue) q => match b with | some x => if q.before x then some q else b | none => some q) none with
  | some q => .next (s.readSlot q)
  | none => .next s

/-- The slot at a queue's head is read again (R63). -/
def execSealReread (die q : Nat) (s : State) : Host.Outcome State Fault Refusal :=
  match s.queueNo die q with
  | some qu => if s.canRead qu && qu.rereads != 0 then .next (s.readSlot qu) else .next s
  | none => .next s

/-- A queue that has held an unread slot for 1 ms is served next (R67). -/
def execQueueStarvation (die q : Nat) (s : State) : Host.Outcome State Fault Refusal :=
  match s.queueNo die q with
  | some qu => if s.canRead qu then .next (s.updQueue qu.uid fun q => { q with starved := true }) else .next s
  | none => .next s

-- the start of commands (R65, R66)

/-- The queue and the command of an event that starts a command with a code: it stands next in slot order, its BARRIER holds, it stays
within 64 slots of the oldest, nothing holds it, and its context is not migrating (R66, R298, R300). -/
def State.startable (s : State) (die q idx : Nat) (code : Nat → Bool) : Option (Queue × Cmd × Context) :=
  match s.queueNo die q with
  | none => none
  | some qu =>
    match qu.cmd? idx, s.ctx? qu.die qu.ctx with
    | some c, some x =>
      let before := qu.cmds.takeWhile (·.idx != idx)
      let first := match qu.cmds.head? with | some f => f.idx | none => idx
      let barrier := natAt c.slot 1 1 % 2 == 1
      if c.st.isNone && code (natAt c.slot 0 1) && before.all (·.st.isSome) && (!barrier || before.all (·.st == some .done))
          && (idx + 2 ^ 32 - first) % 2 ^ 32 < 64 && qu.held.isNone && x.migrating.isNone && x.ckpt == 0 then some (qu, c, x) else none
    | _, _ => none

/-- Whether a slot's reserved flags and bytes, from `used` on in the body, are zero (R62, R65). -/
def slotPlain (slot : List Byte) (used : Nat) : Bool := natAt slot 1 1 < 4 && zeroAt slot 2 2 && zeroAt slot used (60 - used)

/-- An accepted slot with a reserved command code stops its queue (R65, R69). -/
def execErrCode (die q idx : Nat) (s : State) : Host.Outcome State Fault Refusal :=
  match s.startable die q idx (fun c => c == 0 || 9 ≤ c) with
  | some (qu, c, _) => .next (s.queueError qu.uid c.idx errCodeCode)
  | none => .next s

/-- LAUNCH command (R70, R71, R74): the open code version is sealed (R361), and the prologue, or the grid, begins. -/
def execLaunchCmd (die q idx : Nat) (s : State) : Host.Outcome State Fault Refusal :=
  match s.startable die q idx (· == 1) with
  | none => .next s
  | some (qu, c, x) =>
    if !slotPlain c.slot 24 then .next (s.queueError qu.uid c.idx errBody)
    else
      let s := s.sealVersion x.die x.num
      match s.ctx? x.die x.num with
      | none => .next s
      | some x =>
        let lrec := natAt c.slot 8 8
        let pro := natAt c.slot 16 8
        if pro != 0 && !x.isEntry x.current pro .prologue then .next (s.queueError qu.uid c.idx errBody)
        else
          let s := s.setCmd qu.uid c.idx (.launching lrec pro x.current none false)
          if pro == 0 then .next (s.tryLaunch qu.uid c.idx) else .next (s.startPrologue qu c.idx lrec pro x.current)

-- graphs (R72, R73)

/-- The successors of a node: 2-byte indices from the edge table. -/
def edgesOf (edges : List Byte) (first n : Nat) : List Nat := (List.range n).map fun i => natAt edges (2 * (first + i)) 2

/-- A node entry within its limits, with its launch record's bytes and its context records' (R72). A node of another kind has no team size: its
batch limit must be 0 (DESIGN CHOICE, log 99). -/
def parseNode (c : Context) (e : Nat) (edges nb rb eb : List Byte) : Option Node :=
  let kind := natAt nb 8 1
  let size := natAt nb 10 2
  let cap := natAt nb 12 4
  let batch := natAt nb 16 2
  let first := natAt nb 20 4
  let n := natAt nb 24 2
  let r := LaunchRec.parse rb
  let plain := kind ≤ 4 && zeroAt nb 9 1 && zeroAt nb 18 2 && zeroAt nb 26 38 && first + n ≤ e
  let capOk := 64 ≤ cap && cap ≤ 2 ^ 20 && cap == 2 ^ Nat.log2 cap
  let entry := match c.version? c.current with
    | some v => v.entries.any fun x => x.addr == r.entry && x.kind == .node && x.recSize == size
    | none => false
  let own := match kind with
    | 1 => capOk && r.limits rb (isDie c.die) && r.x == 1 && r.y == 1 && r.z == 1 && batch ≤ r.teamSize && entry && (r.param == 0 || ectxOk eb)
    | 2 => capOk && size == 256 && natAt nb 0 8 == 0 && batch == 0
    | _ => cap == 0 && size == 0 && natAt nb 0 8 == 0 && batch == 0
  if plain && own then
    some { kind := kind, lrec := if kind == 1 then r else {}, ectx := if kind == 1 && r.param != 0 then parseEctx eb else [], recSize := size
           cap := cap, batch := batch, succ := edgesOf edges first n }
  else none

/-- Whether the edges form no cycle: the nodes whose successors are all settled, taken again and again, are all of them (R72). -/
def settleNodes (ns : List Node) : Nat → List Nat → List Nat
  | 0, done => done
  | f + 1, done =>
    settleNodes ns f ((List.range ns.length).filter fun i => match ns[i]? with | some n => n.succ.all done.contains | none => false)
def acyclic (ns : List Node) : Bool := (settleNodes ns ns.length []).length == ns.length

/-- The refusals of R72 that take the nodes together. -/
def nodesOk (ns : List Node) (chunks : Nat) : Bool :=
  let kinds (k : Nat) : Nat := (ns.filter (·.kind == k)).length
  ns.all (fun n => n.succ.all fun i => match ns[i]? with | some t => t.kind != 0 | none => false)
    && acyclic ns && kinds 2 ≤ 1 && kinds 3 ≤ 1 && kinds 4 ≤ 1 && (kinds 3 == 0 || (kinds 2 == 1 && kinds 4 == 1))
    && (ns.map fun n => (n.cap * n.recSize + 4095) / 4096).sum ≤ chunks

/-- The nodes of a graph read and checked; none when one breaks a limit (R72). -/
def readNodes (m : Master) (c : Context) (e : Nat) (edges : List Byte) (tbl : Nat) : Nat → Eng (Option (List Node))
  | 0 => return some []
  | n + 1 => do
    let before ← readNodes m c e edges tbl n
    match before with
    | none => return none
    | some ns =>
      let nb ← engLoadBlocks m 64 1 (tbl + 64 * n)
      let va := natAt nb 0 8
      if natAt nb 8 1 == 1 then
        if va % 64 != 0 then return none
        let rb ← feBytes m va 64
        let p := natAt rb 40 8
        let eb ← (if p == 0 then pure [] else feBytes m (p + 64) 256)
        return (parseNode c e edges nb rb eb).map fun nd => ns ++ [nd]
      else return (parseNode c e edges nb [] []).map fun nd => ns ++ [nd]

/-- The entry records read; none when one names no shader or binner node, or has a reserved byte set (R73). -/
def readEntries (m : Master) (ns : List Node) (arr : Nat) : Nat → Eng (Option (List (Nat × List Byte)))
  | 0 => return some []
  | n + 1 => do
    let before ← readEntries m ns arr n
    match before with
    | none => return none
    | some es =>
      let eb ← engLoadBlocks m 16 1 (arr + 16 * n)
      let i := natAt eb 0 2
      match ns[i]? with
      | none => return none
      | some nd =>
        if !zeroAt eb 2 6 || (nd.kind != 1 && nd.kind != 2) then return none
        let bs ← feBytes m (natAt eb 8 8) nd.recSize
        return some (es ++ [(i, bs)])

/-- What a GRAPH command reads: the graph and its entry records; none for ERR_BODY (R72, R73). -/
def readGraph (m : Master) (c : Context) (va arr count : Nat) : Eng (Option (List Node × List (Nat × List Byte) × Nat)) := do
  if va % 64 != 0 || arr % 16 != 0 then return none
  let gb ← engLoadBlocks m 64 1 va
  let n := natAt gb 0 2
  let e := natAt gb 2 2
  let tbl := natAt gb 8 8
  let edg := natAt gb 16 8
  let pool := natAt gb 24 8
  if !(1 ≤ n && n ≤ 4096 && zeroAt gb 4 4 && tbl % 64 == 0 && edg % 8 == 0 && (e != 0 || edg == 0) && pool % 4096 == 0 && zeroAt gb 36 28) then
    return none
  let l ← engLoc m pool 8 .write false
  if l.home != c.die then return none
  let edges ← feBytes m edg (2 * e)
  match ← readNodes m c e edges tbl n with
  | none => return none
  | some ns =>
    if !nodesOk ns (natAt gb 32 4) then return none
    let es ← readEntries m ns arr count
    return es.map fun es => (ns, es, pool)

/-- Entry records appended in array order while their queues have room (R73). -/
def appendEntries : List Node → List (Nat × List Byte) → List Node × List (Nat × List Byte)
  | ns, [] => (ns, [])
  | ns, (i, bs) :: es =>
    if (match ns[i]? with | some nd => decide (nd.queue.length < nd.cap) | none => false) then
      appendEntries (ns.modify i fun nd => { nd with queue := nd.queue ++ [bs] }) es
    else (ns, (i, bs) :: es)

/-- Entry records that waited, appended as room appears (R73). -/
def State.appendPending (s : State) : State :=
  { s with ctxs := s.ctxs.map fun (c : Context) =>
      { c with graph := c.graph.map fun g => if g.pend.isEmpty then g else
          let (ns, p) := appendEntries g.nodes g.pend
          { g with nodes := ns, pend := p } } }

/-- GRAPH command (R72, R73): it starts only while the active graph is idle; the open code version is sealed first (R361). -/
def execGraph (die q idx : Nat) (s : State) : Host.Outcome State Fault Refusal :=
  match s.startable die q idx (· == 2) with
  | none => .next s
  | some (qu, c, x) =>
    if (match x.graph with | some g => !s.graphIdle x.die x.num g | none => false) then .next s
    else if !slotPlain c.slot 28 then .next (s.queueError qu.uid c.idx errBody)
    else
      let s := s.sealVersion x.die x.num
      match s.ctx? x.die x.num with
      | none => .next s
      | some x =>
        let m := feMaster x.die x.num
        let count := natAt c.slot 24 4
        match readGraph m x (natAt c.slot 8 8) (natAt c.slot 16 8) count s with
        | .error r => .next (s.feStop qu.uid c.idx r m errBody)
        | .ok (none, s) => .next (s.queueError qu.uid c.idx errBody)
        | .ok (some (ns, es, pool), s) =>
          let (ns, pend) := appendEntries ns es
          let g : Graph := { nodes := ns, waiting := if count == 0 then none else some (qu.uid, c.idx), pend := pend, pool := pool
                             version := x.current, prio := qu.prio }
          let s := s.updCtx x.die x.num fun x => { x with graph := some g }
          if count == 0 then .next (s.finishCmd qu.uid c.idx none) else .next (s.setCmd qu.uid c.idx .graphing)

-- the other commands (R65)

/-- COPY command (R65): its descriptor, which the front end reads (R480), goes to the copy engine in an engine context of the queue's context. -/
def execCopy (die q idx : Nat) (s : State) : Host.Outcome State Fault Refusal :=
  match s.startable die q idx (· == 3) with
  | none => .next s
  | some (qu, c, x) =>
    let e := natAt c.slot 16 2
    let mode := natAt c.slot 18 1
    if !slotPlain c.slot 19 || 16 ≤ e || 3 ≤ mode then .next (s.queueError qu.uid c.idx errBody)
    else
      let desc := natAt c.slot 8 8
      let m := feMaster x.die x.num
      match (if desc % 64 == 0 then engLoadBlocks m 64 4 desc else pure [] : Eng (List Byte)) s with
      | .error r => .next (s.feStop qu.uid c.idx r m errBody)
      | .ok (dbytes, s) =>
      let ec := x.ectx[e]?.getD {}
      let op := s.nextId
      let k := if ec.tl == 0 then none else some ec.next.toNat
      let out : OpOut := { team := none, die := x.die, ctx := x.num, ectx := e, k := ec.next.toNat, tl := ec.tl, scope := ec.scope }
      let s := if k.isNone then s
        else { s.updCtx x.die x.num (fun x => { x with ectx := x.ectx.setIfInBounds e { ec with next := ec.next + 1 } }) with
               ops := s.ops ++ [out] }
      let copy : CopyOp :=
        { op := op, die := x.die, core := 0xFFFF, ctx := x.num, who := none, desc := desc, dbytes := dbytes, sofs := 0, dofs := 0, mode := mode
          tag := 0, ectx := e, k := k, receivers := [], mask := none, cmd := some (qu.uid, c.idx) }
      .next (({ s with nextId := op + 1, copies := s.copies ++ [copy] } : State).setCmd qu.uid c.idx (.copying op))

/-- A WAIT looks at its timeline (R65). -/
def State.tryWait (s : State) (qu : Queue) (idx tl n : Nat) : State :=
  let m := feMaster qu.die qu.ctx
  match engLoad m tl 8 s with
  | .ok (bs, s) => if natLE bs < n then s else s.finishCmd qu.uid idx none
  | .error r => s.feStop qu.uid idx r m errBody

/-- WAIT command (R65). -/
def execWait (die q idx : Nat) (s : State) : Host.Outcome State Fault Refusal :=
  match s.startable die q idx (· == 4) with
  | none => .next s
  | some (qu, c, _) =>
    let tl := natAt c.slot 8 8
    let n := natAt c.slot 16 8
    if !slotPlain c.slot 24 || tl % 16 != 0 then .next (s.queueError qu.uid c.idx errBody)
    else .next ((s.setCmd qu.uid c.idx (.waiting tl n)).tryWait qu c.idx tl n)

/-- A waiting WAIT whose timeline has reached its value completes (R65). -/
def execWaitComplete (die q idx : Nat) (s : State) : Host.Outcome State Fault Refusal :=
  match s.queues.find? fun x => x.die == die && x.num == q with
  | none => .next s
  | some qu =>
    match (qu.cmd? idx).bind (·.st) with
    | some (.waiting tl n) => if qu.held.isSome then .next s else .next (s.tryWait qu idx tl n)
    | _ => .next s

/-- SIGNAL command (R65): a timeline never moves back. -/
def execSignal (die q idx : Nat) (s : State) : Host.Outcome State Fault Refusal :=
  match s.startable die q idx (· == 5) with
  | none => .next s
  | some (qu, c, _) =>
    let tl := natAt c.slot 8 8
    let m := feMaster qu.die qu.ctx
    if !slotPlain c.slot 24 || tl % 16 != 0 then .next (s.queueError qu.uid c.idx errBody)
    else match engTimeline m tl (natAt c.slot 16 8) s with
      | .ok (_, s) => .next (s.finishCmd qu.uid c.idx none)
      | .error r => .next (s.feStop qu.uid c.idx r m errBody)

/-- The cached translations of a context on a die dropped: those that touch a range, or all (R65, R162). -/
def State.dropTlb (s : State) (die ctx va len : Nat) : State :=
  { s with cores := s.cores.map fun (c : CoreState) => if c.die != die then c else
      { c with tlb := c.tlb.filter fun (t : TlbEntry) =>
          !(t.ctx == ctx && (len == 0 || (t.page * pageBytes t.level < va + len && va < (t.page + 1) * pageBytes t.level))) } }

/-- MAPSYNC command (R65). -/
def execMapsync (die q idx : Nat) (s : State) : Host.Outcome State Fault Refusal :=
  match s.startable die q idx (· == 6) with
  | none => .next s
  | some (qu, c, x) =>
    if !slotPlain c.slot 24 then .next (s.queueError qu.uid c.idx errBody)
    else .next ((s.dropTlb x.die x.num (natAt c.slot 8 8) (natAt c.slot 16 8)).finishCmd qu.uid c.idx none)

/-- A switch of a failed context: its resident teams end without a save (R282). -/
def State.dropFailed (s : State) (die ctx : Nat) : State :=
  ((s.teams.filter fun t => t.die == die && t.ctx == ctx && t.status != .ended && t.status != .out && t.prologue.isNone).map (·.uid)).foldl
    (fun (s : State) uid => if (s.team? uid).any (·.status != .ended) then s.killTeam uid else s) s

/-- CHECKPOINT command (R65, R301, R304). -/
def execCheckpoint (die q idx : Nat) (s : State) : Host.Outcome State Fault Refusal :=
  match s.startable die q idx (· == 7) with
  | none => .next s
  | some (qu, c, x) =>
    if !slotPlain c.slot 8 then .next (s.queueError qu.uid c.idx errBody)
    else if x.die == 0 || !x.checkpoint then .next (s.finishCmd qu.uid c.idx (some 4))
    else if x.failed then .next ((s.dropFailed x.die x.num).finishCmd qu.uid c.idx (some 6))
    else .next ((s.setCmd qu.uid c.idx .checkpointing).updCtx x.die x.num fun x => { x with ckptWanted := true })

/-- MIGRATE command (R65, R300, R301). -/
def execMigrate (die q idx : Nat) (s : State) : Host.Outcome State Fault Refusal :=
  match s.startable die q idx (· == 8) with
  | none => .next s
  | some (qu, c, x) =>
    let t := natAt c.slot 8 1
    if !slotPlain c.slot 9 || 3 ≤ t then .next (s.queueError qu.uid c.idx errBody)
    else if !s.present t then .next (s.finishCmd qu.uid c.idx (some 1))
    else if !x.migratable then .next (s.finishCmd qu.uid c.idx (some 2))
    else if t == x.die then .next (s.finishCmd qu.uid c.idx (some 3))
    else if x.failed then .next ((s.dropFailed x.die x.num).finishCmd qu.uid c.idx (some 6))
    else .next ((s.setCmd qu.uid c.idx .migrating).updCtx x.die x.num fun x => { x with migrating := some t })

end Sys2Proof.Machine
end

