-- ==== Sys2Proof/Machine/Rays.lean ====
section
/-! DEFINITION. The ray engine (09_rays.md): TRACE, RAYLD and HITRPT, acceptance (R240, R248, R251), dispatches of the mill (R252 to R255),
the intersection of a treelet (R243 to R247), the end of a ray (R257) and lost scene data (R259, R260). -/
namespace Sys2Proof.Machine

def codeHitcode : Nat := 0x21

def Ray.master (r : Ray) : Master := ⟨r.die, r.core, r.ctx, r.op⟩
def TraceOp.master (o : TraceOp) : Master := ⟨o.die, o.core, o.ctx, o.op⟩
def HitOp.master (o : HitOp) : Master := ⟨o.die, o.core, o.ctx, o.op⟩
def State.updRay (s : State) (op : Nat) (f : Ray → Ray) : State := { s with rays := s.rays.map fun r => if r.op == op then f r else r }
def State.ray? (s : State) (op : Nat) : Option Ray := s.rays.find? (·.op == op)
/-- A ray that is still traversing or judged counts against its scene's M (R251). -/
def Ray.inFlight (r : Ray) : Bool := match r.place with | .ending _ | .ended _ | .closing => false | _ => true

-- holds of the ray engine (R260)

/-- The hold in which a ray or dispatch waits for a page. -/
def MillHold.has (h : MillHold) (m : Master) (va : Nat) : Bool := h.die == m.die && h.ctx == m.ctx && h.va / 8192 == va / 8192 && h.who.contains m.op
/-- A miss of the ray engine (R260): the ray joins those that wait for the page, the first of them with a fault record. -/
def State.millMiss (s : State) (m : Master) (va : Nat) (k : AccKind) (reason : Nat) : State :=
  let same (h : MillHold) : Bool := h.die == m.die && h.ctx == m.ctx && h.va / 8192 == va / 8192 && !h.doomed
  if s.millHolds.any same then
    { s with millHolds := s.millHolds.map fun h => if same h && !h.who.contains m.op then { h with who := m.op :: h.who } else h }
  else { s.engineFault m 0 va k reason with millHolds := s.millHolds ++ [{ die := m.die, ctx := m.ctx, who := [m.op], va := va }] }
/-- How an access of the ray engine went. -/
inductive MillRes (α : Type) where
  | ok (a : α) (s : State)
  /-- It waits. -/
  | held (s : State)
  /-- It failed, with a KIND and an info code. -/
  | bad (kind code : Nat) (s : State)
/-- An access of the ray engine: a miss holds it; a page declared unresolvable fails it (R260). -/
def State.millTry {α : Type} (s : State) (m : Master) (e : Eng α) : MillRes α :=
  match e s with
  | .ok (a, s') => .ok a s'
  | .error (.wait s') => .held s'
  | .error (.fail kind code) => .bad kind code s
  | .error (.hold va k reason) =>
    let lost (h : MillHold) : Bool := h.has m va && h.doomed
    let told (h : MillHold) : Option MillHold :=
      if !lost h then some h else if h.who == [m.op] then none else some { h with who := h.who.filter (· != m.op) }
    if s.millHolds.any lost then .bad kindXlate 0 { s with millHolds := s.millHolds.filterMap told }
    else .held (s.millMiss m va k reason)

-- the end of a ray (R257)

/-- Scenes whose last ray has ended leave the set (R251), and pages that only rays now gone waited for are waited for no longer. -/
def State.dropScenes (s : State) : State :=
  { s with scenes := s.scenes.filter fun sc => s.rays.any fun r => r.inFlight && r.die == sc.die && r.ctx == sc.ctx && r.sd == sc.sd
           millHolds := s.millHolds.filter fun h => !h.doomed || h.who.any fun op => s.rays.any (·.op == op) }

/-- The error record of a failed ray (R260): the KIND and the record's address, and the scene's. -/
def State.rayError (s : State) (r : Ray) (kind code : Nat) : State :=
  s.report r.die { kind := 7, ctx := r.ctx, code := code, a := r.ra, b := r.sd, detail := [BitVec.ofNat 8 kind] }

/-- An operation of a ray counts as complete, and the ray is gone (R257 step 3). -/
def State.rayGone (s : State) (r : Ray) (err : Nat) : State :=
  let s := { s with rays := s.rays.filter (·.op != r.op) }
  match r.num with | some (e, k) => s.completeOp r.master (some r.who.1) e k err | none => s
def State.rayDone (s : State) (r : Ray) (err : Nat) : State := (s.rayGone r err).dropScenes

/-- The waiting thread has its status (R257 step 2): the engine writes kind 00, and the operation is complete. -/
def State.rayClose (s : State) (r : Ray) : State :=
  match s.millTry r.master (if r.owns then engStore r.master (r.ra + 48) (bytesLE 8 0) else pure ()) with
  | .ok _ s => s.rayGone r r.err
  | .held s => s.updRay r.op fun r => { r with place := .closing }
  | .bad kind code s => (s.rayError r kind code).rayGone r (if r.err == 0 then kind else r.err)

-- the instructions

/-- TRACE and TRACE.wait (R248): `d` is the destination of TRACE.wait. -/
def traceBody (i : Instr) (d : Option XReg) (a : XReg) (b : YReg) : Op Unit := do
  let s ← get
  let tm := s.curTeam
  if d.isNone then checkFlagRoom true
  let ra ← readPair a.val
  let sd ← readSPair b.val
  if ra.toNat % 64 != 0 then trap { cause := causeAlign, addr := ra }
  if sd.toNat % 64 != 0 then trap { cause := causeAlign, addr := sd }
  let _ ← locateOp ra.toNat 64 64 .write false false false fun _ => none
  let _ ← locateOp sd.toNat 64 64 .read false false false fun _ => none
  let s ← get
  let mine (who : ThreadId) (wait : Bool) (r : Nat) : Bool := d.isSome && who == s.cur && wait && r == ra.toNat
  match d, s.rays.find? (fun r => mine r.who r.wait r.ra) with
  | some d, some r =>
    match r.place with
    | .ended st =>
      tryPrepare [d.val] none
      acquireAt true r.scope
      writeX d.val (w32 st)
      retire i s.pfx
      modify fun s => s.rayClose r
    | _ => stop (.block .ray)
  | _, _ =>
    if s.traces.any (fun o => mine o.who o.wait o.ra) then stop (.block .ray)
    if 64 ≤ (s.traces.filter fun o => o.die == tm.die && o.core == tm.core).length then stop (.block .engine)
    let (num, scope) ← (match s.pfx with
      | none => pure (none, 2)
      | some w => do
        let e := engPfx w
        let scope := if e.own then (tm.ectxAt e.ectx).scope else e.scope
        if e.untrk then return (none, scope)
        let (k, s') := (← get).takeNumber tm.uid e.ectx
        set s'
        return (k.map fun k => (e.ectx, k), scope) : Op (Option (Nat × Nat) × Nat))
    let op ← freshId
    let g := s.gridOf tm
    modify fun s => { s with traces := s.traces ++ [{ op := op, die := tm.die, core := tm.core, ctx := tm.ctx, who := s.cur, wait := d.isSome
                                                      ra := ra.toNat, sd := sd.toNat, num := num, scope := scope, node := g.node
                                                      isNode := g.node.isSome }] }
    match d with
    | some _ => stopKeep (.block .ray)
    | none =>
      startFlight true [] [] none (some op)
      retire i s.pfx

/-- `trace [xA:xA+1], sB:sB+1` (R248). -/
def execTrace (p : PReg) (a : XReg) (b : YReg) (l : Bool) (s : State) : Host.Outcome State Fault Refusal :=
  runThread (.trace p a b l) (traceBody (.trace p a b l) none a b) s

/-- `trace.wait xD, [xA:xA+1], sB:sB+1` (R248). -/
def execTraceWait (p : PReg) (d a : XReg) (b : YReg) (l : Bool) (s : State) : Host.Outcome State Fault Refusal :=
  runThread (.traceWait p d a b l) (traceBody (.traceWait p d a b l) (some d) a b) s

/-- `rayld xD, [xA:xA+1], q` (R249): a load of one quarter of a ray record. -/
def execRayld (p : PReg) (d a : XReg) (q : Fin 4) (l : Bool) (s : State) : Host.Outcome State Fault Refusal :=
  let i : Instr := .rayld p d a q l
  runThread i (do
    checkFlagRoom false
    let ra ← readPair a.val
    if ra.toNat % 64 != 0 then trap { cause := causeAlign, addr := ra }
    loadBody i 6 (memFields s.pfx) (ra.toNat + 16 * q.val) (quadR d.val)) s

/-- `hitrpt [xA:xA+1], xB` (R256). -/
def execHitrpt (p : PReg) (a b : XReg) (l : Bool) (s : State) : Host.Outcome State Fault Refusal :=
  let i : Instr := .hitrpt p a b l
  runThread i (do
    let ca ← readPair a.val
    let dec ← readX b.val
    if 2 < dec.toNat then illegal codeHitcode
    if ca.toNat % 32 != 0 then trap { cause := causeAlign, addr := ca }
    let _ ← locateOp ca.toNat 32 32 .read false false false fun _ => none
    let op ← freshId
    let tm := s.curTeam
    modify fun s => { s with hits := s.hits ++ [{ op := op, die := tm.die, core := tm.core, ctx := tm.ctx, grid := tm.grid, ca := ca.toNat, dec := dec.toNat }] }
    retire i none) s

/-- An ended ray acts on its continuation (R238, R257 step 2): a waiting thread collects its status itself; a node gets its record once
its queue has room. -/
def State.rayContinue (s : State) (r : Ray) : State :=
  match r.place with
  | .closing => s.rayClose r
  | .ended st =>
    if r.wait then (if (s.thread? r.who).all (·.status == .ended) then s.rayDone r r.err else s)
    else
      match s.millTry r.master (if r.owns then engLoadBlocks r.master 8 1 (r.ra + 48) else pure []) with
      | .held s => s
      | .bad kind code s => (s.rayError r kind code).rayDone r (if r.err == 0 then kind else r.err)
      | .ok bs s =>
        let c := natLE bs
        if c / 2 ^ 62 != 2 then s.rayDone r r.err
        else
          match s.node? r.die r.ctx (c % 65536) with
          | some nd =>
            if nd.kind != 1 || nd.recSize != 16 then (s.rayError r kindDescbad 0).rayDone r kindDescbad
            else if s.nodeRoom r.die r.ctx (c % 65536) then
              let rec' := bytesLE 8 r.ra ++ bytesLE 4 (c / 65536) ++ bytesLE 1 st ++ [0, 0, 0]
              (s.updNode r.die r.ctx (c % 65536) fun nd => { nd with queue := nd.queue ++ [rec'] }).rayDone r r.err
            else s
          | none => (s.rayError r kindDescbad 0).rayDone r kindDescbad
  | _ => s

/-- A ray's record that is still to write (R257, R260): its last three quarters, 16 bytes each (R236). -/
def engRecord (m : Master) (ra : Nat) (bs : List Byte) : Eng Unit := do
  engStore m (ra + 16) ((bs.drop 16).take 16)
  engStore m (ra + 32) ((bs.drop 32).take 16)
  engStore m (ra + 48) ((bs.drop 48).take 16)

/-- An ended ray's remaining fields and then its status are written with release, and its continuation acts (R257). A record that cannot be
written shows nothing, and TRACE.wait returns 6 (R260). -/
def State.rayEnd (s : State) (r : Ray) (st : Nat) : State :=
  let fin (s : State) (st : Nat) (owns : Bool) (err : Nat) : State :=
    let r' : Ray := { r with place := .ended st, owns := owns, err := err, record := none }
    (s.updRay r.op fun _ => r').dropScenes.rayContinue r'
  if !r.owns then fin s st false r.err
  else
    match s.millTry r.master (do
        match r.record with | some bs => engRecord r.master r.ra bs | none => pure ()
        engStore r.master (r.ra + 35) (bytesLE 1 st) : Eng Unit) with
    | .ok _ s => fin s st true r.err
    | .held s => s
    | .bad kind code s => fin (s.rayError r kind code) 6 false (if r.err == 0 then kind else r.err)

/-- A ray ends with a status, a KIND, and an info code for its error record (R257, R260). -/
def State.endRay (s : State) (r : Ray) (st err code : Nat) : State :=
  let r' : Ray := { r with place := .ending st, err := err, cands := [], pend := [], chunk := none }
  let s := (s.updRay r.op fun _ => r').dropScenes
  (if err != 0 && st != 5 then s.rayError r err code else s).rayEnd r' st

-- ray records (R236 to R240)

/-- The fields of a ray record. -/
structure RayRec where
  o : List Nat
  d : List Nat
  tmin : Nat
  tmax : Nat
  flags : Nat
  mask : Nat
  status : Nat
  inst : Nat
  prim : Nat
  bary : Nat
  cont : Nat
  tree : Nat
  deriving DecidableEq, Repr

def words32 (bs : List Byte) (o n : Nat) : List Nat := (List.range n).map fun i => natAt bs (o + 4 * i) 4
def RayRec.parse (bs : List Byte) : RayRec :=
  { o := words32 bs 0 3, d := words32 bs 16 3, tmin := natAt bs 12 4, tmax := natAt bs 28 4, flags := natAt bs 32 2, mask := natAt bs 34 1
    status := natAt bs 35 1, inst := natAt bs 36 4, prim := natAt bs 40 4, bary := natAt bs 44 4, cont := natAt bs 48 8, tree := natAt bs 56 8 }
/-- The 64 bytes of a record (R236). -/
def RayRec.bytes (r : RayRec) : List Byte :=
  r.o.flatMap (bytesLE 4) ++ bytesLE 4 r.tmin ++ r.d.flatMap (bytesLE 4) ++ bytesLE 4 r.tmax ++ bytesLE 2 r.flags ++ bytesLE 1 r.mask
    ++ bytesLE 1 r.status ++ bytesLE 4 r.inst ++ bytesLE 4 r.prim ++ bytesLE 4 r.bary ++ bytesLE 8 r.cont ++ bytesLE 8 r.tree
/-- The engine's write of a record (R236). -/
def RayRec.write (m : Master) (ra : Nat) (r : RayRec) : Eng Unit := engRecord m ra r.bytes
/-- A ray's record as it stands: the one still to write, or the one in memory. -/
def rayRecord (r : Ray) : Eng RayRec := do
  return RayRec.parse (← (match r.record with | some bs => pure bs | none => engLoadBlocks r.master 64 1 r.ra : Eng (List Byte)))
def RayRec.held (r : RayRec) : Bool := flagAt r.flags 15

/-- Whether an FP32 code is a NaN. -/
def isNan32 (w : Nat) : Bool := w / 2 ^ 23 % 256 == 255 && w % 2 ^ 23 != 0
/-- What R240 refuses in a record, the continuation apart. -/
def RayRec.bad (r : RayRec) : Bool :=
  r.flags / 32 != 0 || (flagAt r.flags 0 && flagAt r.flags 4) || (flagAt r.flags 2 && flagAt r.flags 3)
    || (r.o ++ r.d ++ [r.tmin, r.tmax]).any isNan32 || !(r.o ++ r.d ++ [r.tmin]).all Num.finite32 || r.tmin / 2 ^ 31 == 1
/-- A ray that ends at once with a miss (R240). -/
def RayRec.empty (r : RayRec) : Bool :=
  r.tmax == 0xFF800000 || (Num.finite32 r.tmax && decide (Num.fixed32 r.tmax < Num.fixed32 r.tmin)) || r.d.all (· % 2 ^ 31 == 0)

/-- Whether a TRACE's continuation may stand (R238, R240, R73). -/
def contOk (s : State) (o : TraceOp) (c : Nat) : Bool :=
  match c / 2 ^ 62 with
  | 0 => c == 0
  | 2 =>
    bitsAt c 48 14 == 0
      && (match s.node? o.die o.ctx (c % 65536) with | some nd => nd.kind == 1 && nd.recSize == 16 | none => false)
      && (!o.isNode || (match o.node.bind (s.node? o.die o.ctx ·) with | some nd => nd.succ.contains (c % 65536) | none => false))
  | _ => false

-- scenes (R241, R251)

/-- A scene descriptor within its limits (R241). -/
def Scene.parse (die ctx sd : Nat) (bs : List Byte) : Option Scene :=
  let t := natAt bs 8 4
  let ic := natAt bs 24 4
  let it := natAt bs 16 8
  let age := natAt bs 28 4
  let m := natAt bs 32 4
  if natAt bs 0 8 % 64 == 0 && 1 ≤ t && t < 2 ^ 24 && natAt bs 12 4 < t && it % 64 == 0 && (ic != 0 || it == 0) && ic ≤ 2 ^ 24 - 2
      && 256 ≤ age && age ≤ 65536 && 1 ≤ m && m ≤ 2 ^ 20 && (m + 511) / 512 + t ≤ natAt bs 36 4 && natAt bs 40 8 % 4096 == 0
      && zeroAt bs 50 206 then
    some { die := die, ctx := ctx, sd := sd, tt := natAt bs 0 8, count := t, root := natAt bs 12 4, it := it, icount := ic, age := age
           maxRays := m, anyhit := natAt bs 48 2, pool := natAt bs 40 8, chunks := natAt bs 36 4 }
  else none

/-- A table entry (R242). -/
structure Treelet where
  data : Nat
  size : Nat
  inst : Nat
  /-- Its bounds: six FP32 codes. -/
  bounds : List Nat
  poisoned : Bool
  deriving DecidableEq, Repr

def v3At (bs : List Byte) (o : Nat) : Num.V3 := ⟨Num.fixed32 (natAt bs o 4), Num.fixed32 (natAt bs (o + 4) 4), Num.fixed32 (natAt bs (o + 8) 4)⟩
/-- The order of two FP32 codes that are no NaN. -/
def le32 (a b : Nat) : Bool :=
  let v (w : Nat) : Int := if w % 2 ^ 31 == 0x7F800000 then (if w == 0x7F800000 then 2 ^ 300 else -(2 ^ 300)) else Num.fixed32 w
  decide (v a ≤ v b)
def Treelet.parse (sc : Scene) (bs : List Byte) : Option Treelet :=
  let b := words32 bs 16 6
  let inst := natAt bs 12 4
  if natAt bs 0 8 % 128 == 0 && 2 ≤ natAt bs 8 2 && natAt bs 8 2 ≤ 768 && zeroAt bs 10 2 && (inst == 0xFFFFFFFF || inst < sc.icount)
      && !b.any isNan32 && ((List.range 3).all fun i => le32 (b.getD i 0) (b.getD (i + 3) 0)) && natAt bs 40 1 < 2 && zeroAt bs 41 23 then
    some { data := natAt bs 0 8, size := natAt bs 8 2, inst := inst, bounds := b, poisoned := natAt bs 40 1 == 1 }
  else none
/-- A table entry read (R242); a malformed one is KIND DESCBAD (R245). -/
def treeletAt (m : Master) (sc : Scene) (n : Nat) : Eng Treelet := do
  match Treelet.parse sc (← engLoadBlocks m 64 1 (sc.tt + 64 * n)) with
  | some t => return t
  | none => engFail kindDescbad 0

/-- An instance entry (R245): transform, user value, mask, force opaque, no culling. -/
structure Inst where
  mat : List Nat
  user : Nat
  mask : Nat
  opaq : Bool
  nocull : Bool
  deriving DecidableEq, Repr
def instAt (m : Master) (sc : Scene) (n : Nat) : Eng Inst := do
  let bs ← engLoadBlocks m 64 1 (sc.it + 64 * n)
  let mat := words32 bs 0 12
  if !mat.all Num.finite32 || 4 ≤ natAt bs 53 1 || !zeroAt bs 54 10 then engFail kindDescbad 0
  return { mat := mat, user := natAt bs 48 4, mask := natAt bs 52 1, opaq := flagAt (natAt bs 53 1) 0, nocull := flagAt (natAt bs 53 1) 1 }

/-- The ray in the space of a treelet, its instance, and the factor of that space's unit over 2^-149 (R246). -/
def spaceOf (m : Master) (sc : Scene) (t : Treelet) (r : RayRec) (tmax : Nat) : Eng (Num.RaySpace × Option Inst × Int) := do
  let p (ws : List Nat) : Num.V3 := ⟨Num.fixed32 (ws[0]?.getD 0), Num.fixed32 (ws[1]?.getD 0), Num.fixed32 (ws[2]?.getD 0)⟩
  if t.inst == 0xFFFFFFFF then return ({ o := p r.o, d := p r.d, tmin := r.tmin, tmax := tmax }, none, 1)
  let i ← instAt m sc t.inst
  return ({ o := Num.transform i.mat (p r.o) 1, d := Num.transform i.mat (p r.d) 0, tmin := r.tmin, tmax := tmax }, some i, Num.unit32)

-- traversal of a treelet (R243 to R247, R253, R255)

/-- What a ray has when it runs a treelet. -/
structure Trav where
  tmax : Nat
  held : Bool
  inst : Nat
  prim : Nat
  bary : Nat
  term : Bool := false
  cands : List Cand := []
  /-- Exits with the t at which each is entered; none for one entered beside R246's points. -/
  exits : List (Option (Int × Int) × Nat) := []

/-- A hit replaces the held hit, or does not (R247). -/
def replaces (held : Bool) (tmax inst prim tr inst' prim' : Nat) : Bool :=
  !held || decide (Num.fixed32 tr < Num.fixed32 tmax)
    || (decide (Num.fixed32 tr = Num.fixed32 tmax) && inst' * 2 ^ 32 + prim' < inst * 2 ^ 32 + prim)

/-- What is fixed while a ray runs a treelet. -/
structure MillRay where
  sc : Scene
  t : Treelet
  data : List Byte
  rr : RayRec
  space : Num.RaySpace
  inst : Option Inst
  unit : Int
  sweep : Bool

/-- A triangle tested (R244, R247): a hit, a candidate, or nothing; none for a malformed block. -/
def triangle (c : MillRay) (bs : List Byte) (v : Trav) : Option Trav :=
  if !(words32 bs 0 9).all Num.finite32 || natAt bs 36 4 == 0xFFFFFFFF || 2 ≤ natAt bs 40 1 || !zeroAt bs 41 23 then none
  else
    let vert (i : Nat) : Num.V3 := (v3At bs (12 * i)).scale c.unit
    match ({ c.space with tmax := v.tmax }).tri (vert 0) (vert 1) (vert 2) with
    | none => some v
    | some h =>
      let fl := c.rr.flags
      let culled := !(match c.inst with | some i => i.nocull | none => false) && ((flagAt fl 2 && !h.front) || (flagAt fl 3 && h.front))
      let opq := flagAt (natAt bs 40 1) 0 || (match c.inst with | some i => i.opaq | none => false) || flagAt fl 0
      if culled || (!opq && flagAt fl 4) then some v
      else if opq || c.sc.anyhit == 0xFFFF then
        if replaces v.held v.tmax v.inst v.prim h.tr c.t.inst (natAt bs 36 4) then
          some { v with held := true, tmax := h.tr, inst := c.t.inst, prim := natAt bs 36 4, bary := h.bary, term := v.term || flagAt fl 1 }
        else some v
      else some { v with cands := v.cands ++ [{ token := 0, inst := c.t.inst, prim := natAt bs 36 4, tr := h.tr, bary := h.bary
                                                user := match c.inst with | some i => i.user | none => 0 }] }

/-- A run of triangle blocks (R243). -/
def triangles (c : MillRay) : Nat → Nat → Trav → Option Trav
  | 0, _, v => some v
  | n + 1, off, v =>
    if v.term then some v
    else match triangle c ((c.data.drop (64 * off)).take 64) v with
      | none => none
      | some v => triangles c n (off + 1) v

/-- A child of a box node: its reference, and its box (R243). -/
def childOf (bs : List Byte) (i : Nat) (unit : Int) : Nat × Num.V3 × Num.V3 :=
  let e (a : Nat) : Int := 2 ^ (natAt bs (12 + a) 1 + 22)
  let o := v3At bs 0
  let q (j : Nat) : Int := natAt bs (16 + 6 * i + j) 1
  (natAt bs (64 + 4 * i) 4, Num.V3.scale unit ⟨o.x + q 0 * e 0, o.y + q 1 * e 1, o.z + q 2 * e 2⟩,
    Num.V3.scale unit ⟨o.x + (q 3 + 1) * e 0, o.y + (q 4 + 1) * e 1, o.z + (q 5 + 1) * e 2⟩)

/-- The reference of a present child checked (R243). -/
def refOk (m : Master) (c : MillRay) (ref : Nat) : Eng Bool :=
  match ref / 2 ^ 30 with
  | 0 => return bitsAt ref 10 20 == 0 && ref % 2 == 0 && ref % 1024 + 2 ≤ c.t.size
  | 1 => return bitsAt ref 20 10 == 0 && ref % 1024 + bitsAt ref 10 10 + 1 ≤ c.t.size
  | k => do
    if bitsAt ref 24 6 != 0 || c.sc.count ≤ ref % 2 ^ 24 then return false
    let t ← treeletAt m c.sc (ref % 2 ^ 24)
    return if k == 2 then t.inst == c.t.inst else t.inst != 0xFFFFFFFF

/-- A free draw of the engine. -/
def engDraw : Eng Nat := fun s => .ok s.draw

/-- Whether a box is entered, and where: every box of R246, and any other as a draw says. -/
def enters (t : Option (Int × Int)) : Eng (Option (Option (Int × Int))) := do
  match t with
  | some t => return some (some t)
  | none => return if (← engDraw) % 2 == 1 then some none else none

/-- A list in an order of the engine's choice (R5, R246). -/
def anyOrder {α : Type} : Nat → List α → Eng (List α)
  | 0, xs => return xs
  | n + 1, xs => do
    let k := (← engDraw) % max 1 xs.length
    match xs[k]? with
    | none => return xs
    | some x => return x :: (← anyOrder n (xs.eraseIdx k))

/-- The nearer of two entries. -/
def nearer (a b : (Int × Int) × Nat) : Bool := Num.leRatio a.1 b.1
/-- Entries of R246's points nearest first, equal ones in any order, and the others anywhere among them (R246, R253). -/
def nearestFirst (xs : List (Option (Int × Int) × Nat)) : Eng (List Nat) := do
  let xs ← anyOrder xs.length xs
  let near := ((xs.filterMap fun (t, n) => t.map fun t => (t, n)).mergeSort nearer).map (·.2)
  (xs.filterMap fun (t, n) => if t.isNone then some n else none).foldlM (fun (l : List Nat) n => do
    return l.insertIdx ((← engDraw) % (l.length + 1)) n) near
/-- A failure in node data, which ends every ray of the dispatch (R260): marked apart from other malformed structures. -/
def kindNode : Nat := 256 + kindDescbad

/-- The present children that a node's box tests enter (R243, R245). -/
def children (m : Master) (c : MillRay) (bs : List Byte) (v : Trav) : Nat → Eng (List (Option (Int × Int) × Nat))
  | 0 => return []
  | n + 1 => do
    let rest ← children m c bs v n
    if !flagAt (natAt bs 15 1) n then return rest
    let (ref, lo, hi) := childOf bs n c.unit
    if !(← refOk m c ref) then engFail kindNode 0
    match ← enters (({ c.space with tmax := v.tmax } : Num.RaySpace).box lo hi) with
    | some t => return (t, ref) :: rest
    | none => return rest

/-- The entered children of a node taken one by one: triangle runs tested, boxes left to visit, exits collected (R253). -/
def takeChildren (m : Master) (c : MillRay) : List (Option (Int × Int) × Nat) → Trav → List Nat → Eng (Trav × List Nat)
  | [], v, work => return (v, work)
  | (t, ref) :: cs, v, work => do
    if v.term then return (v, work)
    match ref / 2 ^ 30 with
    | 0 => takeChildren m c cs v (work ++ [ref % 1024])
    | 1 =>
      match triangles c (bitsAt ref 10 10 + 1) (ref % 1024) v with
      | some v => takeChildren m c cs v work
      | none => engFail kindNode 0
    | k => do
      if c.sweep then takeChildren m c cs v work
      else
        let n := ref % 2 ^ 24
        let ok ← (if k == 2 then pure true else do
          let e ← treeletAt m c.sc n
          return (← instAt m c.sc e.inst).mask &&& c.rr.mask != 0 : Eng Bool)
        takeChildren m c cs (if ok then { v with exits := v.exits ++ [(t, n)] } else v) work

/-- Every node of a treelet that the box tests enter (R253); each is visited once, which changes no result. -/
def visit (m : Master) (c : MillRay) : Nat → List Nat → List Nat → Trav → Eng Trav
  | 0, _, _, v => return v
  | _, [], _, v => return v
  | f + 1, off :: work, seen, v => do
    if v.term then return v
    if seen.contains off then visit m c f work seen v
    else
      let bs := (c.data.drop (64 * off)).take 128
      if !(words32 bs 0 3).all Num.finite32 || [12, 13, 14].any (fun o => natAt bs o 1 == 255) || !zeroAt bs 96 32 then engFail kindNode 0
      let kids ← children m c bs v 8
      let kids ← anyOrder kids.length kids
      let (v, more) ← takeChildren m c kids v []
      visit m c f (more ++ work) (off :: seen) v

-- leaving a treelet (R253)

/-- A ray enqueued at a treelet (R250, R254). -/
def State.enqueueRay (s : State) (r : Ray) (t : Nat) : State :=
  let n := match s.ctx? r.die r.ctx with | some c => c.dispatches | none => 0
  { s with rays := s.rays.filter (·.op != r.op) ++ [{ r with place := .queued t n, exits := [], pend := [], record := none, chunk := none }] }

/-- Whether a ray stands in the head of a treelet's queue (R250). -/
def Ray.inHead (r : Ray) (sc : Scene) (t : Nat) : Bool :=
  r.die == sc.die && r.ctx == sc.ctx && r.sd == sc.sd && r.chunk.isNone && (match r.place with | .queued n _ => n == t | _ => false)
/-- The entry of a ray in a queue (R250). -/
def Ray.entry (r : Ray) : List Byte := bytesLE 8 (r.ra / 64 % 2 ^ 51)
/-- Words of 8 bytes stored one after another. -/
def storeEntries (m : Master) : Nat → List (List Byte) → Eng Unit
  | _, [] => return
  | va, e :: es => do
    engStore m va e
    storeEntries m (va + 8) es
/-- The head of a treelet's queue written to a free chunk of the spill pool (R250), once it holds n entries. -/
def spillHead (m : Master) (sc : Scene) (t n : Nat) : Eng Unit := do
  let s ← get
  let head := s.rays.filter (·.inHead sc t)
  if head.length < n then return
  let used := s.rays.filterMap fun r => if r.die == sc.die && r.ctx == sc.ctx && r.sd == sc.sd then r.chunk else none
  match (List.range sc.chunks).find? (!used.contains ·) with
  | none => return
  | some k =>
    storeEntries m (sc.pool + 4096 * k) (head.map Ray.entry)
    modify fun s => { s with rays := s.rays.map fun r => if r.inHead sc t then { r with chunk := some k } else r }

/-- The next treelet of a sweep after a cursor whose bounds are entered; none when none remains before the root (R253). -/
def nextSweep (m : Master) (sc : Scene) (r : RayRec) : Nat → Nat → Eng (Option Nat)
  | 0, _ => return none
  | f + 1, cur => do
    let n := (cur + 1) % sc.count
    if n == sc.root then return none
    let t ← treeletAt m sc n
    let (sp, inst, u) ← spaceOf m sc t r r.tmax
    let masked := match inst with | some i => i.mask &&& r.mask == 0 | none => false
    if masked then nextSweep m sc r f n
    else match ← enters (sp.bounds u t.bounds) with
      | some _ => return some n
      | none => nextSweep m sc r f n

/-- The treelet state after a traversal with some exits, and the next queue; none when the ray's traversal is done (R253). -/
def leave (m : Master) (sc : Scene) (r : RayRec) (exits : List Nat) : Eng (Nat × Option Nat) := do
  let keep := bitsAt r.tree 48 13 * 2 ^ 48
  if flagAt r.tree 63 then
    match ← nextSweep m sc r sc.count (r.tree % 2 ^ 24) with
    | none => return (r.tree, none)
    | some n => return (2 ^ 63 + keep + n, some n)
  let list := exits ++ [r.tree % 2 ^ 24, bitsAt r.tree 24 24].take (bitsAt r.tree 61 2)
  match list with
  | [] => return (keep, none)
  | n :: rest =>
    if list.length ≤ 3 then
      return (rest.length * 2 ^ 61 + keep + (rest[0]?.getD 0) + (rest[1]?.getD 0) * 2 ^ 24, some n)
    else return (2 ^ 63 + keep + sc.root, some sc.root)

/-- The status a ray ends with when its traversal is done (R237). -/
def endStatus (term held : Bool) : Nat := if term then 4 else if held then 2 else 3

/-- A ray whose traversal is done ends once no candidate is outstanding and its record is written (R257). -/
def State.judge (s : State) (r : Ray) (held : Bool) : State :=
  if r.cands.isEmpty && r.pend.isEmpty && r.record.isNone then s.endRay r (endStatus r.term held) 0 0
  else s.updRay r.op fun _ => { r with place := .judged }

/-- The candidate record of R255. -/
def Cand.bytes (c : Cand) (ra : Nat) : List Byte :=
  bytesLE 8 ra ++ bytesLE 4 c.inst ++ bytesLE 4 c.prim ++ bytesLE 4 c.tr ++ bytesLE 4 c.bary ++ bytesLE 4 c.token ++ bytesLE 4 c.user

/-- The candidates of a ray appended while CAND and the node's queue have room (R255): what is left, or none when the graph lacks the
node (R73). -/
def State.appendCands (s : State) (r : Ray) (node : Nat) : List Cand → Ray × State
  | [] => ({ r with pend := [] }, s)
  | c :: cs =>
    if 4096 ≤ r.cands.length || !s.nodeRoom r.die r.ctx node then ({ r with pend := c :: cs }, s)
    else
      let c : Cand := { c with token := r.token }
      (s.updNode r.die r.ctx node fun nd => { nd with queue := nd.queue ++ [c.bytes r.ra] }).appendCands
        { r with cands := r.cands ++ [c], token := (r.token + 1) % 2 ^ 32 } node cs

/-- A treelet state with its CAND field (R239). -/
def withCand (tree n : Nat) : Nat := tree / 2 ^ 61 * 2 ^ 61 + n * 2 ^ 48 + tree % 2 ^ 48

/-- The scene of a ray. -/
def State.sceneOf (s : State) (r : Ray) : Option Scene := s.scenes.find? fun sc => sc.die == r.die && sc.ctx == r.ctx && sc.sd == r.sd

/-- A ray in a mill after its traversal (R253, R255): its candidates appended, its record written, and it leaves; with candidates left it
stays. What waits for a page is tried again, with the record as the traversal left it. -/
def State.rayLeave (s : State) (r : Ray) (sc : Scene) : State :=
  if !r.pend.isEmpty && !(match s.node? r.die r.ctx sc.anyhit with | some nd => nd.kind == 1 && nd.recSize == 32 | none => false) then
    s.endRay r 6 kindDescbad 0
  else
    let (r, s) := s.appendCands r sc.anyhit r.pend
    let s := s.updRay r.op fun _ => r
    let m := r.master
    match s.millTry m (rayRecord r) with
    | .held s => s
    | .bad kind code s => s.endRay { r with owns := false } 6 kind code
    | .ok rr s =>
      let go : Eng (Nat × Option Nat) := do
        let (tree, next) ← (if r.pend.isEmpty && !r.term then leave m sc rr r.exits else pure (rr.tree, none) : Eng (Nat × Option Nat))
        match next with | some t => spillHead m sc t 512 | none => pure ()
        return (tree, next)
      match s.millTry m go with
      | .held s => s
      | .bad kind code s => s.endRay r 6 kind code
      | .ok (tree, next) s =>
        match s.millTry m (RayRec.write m r.ra { rr with tree := withCand tree r.cands.length }) with
        | .held s => s
        | .bad kind code s => s.endRay { r with owns := false } 6 kind code
        | .ok _ s =>
          let r : Ray := { r with record := none }
          if !r.pend.isEmpty && !r.term then s.updRay r.op fun _ => r
          else match next with
            | some t => s.enqueueRay r t
            | none => s.judge { r with pend := [] } rr.held

/-- One ray of a dispatch run (R253), its record kept until it leaves; and whether node data was malformed (R260). -/
def State.runRay (s : State) (r : Ray) (sc : Scene) (t : Treelet) (data : List Byte) : State × Bool :=
  let m := r.master
  match r.place with
  | .mill core buf n false =>
    (match s.millTry m (rayRecord r) with
    | .held s => (s, false)
    | .bad kind code s => (s.endRay { r with owns := false } 6 kind code, false)
    | .ok rr s =>
      let go : Eng (Trav × List Nat) := do
        let (sp, inst, u) ← spaceOf m sc t rr rr.tmax
        let v : Trav := { tmax := rr.tmax, held := rr.held, inst := rr.inst, prim := rr.prim, bary := rr.bary }
        let v ← visit m { sc := sc, t := t, data := data, rr := rr, space := sp, inst := inst, unit := u, sweep := flagAt rr.tree 63 } 4000 [0] [] v
        return (v, ← nearestFirst v.exits)
      match s.millTry m go with
      | .held s => (s, false)
      | .bad kind code s => if kind == kindNode then (s, true) else (s.endRay r 6 kind code, false)
      | .ok (v, exits) s =>
        let rr : RayRec := { rr with tmax := v.tmax, inst := v.inst, prim := v.prim, bary := v.bary
                                     flags := rr.flags % 2 ^ 15 + (if v.held then 2 ^ 15 else 0) }
        (s.updRay r.op fun _ => { r with place := .mill core buf n true, pend := v.cands, term := r.term || v.term, exits := exits
                                         record := some rr.bytes }, false))
  | _ => (s, false)

/-- The rays of a mill buffer as they now stand. -/
def State.inBuffer (s : State) (rays : List Ray) : List Ray :=
  rays.filterMap fun r => (s.ray? r.op).filter fun r => match r.place with | .mill .. => true | _ => false
/-- The rays of a dispatch leave once every one has run (R253). -/
def State.leaveRays (s : State) (rays : List Ray) (sc : Scene) : State :=
  if (s.inBuffer rays).all fun r => (match r.place with | .mill _ _ _ ran => ran | _ => true) then
    (s.inBuffer rays).foldl (fun s r => s.rayLeave r sc) s
  else s
/-- The rays of a dispatch run on its treelet (R252, R253); malformed node data ends every one (R260). -/
def State.runRays (s : State) (rays : List Ray) (sc : Scene) (t : Treelet) (data : List Byte) : State :=
  let (s, broken) := rays.foldl (fun (s, b) r => match s.ray? r.op with
    | some r => let (s, x) := s.runRay r sc t data; (s, b || x)
    | none => (s, b)) (s, false)
  if broken then (s.inBuffer rays).foldl (fun s r => s.endRay r 6 kindDescbad 0) s else s.leaveRays rays sc

/-- What a dispatch finds when it fetches its treelet. -/
inductive Fetched where
  | run (t : Treelet) (data : List Byte)
  /-- The treelet is poisoned: the rays end POISONED (R259). -/
  | poisoned
  | failed (kind code : Nat)
  | held

/-- The treelet of a dispatch streamed (R242, R252, R259): an uncorrectable error, met twice, sets POISONED. -/
def State.fetchTreelet (s : State) (m : Master) (sc : Scene) (n : Nat) : Fetched × State :=
  match s.millTry m (treeletAt m sc n) with
  | .held s => (.held, s)
  | .bad kind code s => (.failed kind code, s)
  | .ok t s =>
    if t.poisoned then (.poisoned, s)
    else
      match s.millTry m (engLoadBlocks m 64 t.size t.data) with
      | .ok bs s => (.run t bs, s)
      | .held s => (.held, s)
      | .bad kind code s =>
        if kind != kindPoison then (.failed kind code, s)
        else
          match s.millTry m (do
              let l ← engLoc m (sc.tt + 64 * n + 40) 1 .atomic false
              let old ← engRead m l 1
              engWrite m l [(old[0]?.getD 0) ||| 1]
              return natLE old % 2 : Eng Nat) with
          | .ok old s =>
            (.poisoned, if old == 1 then s else s.report m.die { kind := 8, ctx := m.ctx, code := code, a := sc.sd, b := n })
          | .held s => (.held, s)
          | .bad kind code s => (.failed kind code, s)

/-- A ray dispatched to a poisoned treelet ends POISONED with no hit (R259): its hit fields are all ones. -/
def State.poisonRay (s : State) (r : Ray) : State :=
  let m := r.master
  match s.millTry m (do
      let rr ← rayRecord r
      RayRec.write m r.ra { rr with flags := rr.flags % 2 ^ 15, inst := 0xFFFFFFFF, prim := 0xFFFFFFFF } : Eng Unit) with
  | .ok _ s => s.endRay { r with record := none } 5 kindPoison 0
  | .held s => s
  | .bad kind code s => s.endRay { r with owns := false } 6 kind code

-- the choice of a dispatch (R252)

/-- A queue of the mill: its scene, its treelet, its entries, and the enqueue count of its oldest. -/
structure MillQueue where
  sd : Nat
  treelet : Nat
  entries : Nat
  oldest : Nat
  deriving DecidableEq, Repr

/-- The queues of a context with waiting rays, but for those a core is dispatching. -/
def State.millQueues (s : State) (die ctx : Nat) : List MillQueue :=
  let mine := s.rays.filter fun r => r.die == die && r.ctx == ctx
  let busy (sd t : Nat) : Bool := mine.any fun r => r.sd == sd && (match r.place with | .mill _ _ n _ => n == t | _ => false)
  mine.foldl (fun qs r =>
    match r.place with
    | .queued t enq =>
      if busy r.sd t then qs
      else if qs.any fun q => q.sd == r.sd && q.treelet == t then
        qs.map fun q => if q.sd == r.sd && q.treelet == t then { q with entries := q.entries + 1, oldest := min q.oldest enq } else q
      else qs ++ [{ sd := r.sd, treelet := t, entries := 1, oldest := enq }]
    | _ => qs) []

/-- The queue the mill serves next (R252). -/
def pickQueue (count ac : Nat) (qs : List MillQueue) : Option MillQueue :=
  let aged (q : MillQueue) : Bool := ac ≤ 2 * (count - q.oldest)
  let tie (a b : MillQueue) : Bool := a.sd < b.sd || (a.sd == b.sd && a.treelet < b.treelet)
  let better (a b : MillQueue) : Bool :=
    if aged a || aged b then
      if aged a && aged b then a.oldest < b.oldest || (a.oldest == b.oldest && tie a b) else aged a
    else b.entries < a.entries || (a.entries == b.entries && tie a b)
  qs.foldl (fun best q => match best with | none => some q | some b => if better q b then some q else some b) none

/-- Ac of R251: the smallest age bound among a context's admitted scenes. -/
def State.ageBound (s : State) (die ctx : Nat) : Nat :=
  ((s.scenes.filter fun sc => sc.die == die && sc.ctx == ctx).map (·.age)).foldl min 65536

/-- The rays of one of a core's mill buffers. -/
def State.millRays (s : State) (die ctx core buf : Nat) : List Ray :=
  s.rays.filter fun r => r.die == die && r.ctx == ctx && (match r.place with | .mill c b _ _ => c == core && b == buf | _ => false)

/-- A dispatch begins: the count rises, and the queue's oldest rays, at most 4,096, stand in a mill buffer (R252). -/
def State.beginDispatch (s : State) (c : Context) (core buf : Nat) : State :=
  match pickQueue c.dispatches (s.ageBound c.die c.num) (s.millQueues c.die c.num) with
  | none => s
  | some q =>
    let s := s.updCtx c.die c.num fun c => { c with dispatches := c.dispatches + 1 }
    let mine := (s.rays.filter fun r => r.die == c.die && r.ctx == c.num && r.sd == q.sd
      && (match r.place with | .queued t _ => t == q.treelet | _ => false)).take 4096
    mine.foldl (fun s r => s.updRay r.op fun r => { r with place := .mill core buf q.treelet false, chunk := none }) s

/-- A mill buffer of a core takes a dispatch of one treelet of a context, or goes on with the one it holds (R252, R258). -/
def State.millStep (s : State) (die ctx core buf : Nat) : Host.Outcome State Fault Refusal :=
  match s.ctx? die ctx with
  | none => .next s
  | some c =>
    let s := if (s.millRays die ctx core buf).isEmpty && c.part.contains core && !c.vacating.contains core && c.migrating.isNone then
      s.beginDispatch c core buf else s
    let rays := s.millRays die ctx core buf
    match rays.head? with
    | none => .next s
    | some r0 =>
      match s.sceneOf r0, r0.place with
      | some sc, .mill _ _ n _ =>
        if rays.all fun r => (match r.place with | .mill _ _ _ ran => ran | _ => true) then .next (s.leaveRays rays sc)
        else
          match s.fetchTreelet ⟨die, core, ctx, r0.op⟩ sc n with
          | (.run t data, s) => .next (s.runRays rays sc t data)
          | (.held, s) => .next s
          | (.poisoned, s) => .next (rays.foldl (fun s r => s.poisonRay r) s)
          | (.failed kind code, s) => .next (rays.foldl (fun s r => s.endRay r 6 kind code) s)
      | _, _ => .next s

/-- The mill of a core goes on with one of its two buffers: which of them is open (R252). -/
def execMillDispatch (die ctx core : Nat) (s : State) : Host.Outcome State Fault Refusal :=
  s.draw.2.millStep die ctx core (s.draw.1 % 2)

-- acceptance (R240, R248, R251)

/-- A hand-off refused (R248): nothing is written to the record, and TRACE.wait returns 6. -/
def State.refuseTrace (s : State) (o : TraceOp) (ray : Ray) (kind code : Nat) : State :=
  let s := { s with traces := s.traces.filter (·.op != o.op) }
  let s := s.landFirst o.who fun f => f.op == some o.op
  let r : Ray := { ray with place := .ended 6, owns := false, err := kind }
  let s := if kind == kindDescbad then s else s.rayError r kind code
  ({ s with rays := s.rays ++ [r] }).rayContinue r

/-- An accepted hand-off (R248): TRACE.wait's handle stands in the record; the flag is counted back; the ray is in flight. -/
def State.admitTrace (s : State) (o : TraceOp) (r : Ray) : State :=
  let s := { s with traces := s.traces.filter (·.op != o.op), rays := s.rays ++ [r] }
  s.landFirst o.who fun f => f.op == some o.op

/-- Whether a scene may join the admitted ones: never, not yet, or now (R251). -/
def State.admits (s : State) (sc : Scene) : Option Bool :=
  let load (x : Scene) : Nat := x.count + (x.maxRays + 4095) / 4096
  let others := s.scenes.filter fun x => x.die == sc.die && x.ctx == sc.ctx && x.sd != sc.sd
  if sc.age / 2 < load sc then none
  else
    let ac := others.foldl (fun a x => min a x.age) sc.age
    let inFlight := (s.rays.filter fun r => r.inFlight && r.die == sc.die && r.ctx == sc.ctx && r.sd == sc.sd).length
    some (decide ((others.map load).sum + load sc ≤ ac / 2) && decide (inFlight < sc.maxRays))

/-- Whether a scene's any-hit node may stand (R73, R241, R255). -/
def State.anyhitOk (s : State) (o : TraceOp) (sc : Scene) : Bool :=
  sc.anyhit == 0xFFFF ||
    ((match s.node? o.die o.ctx sc.anyhit with | some nd => nd.kind == 1 && nd.recSize == 32 | none => false)
      && (!o.isNode || (match o.node.bind (s.node? o.die o.ctx ·) with | some nd => nd.succ.contains sc.anyhit | none => false)))

/-- The ray engine accepts or refuses a hand-off (R240, R248, R251). -/
def execTraceAccept (op : Nat) (s : State) : Host.Outcome State Fault Refusal :=
  match s.traces.find? (·.op == op) with
  | none => .next s
  | some o =>
    let m := o.master
    if o.held.isSome && !o.doomed then .next s
    else
      let (handle, s1) := s.unused (2 ^ 62) (s.rays.map (·.handle))
      let ray : Ray := { op := o.op, die := o.die, core := o.core, ctx := o.ctx, who := o.who, wait := o.wait, handle := handle, ra := o.ra
                         sd := o.sd, num := o.num, scope := o.scope, place := .judged }
      let held (va : Nat) (k : AccKind) (r : Nat) : State :=
        { s.engineFault m 0 va k r with traces := s.traces.map fun (t : TraceOp) => if t.op == op then { t with held := some va } else t }
      let doomed (va : Nat) : Bool := o.doomed && (match o.held with | some h => h / 8192 == va / 8192 | none => false)
      match engLoadBlocks m 64 1 o.ra s1 with
      | .error (.wait s') => .next s'
      | .error (.hold va k r) => .next (if doomed va then s1.refuseTrace o ray kindXlate 0 else held va k r)
      | .error (.fail kind code) => .next (s1.refuseTrace o ray kind code)
      | .ok (bs, s2) =>
        let rr := RayRec.parse bs
        if rr.status == 1 || 7 ≤ rr.status then .next (s2.refuseTrace o ray kindDescbad 0)
        else
          let begin_ : Eng Unit := if o.wait then engStore m (o.ra + 48) (bytesLE 8 (2 ^ 62 + handle)) else pure ()
          match begin_ s2 with
          | .error (.wait s') => .next s'
          | .error (.hold va k r) => .next (if doomed va then s1.refuseTrace o ray kindXlate 0 else held va k r)
          | .error (.fail kind code) => .next (s1.refuseTrace o ray kind code)
          | .ok (_, s3) =>
            let cont := if o.wait then 2 ^ 62 + handle else rr.cont
            if rr.bad || (!o.wait && !contOk s3 o rr.cont) then .next ((s3.admitTrace o ray).endRay ray 6 kindDescbad 0)
            else
              match engLoadBlocks m 64 4 o.sd s3 with
              | .error (.wait s') => .next s'
              | .error (.hold va k r) => .next (if doomed va then (s3.admitTrace o ray).endRay ray 6 kindXlate 0 else held va k r)
              | .error (.fail kind code) => .next ((s3.admitTrace o ray).endRay ray 6 kind code)
              | .ok (db, s4) =>
                match Scene.parse o.die o.ctx o.sd db with
                | none => .next ((s4.admitTrace o ray).endRay ray 6 kindDescbad 0)
                | some sc =>
                  match s4.admits sc with
                  | none => .next ((s4.admitTrace o ray).endRay ray 6 kindDescbad 0)
                  | some now =>
                  match engLoadBlocks m 64 1 (sc.tt + 64 * sc.root) s4 with
                  | .error (.wait s') => .next s'
                  | .error (.hold va k r) => .next (if doomed va then (s4.admitTrace o ray).endRay ray 6 kindXlate 0 else held va k r)
                  | .error (.fail kind code) => .next ((s4.admitTrace o ray).endRay ray 6 kind code)
                  | .ok (tb, s4) =>
                    if natAt tb 12 4 != 0xFFFFFFFF then .next ((s4.admitTrace o ray).endRay ray 6 kindDescbad 0)
                    else if !s4.anyhitOk o sc then .next ((s4.admitTrace o ray).endRay ray 6 kindDescbad 0)
                    else if rr.empty then .next ((s4.admitTrace o ray).endRay ray 3 0 0)
                    else if !now then .next s
                    else
                      let fresh : RayRec := { rr with status := 1, flags := rr.flags % 2 ^ 15, inst := 0xFFFFFFFF, prim := 0xFFFFFFFF
                                                      bary := 0, cont := cont, tree := 0 }
                      match spillHead m sc sc.root 512 s4 with
                      | .error (.wait s') => .next s'
                      | .error (.hold va k r) => .next (if doomed va then (s4.admitTrace o ray).endRay ray 6 kindXlate 0 else held va k r)
                      | .error (.fail kind code) => .next ((s4.admitTrace o ray).endRay ray 6 kind code)
                      | .ok (_, s4) =>
                      match fresh.write m o.ra s4 with
                      | .error (.wait s') => .next s'
                      | .error (.hold va k r) => .next (if doomed va then s1.refuseTrace o ray kindXlate 0 else held va k r)
                      | .error (.fail kind code) => .next (s1.refuseTrace o ray kind code)
                      | .ok (_, s5) =>
                        let s6 := { s5 with scenes := if s5.scenes.any (fun x => x.die == sc.die && x.ctx == sc.ctx && x.sd == sc.sd)
                                              then s5.scenes else s5.scenes ++ [sc] }
                        .next ((s6.admitTrace o ray).enqueueRay ray sc.root)

-- decisions (R256)

/-- A record still to write is written, and a ray whose traversal is done may end (R257, R260). -/
def State.rayFlush (s : State) (r : Ray) (bs : List Byte) : State :=
  match s.millTry r.master (engRecord r.master r.ra bs) with
  | .held s => s
  | .bad kind code s => s.endRay { r with owns := false } 6 kind code
  | .ok _ s =>
    let r : Ray := { r with record := none }
    let s := s.updRay r.op fun _ => r
    match r.place with
    | .judged => s.judge r (RayRec.parse bs).held
    | _ => s

/-- A ray goes on with what it waits for outside a mill (R257, R260). -/
def State.rayStep (s : State) (r : Ray) : State :=
  match r.place, r.record with
  | .ending st, _ => s.rayEnd r st
  | .queued .., some bs | .judged, some bs => s.rayFlush r bs
  | .ended _, _ | .closing, _ => s.rayContinue r
  | _, _ => s

/-- A candidate is no longer outstanding: CAND falls, and a judged ray may end. `rr` is what the decision leaves of the record, which a ray in a
mill writes as it leaves. -/
def State.dropCand (s : State) (r : Ray) (token : Nat) (rr : RayRec) : State :=
  let r : Ray := { r with cands := r.cands.filter (·.token != token) }
  let bs := ({ rr with tree := withCand rr.tree r.cands.length } : RayRec).bytes
  let kept := r.record.isSome
  let r : Ray := { r with record := some bs }
  let s := s.updRay r.op fun _ => r
  match r.place with
  | .mill .. => if kept then s else s.rayFlush r bs
  | _ => s.rayFlush r bs

/-- The ray engine applies a candidate decision (R256). -/
def execHitrptApply (op : Nat) (s : State) : Host.Outcome State Fault Refusal :=
  match s.hits.find? (·.op == op) with
  | none => .next s
  | some o =>
    if o.held.isSome && !o.doomed then .next s
    else
      let gone (s : State) : State := { s with hits := s.hits.filter (·.op != op) }
      let lost (kind code : Nat) : State :=
        gone (s.report o.die { kind := 7, ctx := o.ctx, code := code, a := o.ca, detail := [BitVec.ofNat 8 kind] })
      if o.doomed then .next (lost kindXlate 0)
      else
        match engLoadBlocks o.master 32 1 o.ca s with
        | .error (.wait s') => .next s'
        | .error (.hold va k r) =>
          .next { s.engineFault o.master 0 va k r with hits := s.hits.map fun (h : HitOp) => if h.op == op then { h with held := some va } else h }
        | .error (.fail kind code) => .next (lost kind code)
        | .ok (bs, s) =>
          let tok := natAt bs 24 4
          match s.rays.find? fun r => r.die == o.die && r.ctx == o.ctx && r.ra == natAt bs 0 8 && r.cands.any (·.token == tok) with
          | none => .next (gone s)
          | some r =>
            match s.millTry r.master (rayRecord r) with
            | .held s => .next s
            | .bad kind code s => .next ((gone s).endRay { r with owns := false } 6 kind code)
            | .ok rr s =>
              let hit := decide (1 ≤ o.dec) && !r.term
                && replaces rr.held rr.tmax rr.inst rr.prim (natAt bs 16 4) (natAt bs 8 4) (natAt bs 12 4)
              let rr : RayRec := if hit then
                  { rr with tmax := natAt bs 16 4, inst := natAt bs 8 4, prim := natAt bs 12 4, bary := natAt bs 20 4
                            flags := rr.flags % 2 ^ 15 + 2 ^ 15 }
                else rr
              let ends := o.dec == 2 || (o.dec == 1 && flagAt rr.flags 1)
              let r : Ray := if ends && !r.term then { r with term := true, pend := [], place := .judged, chunk := none } else r
              .next ((gone s).dropCand r tok rr)

/-- A candidate of a ray whose any-hit team has ended, once the engine has taken every decision the team handed over (R256). -/
def State.orphan (s : State) (r : Ray) : Option Cand :=
  let gone (g : Nat) : Bool := (s.grid? g).all (fun r => r.ended == r.teamCount) && !s.hits.any (·.grid == g)
  r.cands.find? fun c => match c.grid with | some g => gone g | none => false
/-- Candidates whose any-hit team has ended count as ignored (R256). -/
def State.ignoreCands (s : State) : State :=
  s.rays.foldl (fun s r =>
    match s.ray? r.op with
    | none => s
    | some r =>
      match s.orphan r with
      | none => s
      | some c =>
        match s.millTry r.master (rayRecord r) with
        | .held s => s
        | .bad kind code s => s.endRay { r with owns := false } 6 kind code
        | .ok rr s => s.dropCand r c.token rr) s

/-- The heads of a context's ray queues written to their spill pools, for its image (R258): whether all are. -/
def State.spillHeads (s : State) (die ctx : Nat) : Bool × State :=
  s.rays.foldl (fun (done, s) r =>
    match r.place, s.sceneOf r with
    | .queued t _, some sc =>
      if !done || r.die != die || r.ctx != ctx then (done, s)
      else match s.millTry r.master (spillHead r.master sc t 1) with
        | .ok _ s => (true, s)
        | .held s => (false, s)
        | .bad kind code s => (true, s.endRay r 6 kind code)
    | _, _ => (done, s)) (true, s)

end Sys2Proof.Machine
end

