-- ==== Sys2Proof/Machine/Place.lean ====
section
/-! DEFINITION. Placement (R23, R41, R43, R52, R76, R77, R79, R87, R147, R204, R266, R481), partitions (R59), the fold (R29 to R31, R37,
R48 to R51) and bundle ages (R81). -/
namespace Sys2Proof.Machine

-- room on a core (R23, R41, R97, R147)

/-- The teams that hold a core's resources. -/
def State.coreTeams (s : State) (die core : Nat) : List Team :=
  s.teams.filter (·.onCore die core)
/-- The linear lanes in use on a core. -/
def State.coreLanes (s : State) (die core : Nat) : List Nat :=
  (s.coreTeams die core).flatMap fun t => (t.threads.filter (·.status != .ended)).map (·.lane)

/-- One region allocated in a slice, beside 64 KiB of cache and what the pools of resident teams keep (R93, R147). -/
def allocRegion (slice kept : Nat) (rs : List Region) (kind : RegionKind) (ctx n : Nat) : Option (Nat × List Region) :=
  if slice < regionBytes rs + n + kept + 65536 then none
  else (freeOffset rs slice n).map fun o => (o, { kind := kind, base := o, size := n, ctx := ctx } :: rs)

/-- The register blocks of a team's gangs allocated in order (R89, R147). -/
def allocBlocks (slice kept : Nat) (tm : Team) : List Gang → Nat → List Region → Option (List Gang × List Region)
  | [], _, rs => some ([], rs)
  | g :: gs, n, rs =>
    (allocRegion slice kept rs (.block tm.uid n) tm.ctx (blockBytes g.quota tm.width)).bind fun (o, rs) =>
      (allocBlocks slice kept tm gs (n + 1) rs).map fun (gs, rs) => ({ g with base := o, alloc := g.quota, pad := [] } :: gs, rs)

/-- A team given its lanes, blocks and scratchpad on a core, if the core has room (R23, R41). -/
def State.allocTeam (s : State) (tm : Team) (core : Nat) : Option (Team × State) :=
  let isD := isDie tm.die
  let slice := Config.sliceBytes isD
  let mates := s.coreTeams tm.die core
  let tiles := (mates.map (·.tiles.length)).sum + tm.tiles.length
  let recipes := (mates.map fun t => t.gangs.length * t.recipeMax).sum + tm.gangs.length * tm.recipeMax
  let cs := s.core tm.die core
  let kept := poolReserve (tm :: mates)
  if Config.coreTiles < tiles || Config.coreRecipes < recipes then none
  else
    (laneBase isD (s.coreLanes tm.die core) tm.threads.length).bind fun b =>
      (allocBlocks slice kept tm tm.gangs 0 cs.regions).bind fun (gs, rs) =>
        (if tm.scrSize == 0 then some (0, rs) else allocRegion slice kept rs (.scratch tm.uid) tm.ctx tm.scrSize).map fun (o, rs) =>
          ({ tm with core := core, laneBase := b, gangs := gs, scrBase := o
                     threads := tm.threads.map fun t => { t with lane := (b + t.tid) % Config.lanes isD } },
            s.setRegions tm.die core rs)

-- first placement (R86, R87, R204, R481)

/-- The info code of an unresolvable fault's reason (R164). -/
def codeOfReason (r : Nat) : Nat :=
  if r == reasonNotPresent then codeNotMapped else if r == reasonHome then codeHomeAbsent else if r == reasonEntryBad then codeEntryBad else codeNoRight

/-- A read of a first placement (R481): the state; the first failure's trap; the first miss; whether one waits for an owner's answer. -/
structure Reads where
  s : State
  trap : Option TrapRec := none
  miss : Option (Nat × Nat) := none
  waits : Bool := false

/-- One read: the value, 0 when it fails, and what it leaves. -/
def Reads.read (r : Reads) (m : Master) (lost : List Nat) (va n : Nat) : Nat × Reads :=
  let bad (cause code : Nat) : Nat × Reads :=
    (0, { r with trap := r.trap <|> some { cause := cause, code := code, addr := BitVec.ofNat 64 va } })
  match engLoad m va n r.s with
  | .ok (bs, s) => (natLE bs, { r with s := s })
  | .error (.hold a _ reason) => if lost.contains (a / 8192) then bad causeXlate (codeOfReason reason) else (0, { r with miss := r.miss <|> some (a, reason) })
  | .error (.fail kind code) => bad (if kind == kindXlate then causeXlate else if kind == kindPoison then causePoison else causeAccess) code
  | .error (.wait s) => (0, { r with s := s, waits := true })

/-- Reads in order. -/
def Reads.list (m : Master) (lost : List Nat) : List (Nat × Nat) → Reads → List Nat × Reads
  | [], r => ([], r)
  | (va, n) :: rest, r =>
    let (v, r) := r.read m lost va n
    let (vs, r) := Reads.list m lost rest r
    (v :: vs, r)

/-- What the first reads of a team bring: the ten parameter words, the timelines' values, and the trap of the first failure. -/
structure FirstWords where
  words : List Nat := []
  tls : List Nat := []
  trap : Option TrapRec := none

/-- The tracked engine contexts of a team: number, timeline, scope (R204). -/
def Grid.tracked (g : Grid) (num : Nat) : List (Nat × Nat × Nat) :=
  (g.ectx.zip (List.range 16)).filterMap fun (e, i) => if e.tl == 0 then none else some (i, e.tl + num * e.stride, e.scope)

/-- The first reads of a team that goes to a core (R87, R204, R481). -/
def State.firstReads (s : State) (g : Grid) (num core : Nat) : FirstWords × Reads :=
  let m : Master := ⟨g.die, core, g.ctx, 0⟩
  let p := g.lrec.param
  let (ws, r) := Reads.list m g.lost (if p == 0 then [] else (List.range 10).map fun i => (p + 4 * i, 4)) { s := s }
  let (vs, r) := Reads.list m g.lost ((g.tracked num).map fun (_, a, _) => (a, 8)) r
  ({ words := ws, tls := vs, trap := r.trap }, r)

/-- A team of a grid before it has a core (R32, R86, R93). -/
def newTeam (g : Grid) (uid num step : Nat) : Team :=
  let r := g.lrec
  { uid := uid, die := g.die, ctx := g.ctx, core := 0, grid := g.uid, num := num, declared := widthOf r.widthCode, quads := r.quads || !g.frags.isEmpty
    threads := (List.range r.teamSize).map fun t => { tid := t, pc := BitVec.ofNat 64 r.entry, status := .fold step }
    gangs := List.replicate r.gangs { quota := r.quota }
    tiles := List.replicate r.tiles {}, scrSize := r.scratch, quota0 := r.quota, recipeMax := r.recipes, version := g.version }

/-- A team of a grid placed on a core for the first time with the words it has read, its threads ordered as by an acquire at die scope (R46,
R76, R87, R204, R398, R477, R481); none without room. -/
def State.seatTeam (s : State) (g : Grid) (num core : Nat) (f : FirstWords) : Option State :=
  (s.allocTeam (newTeam g s.nextId num s.steps) core).map fun (tm, s) =>
    let p := g.lrec.param
    let (ba, bz, bn) : Nat × Nat × Nat := match g.batch with | some (a, z, n) => (a, z, n) | none => (0, 0, 0)
    let sv : List Word := words64 (BitVec.ofNat 64 p) ++ words64 (BitVec.ofNat 64 ba) ++ [w32 bz, w32 bn]
      ++ (if p == 0 then List.replicate 10 0 else f.words.map fun w => w32 w)
    let none_ : Vector ECtx 16 := Vector.ofFn fun i => { scope := (g.ectx[i.val]?.map (·.scope)).getD 0 }
    let ectx := ((g.tracked num).zip f.tls).foldl (fun (v : Vector ECtx 16) ((i, a, sc), t) =>
      v.setIfInBounds i { tl := a, next := BitVec.ofNat 64 (t + 1), scope := sc }) none_
    let tm := { tm with s := Vector.ofFn fun i => sv[i.val]?.getD 0, ectx := ectx
                        threads := tm.threads.map fun t => { t with firstTrap := f.trap } }
    let s := s.setCore (s.core g.die core).acquire
    { s with nextId := s.nextId + 1, teams := s.teams ++ [tm]
             mem := Memory.clear s.mem (commonsKey g.die core tm.scrBase) tm.scrSize }

/-- The members of a cohort placed one after another (R43); none unless each finds room. -/
def seatAll (g : Grid) : List (Nat × Nat) → List FirstWords → State → Option State
  | (num, core) :: rest, f :: fs, s => (s.seatTeam g num core f).bind (seatAll g rest fs)
  | _, _, s => some s

/-- The first reads of a cohort's members in turn; each that misses writes its fault record (R481). -/
def cohortReads (g : Grid) : List (Nat × Nat) → State → List (FirstWords × Option Nat) × Bool × State
  | [], s => ([], false, s)
  | (num, core) :: rest, s =>
    let (f, r) := s.firstReads g num core
    let s := match r.miss with | some (va, reason) => r.s.engineFault ⟨g.die, core, g.ctx, 0⟩ 0 va .read reason | none => r.s
    let (fs, waits, s) := cohortReads g rest s
    ((f, r.miss.map (·.1)) :: fs, r.waits || waits, s)

/-- How a first placement ended. -/
inductive Placed where
  | noRoom
  /-- It waits for translations: the addresses, and the state with their fault records. -/
  | missed (vas : List Nat) (s : State)
  /-- It waits for the owner of a line it reads. -/
  | waits (s : State)
  | ok (s : State)

/-- The teams of a cohort placed at one moment, or none of them (R43, R77, R481). -/
def State.placeCohort (s : State) (g : Grid) (ms : List (Nat × Nat)) : Placed :=
  if (seatAll g ms (ms.map fun _ => {}) s).isNone then .noRoom
  else
    let (fs, waits, s) := cohortReads g ms s
    let vas := fs.filterMap (·.2)
    if !vas.isEmpty then .missed vas s
    else if waits then .waits s
    else match seatAll g ms (fs.map (·.1)) s with | some s => .ok s | none => .waits s

-- TEAM_PLACE (R76, R77, R79)

/-- The order of grids for placement (R76). -/
def Grid.before (a b : Grid) : Bool := decide (b.prio < a.prio) || (a.prio == b.prio && decide (a.uid < b.uid))
/-- The first team a grid has to place, if any: one whose translation has come, else the next (R481, R76). -/
def Grid.nextNum (g : Grid) : Option Nat :=
  match g.again with
  | n :: ns => some (ns.foldl min n)
  | [] => if g.nextTeam < g.lrec.x * g.lrec.y * g.lrec.z then some g.nextTeam else none
/-- The tile of a fragment team's quads (R266). -/
def State.fragTile (s : State) (g : Grid) : Option TileWork :=
  (s.gfx? g.die g.ctx).bind fun x => (x.frags.find? fun f => g.frags.contains f.quad).bind fun f =>
    x.tiles.find? fun t => t.tx == f.x / 64 && t.ty == f.y / 64
/-- Whether a fragment team waits behind an earlier one of its tile (R266). -/
def State.fragBehind (s : State) (g : Grid) : Bool :=
  !g.frags.isEmpty && s.grids.any fun o => o.die == g.die && o.ctx == g.ctx && decide (o.uid < g.uid) && !o.frags.isEmpty
    && (!o.parked.isEmpty || o.nextNum.isSome) && (s.fragTile o).map (fun t => (t.tx, t.ty)) == (s.fragTile g).map (fun t => (t.tx, t.ty))
/-- A core of a context's partition that takes teams. -/
def Context.takes (c : Context) (core : Nat) : Bool := c.part.contains core && !c.vacating.contains core
/-- Whether a core may take a team of a grid: a fragment team goes to its tile's owner (R266). -/
def State.mayTake (s : State) (c : Context) (g : Grid) (core : Nat) : Bool :=
  c.takes core && (g.frags.isEmpty || (s.fragTile g).any (·.owner == core))
/-- Whether a saved team is to be placed again: one that made room comes back only once what it waits for has come (R56, R79); none of a
failed context (R282). -/
def State.wantsIn (s : State) (t : Team) : Bool :=
  t.status == .out && !(s.ctxOf t).failed && (match t.gave with
    | none => true
    | some true => !s.grids.any (·.parentTeam == some t.uid)
    | some false => !t.threads.any fun h => h.arrKind == 2 && h.arrVal == (s.gridOf t).gbarGen)
/-- Whether a context places teams at all (R79, R300, R304): not while it migrates or is checkpointed, nor while a saved team waits. -/
def State.placing (s : State) (c : Context) : Bool :=
  c.migrating.isNone && c.ckpt == 0 && !s.teams.any fun t => t.die == c.die && t.ctx == c.num && s.wantsIn t

/-- The grid of a context whose team or cohort is placed next (R76, R266). -/
def State.nextGrid (s : State) (die ctx : Nat) : Option Grid :=
  (s.grids.filter fun g => g.die == die && g.ctx == ctx && g.nextNum.isSome && !s.fragBehind g).foldl (fun (b : Option Grid) g =>
    match b with | some x => if g.before x then some g else b | none => some g) none

/-- The quads of a fragment team given to its threads: quad i has the i-th, and threads beyond them are helpers (R266). -/
def State.giveQuads (s : State) (g : Grid) (uid : Nat) : State :=
  if g.frags.isEmpty then s
  else
    let who (f : Frag) : Option ThreadId :=
      ((List.range g.frags.length).find? fun i => g.frags[i]? == some f.quad).map fun i => (uid, 4 * i + f.k)
    let frags := match s.gfx? g.die g.ctx with | some x => x.frags | none => []
    let live (tid : Nat) : Bool := frags.any fun f => f.covered && f.who.isNone && who f == some (uid, tid)
    let s := s.updGfx g.die g.ctx fun x => { x with frags := x.frags.map fun f => if f.who.isNone then { f with who := who f } else f }
    s.updTeam uid fun tm => { tm with threads := tm.threads.map fun t => { t with quad := if live t.tid then .live else .helper } }

/-- Place the next team or cohort of a context, member i on core cores[i] (R52, R76, R77, R266, R481). -/
def execTeamPlace (die ctx : Nat) (cores : List Nat) (s : State) : Host.Outcome State Fault Refusal :=
  match s.ctx? die ctx with
  | none => .next s
  | some c =>
    match s.nextGrid die ctx with
    | none => .next s
    | some g =>
      let n := g.cohortSize
      match g.nextNum with
      | none => .next s
      | some num =>
        if cores.length != n || !cores.all (s.mayTake c g) || !s.placing c then .next s
        else
          let done (s : State) : State := s.updGrid g.uid fun g =>
            if g.again.contains num then { g with again := g.again.filter (· != num) } else { g with nextTeam := g.nextTeam + n }
          match s.placeCohort g (((List.range n).map (num + ·)).zip cores) with
          | .noRoom => .next s
          | .waits s => .next s
          | .ok s' => .next ((done s').giveQuads g s.nextId)
          | .missed vas s => .next ((done s).updGrid g.uid fun g => { g with parked := g.parked ++ vas.map fun va => (num, va) })

/-- Whether a core of a die is idle: on, and of no partition (R59, R331). -/
def State.idleCore (s : State) (die core : Nat) : Bool :=
    core < Config.cores (isDie die) && !(match s.die? die with | some d => d.coresOff.contains core | none => true)
      && !s.ctxs.any fun c => (c.die == die && c.part.contains core) || (c.migrating == some die && (c.sent.getD []).contains core)

/-- Core 1 grants idle cores of a die to a partition (R59, R331). -/
def execPartitionGrant (die ctx : Nat) (cores : List Nat) (s : State) : Host.Outcome State Fault Refusal :=
  match s.ctx? die ctx with
  | some c => .next (s.updCtx die ctx fun x => { x with part := c.part ++ (cores.eraseDups.filter (s.idleCore die ·)), stalled := false })
  | none => .next s

-- node batches (R52, R266)

/-- The offset of a node's queue in the pool (R72). -/
def poolOffset (ns : List Node) (n : Nat) : Nat := ((ns.take n).map fun x => (x.cap * x.recSize + 4095) / 4096 * 4096).sum

/-- A node team launched, to be placed in its turn (R52, R76): its grid, of depth 1 and without a completion timeline (R72), with its batch or
the quads of its fragments. -/
def State.nodeGrid (s : State) (c : Context) (gr : Graph) (nd : Node) (node : Nat) (batch : Option (Nat × Nat × Nat)) (frags : List Nat) : Nat × State :=
  let (uid, s) := s.makeGrid c { nd.lrec with ctlAddr := 0, ctlVal := 0 } nd.ectx gr.version 1 none none (some node) gr.prio 0 0
  (uid, s.updGrid uid fun g => { g with batch := batch, frags := frags })

/-- The quads of a tile that no fragment team has, in sequence order, as far as they are of one node (R266). -/
def State.waitingQuads (s : State) (g : Gfx) (t : TileWork) (node : Nat) : List Nat :=
  let taken := s.grids.flatMap fun r => if r.die == g.die && r.ctx == g.ctx then r.frags else []
  let mine := g.frags.filter fun f => f.who.isNone && f.k == 0 && f.x / 64 == t.tx && f.y / 64 == t.ty && !taken.contains f.quad
  (mine.takeWhile fun f => f.prim.node == node).map (·.quad)

/-- A fragment team launched for quads of one tile that a core owns (R266). It has no record batch: its s2 to s5 are free values (log 87). -/
def State.launchFrags (s : State) (c : Context) (gr : Graph) (nd : Node) (node count core : Nat) : State :=
  match s.gfx? c.die c.num with
  | none => s
  | some g =>
    match (g.tiles.filter (·.owner == core)).map (fun t => s.waitingQuads g t node) |>.find? (!·.isEmpty) with
    | none => s
    | some qs =>
      let (d, s) := s.draw
      (s.nodeGrid c gr nd node (some (d % 2 ^ 64, d / 2 ^ 64 % 2 ^ 32, d / 2 ^ 96 % 2 ^ 32)) (qs.take (min count (nd.lrec.teamSize / 4)))).2

/-- The batch of a shader node's oldest records, at a place in the pool that no running batch of it uses, nor a candidate record that the
ray engine has still to read (R52, R72, R256). -/
def State.launchBatch (s : State) (c : Context) (gr : Graph) (nd : Node) (node count : Nat) : State :=
  let recs := nd.queue.take count
  let base := gr.pool + poolOffset gr.nodes node
  let busy := (s.grids.filter fun g => g.die == c.die && g.ctx == c.num && g.frags.isEmpty).filterMap fun g => g.batch.map fun (a, z, n) => (a, z * n)
  let unread := (s.hits.filter fun h => h.die == c.die && h.ctx == c.num).map fun h => (h.ca, 32)
  let free := ((List.range (nd.cap + 1 - count)).map fun i => base + i * nd.recSize).filter fun a =>
    (busy ++ unread).all fun (b, n) => a + count * nd.recSize ≤ b || b + n ≤ a
  match s.choose free with
  | (none, _) => s
  | (some va, s) =>
    let m := feMaster c.die c.num
    match storeWords m (count * nd.recSize / 4) va recs.flatten s with
    | .error (.hold a k r) =>
      (s.engineFault m 0 a k r).updCtx c.die c.num fun c => { c with graph := c.graph.map fun g => { g with held := some a } }
    | .error (.wait s') => s'
    | .error (.fail _ _) => s.updNode c.die c.num node fun nd => { nd with queue := nd.queue.drop count }
    | .ok (_, s) =>
      let (uid, s) := s.nodeGrid c gr nd node (some (va, nd.recSize, count)) []
      let mine (r : Ray) (c : Cand) : Bool := c.grid.isNone && recs.any fun b => natAt b 0 8 == r.ra && natAt b 24 4 == c.token
      let s := if nd.recSize != 32 then s else
        { s with rays := s.rays.map fun (r : Ray) => if r.die == c.die && r.ctx == c.num then
            { r with cands := r.cands.map fun (x : Cand) => if mine r x then { x with grid := some uid } else x } else r }
      s.updNode c.die c.num node fun nd => { nd with queue := nd.queue.drop count }

/-- Core 2 launches a node team for a batch: 1 to the batch limit of records, or the quads of one tile of a core (R52, R266). The team is then
placed under R76. -/
def execNodeBatchLaunch (die ctx node count core : Nat) (s : State) : Host.Outcome State Fault Refusal :=
  match s.ctx? die ctx with
  | none => .next s
  | some c =>
    match c.graph with
    | none => .next s
    | some gr =>
      match gr.nodes[node]? with
      | none => .next s
      | some nd =>
        let limit := if nd.batch == 0 then nd.lrec.teamSize else nd.batch
        let frag := match (s.nodeOfKind die ctx 3).bind (s.node? die ctx ·) with | some r => r.succ.contains node | none => false
        if nd.kind != 1 || count == 0 || !s.placing c || gr.held.isSome then .next s
        else if frag && nd.queue.isEmpty then .next (s.launchFrags c gr nd node count core)
        else if limit < count || nd.queue.length < count then .next s
        else .next (s.launchBatch c gr nd node count)

-- the fold (R29, R30, R37, R48 to R51)

/-- What enters the fold as one: a thread, or a quad as a whole (R30, R37): the threads with their lanes, the step of its arrival (of a quad,
its last member's), its address and code version, context, and the coherence key of a CALLK that brought it (R49). -/
structure Waiting where
  members : List (ThreadId × Nat)
  since : Nat
  pc : DWord
  version : Nat
  ctx : Nat
  coh : Option Word
  deriving DecidableEq, Repr

/-- The members of a thread's quad that are live or running helpers. -/
def quadMates (tm : Team) (tid : Nat) : List Thread := tm.threads.filter fun t => t.tid / 4 == tid / 4 && !t.gone
/-- Whether a thread waits at a segment's entry, outside handlers: where quads assemble. One that resumes inside a segment, or runs a
handler, enters the fold by itself (R29, R37, R280). -/
def Thread.atEntry (t : Thread) : Bool := t.clause.isNone && t.handler == .none
/-- What a thread enters the fold with, if it may enter it now: its quad, once every member waits at the entry of the same segment, counted at
its first member; else itself (R37). -/
def foldUnit (tm : Team) (t : Thread) : Option (List Thread) :=
  match t.status with
  | .fold _ =>
    if !tm.quads || !t.atEntry then some [t]
    else
      let q := quadMates tm t.tid
      if (q.head?.map (·.tid)) == some t.tid
        && q.all fun o => o.atEntry && (match o.status with | .fold _ => o.pc == t.pc | _ => false) then some q else none
  | _ => none
/-- What waits in the fold of a core. -/
def State.foldWaiting (s : State) (die core : Nat) : List Waiting :=
  (s.teams.filter fun t => t.die == die && t.core == core && t.status != .ended && t.status != .out).flatMap fun tm =>
    tm.threads.filterMap fun t => (foldUnit tm t).map fun q =>
      { members := q.map fun o => ((tm.uid, o.tid), o.lane)
        since := (q.map fun o => match o.status with | .fold n => n | _ => 0).foldl max 0
        pc := t.pc, version := tm.version, ctx := tm.ctx, coh := t.dissolve }

/-- The key of a fold entry (R29). -/
def Waiting.key (w : Waiting) : Nat × Nat × DWord := (w.ctx, w.version, w.pc)
/-- The lowest TID. -/
def Waiting.tid (w : Waiting) : Nat := (w.members.head?.map (·.1.2)).getD 0
/-- The quarter it stands in. -/
def Waiting.quarter (lq : Nat) (w : Waiting) : Nat := (w.members.head?.map (·.2)).getD 0 / lq

/-- What waits at one entry, in the order it is taken (R30, R49): by arrival, then by TID; what CALLK brought stands together, at its first
arrival, sorted by coherence key and TID (log 83). -/
def foldOrder (ws : List Waiting) : List Waiting :=
  let first := ((ws.filter (·.coh.isSome)).map (·.since)).min?.getD 0
  let at' (w : Waiting) : Nat := if w.coh.isSome then first else w.since
  let key (w : Waiting) : Nat := (w.coh.getD 0).toNat
  ws.mergeSort fun a b => decide (at' a < at' b) || (at' a == at' b && (decide (key a < key b) || (key a == key b && decide (a.tid ≤ b.tid))))

/-- The 64 entries of a quarter: keys by the arrival of their oldest thread; a key beyond them waits (R29). -/
def foldKeys (ws : List Waiting) : List (Nat × Nat × DWord) :=
  ((ws.mergeSort fun a b => a.since ≤ b.since).map (·.key)).eraseDups.take 64

/-- One bundle of an entry: what waits, in order, each whole and on home lanes that the bundle does not hold yet (R30, R37). -/
def takeBundle (lq : Nat) (ws : List Waiting) : List Waiting :=
  ws.foldl (fun b w =>
    if w.members.any fun m => b.any fun (x : Waiting) => x.members.any (·.2 % lq == m.2 % lq) then b else b ++ [w]) []

/-- The bundles of one entry, taken until no thread waits (R30). -/
def entryBundles (lq : Nat) : Nat → List Waiting → List (List ThreadId)
  | 0, _ => []
  | f + 1, ws =>
    let b := takeBundle lq ws
    if b.isEmpty then []
    else (((b.flatMap (·.members)).mergeSort fun x y => x.2 ≤ y.2).map (·.1)) :: entryBundles lq f (ws.filter fun w => !b.contains w)

/-- The threads that move with a unit: of a quad also the members that wait at their EXIT (R39, R49). -/
def State.movers (s : State) (w : Waiting) : List ThreadId :=
  match w.members.head? with
  | none => []
  | some (id, _) =>
    let tm := s.team id.1
    if tm.quads then (tm.threads.filter fun t => t.tid / 4 == id.2 / 4 && t.status != .ended).map fun t => (tm.uid, t.tid) else w.members.map (·.1)
/-- Whether a dissolve point may move a unit (R49, R80): CALLK brought it, its completion flags are clear, and its core is not being vacated. -/
def State.mayMove (s : State) (core : Nat) (w : Waiting) : Bool :=
  w.coh.isSome
    && (match w.members.head? with
      | some (id, _) => (s.team id.1).status == .resident && !((s.ctxOf (s.team id.1)).vacating.contains core)
      | none => false)
    && (s.movers w).all fun id => (s.thread id).flagsClear && (s.thread id).infl.isEmpty
/-- A unit put on home lanes of its core: a quad on the four lanes 4j to 4j + 3 (R49). -/
def State.putUnit (s : State) (us : List ThreadId) (quad : Bool) (lane : Nat) : State :=
  us.foldl (fun s id => s.updThread id fun t => { t with lane := if quad then lane / 4 * 4 + id.2 % 4 else lane }) s
/-- The units of one entry in sort order, moved so as to fill bundles (R49): each goes to the next lanes that hold no other member of the
entry and have room, or stays, as a draw says. -/
def State.fillLanes (die core : Nat) : List Waiting → List Nat → State → State
  | [], _, s => s
  | w :: rest, held, s =>
    let (d, s) := s.draw
    let n := Config.lanes (isDie die)
    let us := s.movers w
    let quad := match us.head? with | some id => (s.team id.1).quads | none => false
    let lanesAt (l : Nat) : List Nat := if quad then [l / 4 * 4, l / 4 * 4 + 1, l / 4 * 4 + 2, l / 4 * 4 + 3] else [l]
    let used := s.coreLanes die core
    let free := (List.range n).filter fun l => (!quad || l % 4 == 0)
      && (lanesAt l).all fun k => !held.contains k && used.count k < Config.threadsPerLane
    match (if d % 2 == 0 then none else free.head?) with
    | some l => State.fillLanes die core rest (lanesAt l ++ held) (s.putUnit us quad l)
    | none => State.fillLanes die core rest (w.members.map (·.2) ++ held) s
/-- The moves of the dissolve points of a core (R48, R49). -/
def State.dissolveMoves (s : State) (die core : Nat) : State :=
  let ws := s.foldWaiting die core
  ((ws.filter (·.coh.isSome)).map (·.key)).eraseDups.foldl (fun (s : State) k =>
    let here := foldOrder (ws.filter (·.key == k))
    let (mov, stay) := here.partition (s.mayMove core)
    State.fillLanes die core mov (stay.flatMap fun w => w.members.map (·.2)) s) s

/-- The fold of a core forms bundles, after the moves of its dissolve points (R30, R49). -/
def execFoldFormationStep (die core : Nat) (s : State) : Host.Outcome State Fault Refusal :=
  let s := s.dissolveMoves die core
  let isD := isDie die
  let lq := Config.lanesPerQuarter isD
  let ws := s.foldWaiting die core
  let bundles := (List.range 4).flatMap fun q =>
    let mine := ws.filter fun w => w.quarter lq == q
    (foldKeys mine).flatMap fun k =>
      (entryBundles lq mine.length (foldOrder (mine.filter (·.key == k)))).map fun b => ({ quarter := q, members := b, since := s.steps } : Bundle)
  if bundles.isEmpty then .next s
  else
    let taken := bundles.flatMap (·.members)
    let s := taken.foldl (fun s id => s.updThread id fun t => { t with status := .bundled, dissolve := none }) s
    let cs := s.core die core
    .next (s.setCore { cs with bundles := cs.bundles ++ bundles })

/-- A bundle becomes aged, 2,048 cycles after it became ready or last issued (R81). -/
def execBundleAged (die core idx : Nat) (s : State) : Host.Outcome State Fault Refusal :=
  let cs := s.core die core
  .next (s.setCore { cs with bundles := cs.bundles.modify idx fun b => { b with aged := true } })

end Sys2Proof.Machine
end

