-- ==== Sys2Proof/Machine/Faults.lean ====
section
/-! DEFINITION. Replies and retries (R174, R233, R344, R94, R96), translation walks and the service of fault records (R162 to R164, R361, R480,
R481), home migration and remote maps (R167), first-level expiry (R187), the directory's time-outs (R168 to R170, R475, R476), host
requests (R175, R203), and the trap log (R285). -/
namespace Sys2Proof.Machine

-- replies (R174, R344)

/-- The oldest pending register write of a thread completes (R344). -/
def execLoadReply (team tid : Nat) (s : State) : Host.Outcome State Fault Refusal :=
  .next (s.landFirst (team, tid) fun f => !f.isWrite && f.op.isNone && f.late.isNone)
/-- The oldest pending write of a thread is accepted (R344). -/
def execWriteAccept (team tid : Nat) (s : State) : Host.Outcome State Fault Refusal :=
  .next (s.landFirst (team, tid) fun f => f.isWrite && f.op.isNone && f.late.isNone)
/-- The oldest late reply of a thread arrives: it traps at the next instruction the thread would issue (R174). -/
def execLateReply (team tid : Nat) (s : State) : Host.Outcome State Fault Refusal :=
  .next (s.landFirst (team, tid) fun f => f.op.isNone && f.late.isSome)

/-- Hardware retries a LOCK that found the FIFO full (R233). -/
def execLockRetry (team tid : Nat) (s : State) : Host.Outcome State Fault Refusal :=
  match (s.thread (team, tid)).status with
  | .blocked .retry => .next (s.updThread (team, tid) fun t => { t with status := .fold s.steps })
  | _ => .next s

/-- A waiting quota growth is served (R94): requests are served in arrival order. -/
def execQuotaGrant (team gang : Nat) (s : State) : Host.Outcome State Fault Refusal :=
  let tm := s.team team
  if tm.quotaQ.head? != some gang then .next s
  else match s.serveQuota team (quotaWanted tm) with
    | some s' => .next s'
    | none => .next s

/-- The hardware drops a kept register (R96). -/
def execRegisterDrop (team tid reg : Nat) (s : State) : Host.Outcome State Fault Refusal :=
  let t := s.thread (team, tid)
  if regState ((s.team team).quotaOf tid) reg (t.cell reg) == .kept && !t.pending reg then
    .next (s.updThread (team, tid) fun t => t.setCell reg { t.cell reg with stored := false })
  else .next s

-- translation (R162, R164)

def kindOf (n : Nat) : AccKind := match n with | 1 => .write | 2 => .execute | 3 => .atomic | _ => .read

/-- A page walk for a thread completes: the entry is installed (R160, R162). A walk that fails parks the thread only at an access of its
own, which walks again. -/
def execTranslationWalk (team tid : Nat) (va : DWord) (kind : Nat) (s : State) : Host.Outcome State Fault Refusal :=
  match s.thread? (team, tid) with
  | none => .next s
  | some _ =>
    let tm := s.team team
    let k := kindOf kind
    match s.translate tm.die tm.core (s.ctxOf tm) (if k == .execute then tm.version else 0) va.toNat k with
    | (.ok _, s') => .next s'
    | (.error _, _) => .next s

/-- Where a page's leaf stands, or is to stand: the key of the entry, the deepest one a walk reaches; missing tables are made in frames of
the firmware's choice. -/
def State.leafKey (s : State) (die va : Nat) : Nat → Nat → Nat × State
  | 0, table => (physKey die (table + 16 * bitsAt va 13 9), s)
  | l + 1, table =>
    let k := physKey die (table + 16 * bitsAt va (13 + 9 * (l + 1)) (if l == 3 then 8 else 9))
    let e : Pte := ⟨Memory.readNat s.mem k 8, Memory.readNat s.mem (k + 8) 8⟩
    if e.v && !e.bad (l + 1) then (if e.leaf then (k, s) else s.leafKey die va l e.addr)
    else
      let (d, s) := s.draw
      let frame := d % (Config.memoryBytes (isDie die) / 8192) * 8192
      let s := { s with mem := Memory.write (Memory.clear s.mem (physKey die frame) 8192) k (bytesLE 8 (1 + frame) ++ bytesLE 8 0) }
      s.leafKey die va l frame

/-- An entry written: dword 1 before dword 0 (R161). -/
def State.writePte (s : State) (key d0 d1 : Nat) : State := { s with mem := Memory.write (Memory.write s.mem (key + 8) (bytesLE 8 d1)) key (bytesLE 8 d0) }

/-- The oldest fault record of a die taken off its queue. -/
def State.popFault (s : State) (die : Nat) : Option (FaultRec × State) :=
  match (s.die? die).bind (·.faults.head?) with
  | none => none
  | some f => some (f, s.updDie die fun d => { d with faults := d.faults.drop 1 })

/-- The threads still parked on a record (R164, R472). -/
def State.parkedOn (s : State) (f : FaultRec) : List ThreadId :=
  f.who.reverse.filter fun id => match (s.thread id).status with
    | .parked va kind _ _ => va / 8192 == f.va / 8192 && kind == f.kind
    | _ => false

/-- The first placements of a grid that wait on a page wait no longer: a team or cohort that waits on none is tried again (R481). -/
def Grid.unpark (g : Grid) (on : Nat → Bool) : Grid :=
  let (hit, parked) := g.parked.partition fun (_, va) => on va
  { g with parked := parked
           again := g.again ++ ((hit.map (·.1)).eraseDups.filter fun n => !parked.any (·.1 == n)) }
/-- The engine work of a context held on a page goes on (R213, R260, R480, R481). -/
def State.release (s : State) (die ctx page : Nat) : State :=
  let on (a : Nat) : Bool := a / 8192 == page
  let off (h : Option Nat) : Option Nat := h.filter fun a => !on a
  let mine (d c : Nat) : Bool := d == die && c == ctx
  let s : State := { s with
    copies := s.copies.map fun (c : CopyOp) => if mine c.die c.ctx then { c with held := c.held.filter fun (h : Nat × AccKind) => !on h.1 } else c
    emits := s.emits.map fun (e : EmitOp) => if mine e.ctxDie e.ctx then { e with held := off e.held } else e
    traces := s.traces.map fun (t : TraceOp) => if mine t.die t.ctx && !t.doomed then { t with held := off t.held } else t
    hits := s.hits.map fun (h : HitOp) => if mine h.die h.ctx && !h.doomed then { h with held := off h.held } else h
    millHolds := s.millHolds.filter fun (h : MillHold) => !(mine h.die h.ctx && on h.va && !h.doomed)
    tlWrites := s.tlWrites.map fun (w : TlWrite) => if mine w.die w.ctx then { w with held := off w.held } else w
    gfx := s.gfx.map fun (g : Gfx) => if mine g.die g.ctx then { g with held := off g.held } else g
    grids := s.grids.map fun (g : Grid) => if mine g.die g.ctx then
        g.unpark on else g }
  let s := s.updCtx die ctx fun c => { c with graph := c.graph.map fun g => { g with held := off g.held } }
  let s := if (match s.die? die with | some d => d.trapHeld.any on && !d.trapDoomed | none => false) then
    s.updDie die fun d => { d with trapHeld := none } else s
  let qs := s.queues.filter fun q => mine q.die q.ctx
  let s := qs.foldl (fun (s : State) q =>
    if q.held.any fun h => on h.1 then
      (q.held.map (·.2)).elim s fun idx => (s.updQueue q.uid fun q => { q with held := none }).tryLaunch q.uid idx
    else s) s
  let s := qs.foldl (fun (s : State) q => if q.tlHeld.any on then s.settleQueue q.uid else s) s
  let s := qs.foldl (fun (s : State) q => q.cmds.foldl (fun (s : State) c =>
    match c.st with | some (.finishing _ (some a)) => if on a then s.finishStep q.uid c.idx else s | _ => s) s) s
  (s.grids.filter fun g => mine g.die g.ctx && g.held.any on).foldl (fun (s : State) g =>
    (s.updGrid g.uid fun g => { g with held := none }).retireGrid 12 g.uid) s

/-- Parked threads re-enter the fold at their instructions (R164). -/
def State.wake (s : State) (ids : List ThreadId) : State :=
  ids.foldl (fun s id => s.updThread id fun t => { t with status := .fold s.steps, clause := t.clause }) s

/-- A CODEWRITE resolved (R361): the page is copied to the frame of the entry, mapped there with R, W and X; the versions before keep their
frame; the page belongs to the open version, created if none is. -/
def State.openCode (s : State) (c : Context) (va frame : Nat) : State :=
  let page := va / 8192 * 8192
  match walkFrom s.mem c.die page 4 c.root with
  | .error _ => s
  | .ok lf =>
    let n := pageBytes lf.level
    let base := page / n * n
    let old := lf.pte.addr
    let new := frame / n * n
    let s := { s with mem := Memory.write s.mem (physKey lf.pte.home new) (s.homeBytes (physKey lf.pte.home old) n) }
    let d0 := lf.pte.d0 - old + new - (if lf.pte.code then 256 else 0)
    let d0 := d0 ||| 4 ||| 8 ||| 16
    let s := s.writePte lf.key d0 lf.pte.d1
    s.updCtx c.die c.num fun c =>
      let of_ (pa : Nat) : List (Nat × Nat × Nat) := (List.range (n / 8192)).map fun k => (base + 8192 * k, lf.pte.home, pa + 8192 * k)
      let keep (v : CodeVersion) : CodeVersion := { v with frames := (of_ old).filter (fun f => !v.frames.any (·.1 == f.1)) ++ v.frames }
      let last : CodeVersion := (c.versions.find? (·.num == c.current)).getD { num := c.current, ranges := [], entries := [] }
      let open_ : CodeVersion := c.openVer.getD { last with num := c.current + 1, frames := [] }
      { c with versions := c.versions.map keep
               openVer := some { open_ with frames := of_ new ++ open_.frames.filter fun f => !(base ≤ f.1 && f.1 < base + n) } }

/-- Whether the tables of a context let an access of a kind through, its home included (R159, R167). -/
def State.maps (s : State) (c : Context) (va : Nat) (kind : AccKind) : Bool :=
  match walkFrom s.mem c.die va 4 c.root with
  | .ok lf => (lf.pte.rights kind).isNone && !(lf.pte.home != c.die && lf.pte.home != 3 && c.cohOf c.die lf.pte == 0 && s.present lf.pte.home)
  | .error _ => false
/-- Core 3 resolves the oldest fault record with a page-table entry; where an earlier resolution has made the page valid for the record's
kind, it only wakes the record's threads (R164, R361, R471). A home fault stays for core 5 (R167). -/
def execFaultResolve (die : Nat) (d0 d1 : DWord) (s0 : State) : Host.Outcome State Fault Refusal :=
  match s0.popFault die with
  | none => .next s0
  | some (f, s) =>
    match s.ctx? die f.ctx with
    | none => .next s
    | some c =>
      let served (s : State) : State := (s.wake (s.parkedOn f)).release die f.ctx (f.va / 8192)
      if s.maps c f.va f.kind then .next (served s)
      else if f.reason == reasonHome then .next s0
      else
        let s := if f.reason == reasonCodeWrite then s.openCode c f.va (Pte.addr ⟨d0.toNat, d1.toNat⟩)
          else let (k, s) := s.leafKey die f.va 4 c.root; s.writePte k d0.toNat d1.toNat
        .next (served (s.dropTlb die f.ctx (f.va / 8192 * 8192) 8192))

/-- The trap of a thread whose fault is declared unresolvable (R164, R102, R225): TRAPADDR is its own address. -/
def unresolvedTrap (t : Thread) (reason : Nat) : TrapRec :=
  match t.status with
  | .parked va _ _ (some (reg, depth)) =>
    { cause := causeRecipe, reg := reg, depth := depth, addr := BitVec.ofNat 64 va }
  | .parked va _ _ none =>
    { cause := causeXlate, code := codeOfReason reason, addr := BitVec.ofNat 64 va
      step := if t.progress.msb then t.progress.toNat % 65536 else 0 }
  | _ => { cause := causeXlate, code := codeOfReason reason }

/-- The engine work of a context held on a page fails (R213, R260, R480, R481). -/
def State.doom (s : State) (die ctx page reason : Nat) : State :=
  let on (a : Nat) : Bool := a / 8192 == page
  let mine (d c : Nat) : Bool := d == die && c == ctx
  let lost := s.emits.filter fun e => mine e.ctxDie e.ctx && e.held.any on
  let s := lost.foldl (fun s e => s.emitDone e (some { cause := causeXlate, code := codeOfReason reason, addr := BitVec.ofNat 64 e.va })) s
  let s : State := { s with
    copies := s.copies.map fun (c : CopyOp) =>
      if mine c.die c.ctx && (c.held.any fun (h : Nat × AccKind) => on h.1) then { c with held := none, doomed := true } else c
    traces := s.traces.map fun (t : TraceOp) => if mine t.die t.ctx && t.held.any on then { t with doomed := true } else t
    hits := s.hits.map fun (h : HitOp) => if mine h.die h.ctx && h.held.any on then { h with doomed := true } else h
    millHolds := s.millHolds.map fun (h : MillHold) => if mine h.die h.ctx && on h.va then { h with doomed := true } else h
    tlWrites := s.tlWrites.filter fun (w : TlWrite) => !(mine w.die w.ctx && w.held.any on)
    gfx := s.gfx.map fun (g : Gfx) => if mine g.die g.ctx && g.held.any on then { g with held := none, doomed := page :: g.doomed } else g
    grids := s.grids.map fun (g : Grid) => if mine g.die g.ctx then
        { g.unpark on with lost := if g.held.any on || (g.parked.any fun (p : Nat × Nat) => on p.2) then page :: g.lost else g.lost } else g }
  let s := s.updCtx die ctx fun c => { c with graph := c.graph.map fun g => { g with held := g.held.filter fun a => !on a } }
  let s := s.updDie die fun d =>
    { d with trapDoomed := d.trapDoomed || d.trapHeld.any on
             waiting := d.waiting.map fun (k, what) => (k, if what == [0x10, ctx, page + 1] then [0x10, ctx, page + 1, 1] else what) }
  let qs := s.queues.filter fun q => mine q.die q.ctx
  let s := qs.foldl (fun (s : State) q =>
    match q.held with
    | some (a, idx) =>
      if !on a then s
      else
        let s := s.updQueue q.uid fun q => { q with held := none }
        if q.cmds.any (·.idx == idx) then s.queueError q.uid idx errBody else s.queueError q.uid idx errSeal
    | none => s) s
  let s := qs.foldl (fun (s : State) q => q.cmds.foldl (fun (s : State) c =>
    match c.st with | some (.finishing _ (some a)) => if on a then s.queueError q.uid c.idx errBody else s | _ => s) s) s
  let s := qs.foldl (fun (s : State) q => if q.tlHeld.any on then
      (match q.cmds.head? with | some c => s.queueError q.uid c.idx errBody | none => s) else s) s
  (s.grids.filter fun g => mine g.die g.ctx && g.held.any on).foldl (fun (s : State) g =>
    (s.updGrid g.uid fun g => { g with held := none }).retireGrid 12 g.uid) s

/-- Core 3 declares the oldest fault record unresolvable (R164). -/
def execFaultUnresolvable (die : Nat) (s : State) : Host.Outcome State Fault Refusal :=
  match s.popFault die with
  | none => .next s
  | some (f, s) =>
    let s := (s.parkedOn f).foldl (fun s id => s.takeTrap id (unresolvedTrap (s.thread id) f.reason)) s
    .next (s.doom die f.ctx (f.va / 8192) f.reason)

-- home faults (R167)

/-- The threads of a context parked on a page with reason HOME wake, and their records go (R167). -/
def State.wakeHome (s : State) (die ctx va : Nat) : State :=
  let on (a : Nat) : Bool := a / 8192 == va / 8192
  let s := s.updDie die fun d => { d with faults := d.faults.filter fun f => !(f.ctx == ctx && on f.va && f.reason == reasonHome) }
  let ids := (s.teams.filter fun tm => tm.die == die && tm.ctx == ctx).flatMap fun tm =>
    (tm.threads.filter fun t => match t.status with | .parked a _ r _ => on a && r == reasonHome | _ => false).map fun t => (tm.uid, t.tid)
  (s.wake ids).release die ctx (va / 8192)

/-- The level-0 and larger leaves of a table on a die, with the keys where they stand. -/
def leavesOf (m : List Host.Cell) (die : Nat) : Nat → Nat → List (Nat × Nat × Pte)
  | level, table =>
    (List.range (if level == 4 then 256 else 512)).flatMap fun i =>
      let k := physKey die (table + 16 * i)
      let e : Pte := ⟨Memory.readNat m k 8, Memory.readNat m (k + 8) 8⟩
      if !e.v || e.bad level then []
      else if e.leaf then [(k, level, e)]
      else match level with
        | 0 => []
        | l + 1 => leavesOf m die l e.addr

/-- Whatever is kept by the key of a location, moved with a page from one frame to another. -/
def State.rekey (s : State) (old new n : Nat) : State :=
  let mv (k : Nat) : Nat := if old ≤ k && k < old + n then new + (k - old) else k
  let inside (k : Nat) : Bool := old ≤ k && k < old + n
  { s with
    mem := Memory.write s.mem new (Memory.read s.mem old n)
    poison := (s.poison.filter fun k => !(new ≤ k && k < new + n)).map mv
    locks := s.locks.map fun (r : LockRec) => { r with key := mv r.key }
    ctxs := s.ctxs.map fun (c : Context) => { c with held := c.held.map fun (h : HeldWrite) => { h with key := mv h.key } }
    merges := s.merges.filter fun x => !inside x.key
    dirs := s.dirs.filter fun e => !inside e.key
    cores := s.cores.map fun (c : CoreState) => { c with l1 := c.l1.filter fun l => !inside l.key } }

/-- Directory lines of a page recalled to I: modified copies written back (R168). -/
def State.recall (s : State) (key n : Nat) : State :=
  s.dirs.foldl (fun (s : State) e =>
    if key ≤ e.key && e.key < key + n then
      match e.st with | .modified _ d => { s with mem := Memory.write s.mem e.key d } | _ => s
    else s) s

/-- The frames that code versions have of their own: page, home, physical address. -/
def Context.frameList (c : Context) : List (Nat × Nat × Nat) := (c.versions.flatMap (·.frames)).eraseDups
/-- The frames that code versions have of their own for a range of pages, moved with it to frames of the firmware's choice (R20, R167, R361). -/
def State.moveFrames (s : State) (c : Context) (base n newDie : Nat) : State :=
  let fs := c.frameList.filter fun f => base ≤ f.1 && f.1 < base + n && f.2.1 != newDie && f.2.1 != 3
  fs.foldl (fun (s : State) (page, home, pa) =>
    let (d, s) := s.draw
    let new := d % (Config.memoryBytes (isDie newDie) / 8192) * 8192
    let s := (s.recall (physKey home pa) 8192).rekey (physKey home pa) (physKey newDie new) 8192
    s.updCtx c.die c.num fun c => { c with versions := c.versions.map fun v =>
      { v with frames := v.frames.map fun f => if f == (page, home, pa) then (page, newDie, new) else f } }) s

/-- The page of va of a context moved to a frame of a die (R167): it is copied, every entry that maps it is rewritten with the new home and
address, and translations are dropped. A page that moves to D under CHECKPOINT carries CKD (R304). None when it cannot move so. -/
def State.movePage (s : State) (c : Context) (va newDie pa : Nat) : Option State :=
  match walkFrom s.mem c.die va 4 c.root with
  | .error _ => none
  | .ok lf =>
    let n := pageBytes lf.level
    let old := lf.pte.addr
    let base := va / n * n
    let frames := c.frameList.any fun f => base ≤ f.1 && f.1 < base + n && f.2.1 != newDie && f.2.1 != 3
    if !s.present newDie || pa % n != 0 || Config.memoryBytes (isDie newDie) < pa + n then none
    else if lf.pte.home == 3 || lf.pte.home == newDie then (if frames then some ((s.moveFrames c base n newDie).dropTlb c.die c.num 0 0) else none)
    else
      let home := lf.pte.home
      let s := (s.recall (physKey home old) n).rekey (physKey home old) (physKey newDie pa) n
      let s := s.ctxs.foldl (fun (s : State) x =>
        (leavesOf s.mem x.die 4 x.root).foldl (fun (s : State) (k, lvl, e) =>
          if lvl == lf.level && e.home == home && e.addr == old then
            let d0 := e.d0 - e.addr + pa - e.home * 1024 + newDie * 1024
            s.writePte k (if x.checkpoint && newDie != 0 then d0 ||| 512 else d0) e.d1
          else s) s) s
      let s := s.moveFrames c base n newDie
      some (s.ctxs.foldl (fun (s : State) x => s.dropTlb x.die x.num 0 0) s)

/-- Core 5 moves the page of va of a context to a frame of a die (R167), and the parked threads wake. -/
def execHomeMigration (die ctx : Nat) (va : DWord) (newDie pa : Nat) (s : State) : Host.Outcome State Fault Refusal :=
  match s.ctx? die ctx with
  | none => .next s
  | some c =>
    match s.movePage c va.toNat newDie pa with
    | none => .next s
    | some s => .next (s.wakeHome die ctx va.toNat)

/-- The entry of va on a die becomes owned and remotely mapped (R167). -/
def execRemoteMap (die ctx : Nat) (va : DWord) (s : State) : Host.Outcome State Fault Refusal :=
  match s.ctx? die ctx with
  | none => .next s
  | some c =>
    match walkFrom s.mem die va.toNat 4 c.root with
    | .error _ => .next s
    | .ok lf =>
      if lf.pte.home == 3 || lf.pte.home == die then .next s
      else
        let s := s.writePte lf.key lf.pte.d0 (lf.pte.d1 - lf.pte.coh + 1)
        .next ((s.dropTlb die ctx (va.toNat / 8192 * 8192) 8192).wakeHome die ctx va.toNat)

/-- A first-level line of a page without IMM leaves the cache (R187). -/
def execLineExpiry (die core line : Nat) (s : State) : Host.Outcome State Fault Refusal :=
  let cs := s.core die core
  .next (s.setCore { cs with l1 := cs.l1.filter fun l => l.imm || l.key != lineKey line })

-- the directory (R168 to R170, R475, R476)

/-- The context that an error record of a line names: that of the request that has waited longest (R170). -/
def State.waiterCtx (s : State) (e : DirEntry) : Nat :=
  match e.waiters.head? with | some (id, _) => (match s.team? id.1 with | some tm => tm.ctx | none => 0xFFF) | none => 0xFFF

/-- The owner of a line has not answered within 1 ms (R170, R475): OWNERLOST, a record of kind 3, and error replies. -/
def execOwnerTimeout (line : Nat) (s : State) : Host.Outcome State Fault Refusal :=
  match s.dirs.find? (·.key == lineKey line) with
  | none => .next s
  | some e =>
    let lose (owner prev : Nat) : State :=
      match e.snoop with
      | none => s
      | some n =>
        let home := e.key / 2 ^ 52
        let writes := (e.waiters.filter fun w => !w.2).length
        let returns := (e.waiters.filter (·.2)).length
        let idx := (s.die? home).map (·.errProd)
        let s := s.report home { kind := 3, ctx := s.waiterCtx e, code := codeOwnerLost, a := e.key % 2 ^ 52
                                 detail := bytesLE 1 owner ++ bytesLE 1 prev ++ bytesLE 4 n ++ bytesLE 2 writes ++ bytesLE 2 returns }
        let written := (s.die? home).map (·.errProd) != idx
        s.setDir e.key (some { e with st := .ownerLost, snoop := none, oldOwner := some owner, prev := prev, writes := writes, returns := returns
                                      errIdx := if written then idx else none })
    match e.st with
    | .exclusive o => .next (lose o 2)
    | .modified o _ => .next (lose o 3)
    | _ => .next s

/-- A late answer of an old owner is discarded; the owner drops its copy unwritten, and its die records the drop (R170, R476). -/
def execLateOwnerAnswer (line : Nat) (s : State) : Host.Outcome State Fault Refusal :=
  match s.dirs.find? (·.key == lineKey line) with
  | none => .next s
  | some e =>
    match e.oldOwner with
    | none => .next s
    | some o =>
      let s := s.report o { kind := 4, a := e.key % 2 ^ 52 }
      .next (s.setDir e.key (match e.st with
        | .shared [] => if e.waiters.isEmpty then none else some { e with oldOwner := none }
        | _ => some { e with oldOwner := none }))

/-- The owner of a line answers the awaited snoop (R168): dirty data is written back, and the requests waiting go on in arrival order. -/
def execSnoopAnswer (line : Nat) (s : State) : Host.Outcome State Fault Refusal :=
  match s.dirs.find? (·.key == lineKey line) with
  | none => .next s
  | some e =>
    if e.snoop.isNone then .next s
    else
      let free : Option DirEntry := some { e with st := .shared [], snoop := none }
      match e.st with
      | .exclusive _ => .next (s.setDir e.key free)
      | .modified _ d => .next ({ s with mem := Memory.write s.mem e.key d }.setDir e.key free)
      | _ => .next s

/-- The directory evicts an entry for room (R168): it recalls the line to I, asking an exclusive owner first. -/
def State.evictDir (s : State) (line : Nat) : State :=
  match s.dirs.find? (·.key == line) with
  | none => s
  | some e =>
    if !e.waiters.isEmpty || e.snoop.isSome then s
    else match e.st with
      | .ownerLost => s
      | .shared _ => s.setDir line (if e.oldOwner.isNone then none else some { e with st := .shared [] })
      | .exclusive _ | .modified .. => let (d, s) := s.draw; s.setDir line (some { e with snoop := some (d % 2 ^ 32) })

/-- Requests that no longer wait leave their line's list; a line nobody holds or asks for has no entry. -/
def State.cleanDirs (s : State) : State :=
  let waits (id : ThreadId) : Bool :=
    if id.1 == 0 then id.2 != 0 && (s.copies.any (·.op == id.2) || s.drains.any (·.op == id.2) || s.emits.any (·.op == id.2)
      || s.traces.any (·.op == id.2) || s.tlWrites.any (·.op == id.2) || s.rays.any (·.op == id.2) || s.hits.any (·.op == id.2) || s.hostReqs.any (·.op == id.2))
    else match s.thread? id with | some t => (match t.status with | .blocked _ => true | _ => false) | none => false
  { s with dirs := (s.dirs.map fun (e : DirEntry) => match e.st with
      | .ownerLost => e
      | _ => { e with waiters := e.waiters.filter fun w => waits w.1, nums := e.nums.filter fun w => waits w.1 }).filter fun (e : DirEntry) =>
        e.st != .shared [] || !e.waiters.isEmpty || e.oldOwner.isSome }

-- the host (R175, R203)

/-- The line addresses of a range. -/
def linesOf (a n : Nat) : List Nat := (List.range ((a + n + 63) / 64 - a / 64)).map fun i => (a / 64 + i) * 64
/-- The directory's service of a host request, a non-caching requester, line by line (R168): the lines whose owner is lost, whether one has to
wait. -/
def State.hostDir (s : State) (op die : Nat) (write : Bool) : List Nat → List Nat × Bool × State
  | [] => ([], false, s)
  | a :: rest =>
    let key := physKey die a
    let (r, s) := if s.dirs.any (·.key == key) then s.dirReq { key := key, home := die, coh := 2 } die write (!write) (0, op) else (.go, s)
    let (lost, waits, s) := s.hostDir op die write rest
    (if r == .lost then a :: lost else lost, r == .wait || waits, s)
/-- A host request tried (R168, R170, R203): it waits for the owners of its lines; a write to a line whose owner is lost is discarded. -/
def State.hostTry (s : State) (h : HostReq) : State :=
  let n := max 1 h.data.length
  let rest := s.hostReqs.filter (·.op != h.op)
  let (lost, waits, s) := if h.die == 3 then ([], false, s) else s.hostDir h.op h.die h.write (linesOf h.addr n)
  if waits then { s with hostReqs := rest ++ [h] }
  else
    let s : State := { s with hostReqs := rest }
    if !h.write then s
    else (linesOf h.addr n).foldl (fun (s : State) a =>
      let lo := max a h.addr
      let hi := min (a + 64) (h.addr + n)
      if lost.contains a then s else s.putHome (physKey h.die lo) ((h.data.drop (lo - h.addr)).take (hi - lo))) s

/-- A host read (empty data) or write of a location, at system scope (R168, R175, R203): an access table that refuses it answers with
Completer Abort and an error record. -/
def execHostRequest (write : Bool) (die addr : Nat) (data : List Byte) (_relaxed : Bool) (s : State) : Host.Outcome State Fault Refusal :=
  let n := max 1 data.length
  if 3 < die || (die != 3 && !s.present die) || 2 ^ 52 < addr + n then .next s
  else
    match (if die == 3 then none else s.tableRefuses die addr n) with
    | some code => .next (s.report die { kind := 12, code := code, a := addr })
    | none =>
      let h : HostReq := { op := s.nextId, write := write, die := die, addr := addr, data := data }
      .next (({ s with nextId := s.nextId + 1 } : State).hostTry h)

-- the trap log (R285)

/-- Core 4 copies the oldest trap record of a die into its context's ring, or drops it (R285, R482). -/
def execTrapLogCopy (die : Nat) (s : State) : Host.Outcome State Fault Refusal :=
  match s.die? die with
  | none => .next s
  | some d =>
    match d.traps with
    | [] => .next s
    | rec' :: rest =>
      let took (s : State) (lost : Bool) : State := s.updDie die fun d =>
        { d with traps := rest, trapDropped := if lost then d.trapDropped + 1 + natAt rec' 48 2 else 0, trapHeld := none, trapDoomed := false }
      let ctx := natAt rec' 38 2 % 4096
      match s.ctx? die ctx with
      | none => .next (took s true)
      | some c =>
        if c.trapRing == 0 then .next (took s true)
        else
          let m : Master := ⟨die, 0xFFFF, ctx, 0⟩
          let failed (kind code : Nat) : State :=
            took (s.report die { kind := 7, ctx := ctx, code := code, a := c.trapRing, detail := [BitVec.ofNat 8 kind] }) true
          if d.trapDoomed then .next (failed kindXlate 0)
          else if d.trapHeld.isSome then .next s
          else
            let out := trapLost rec' (min 0xFFFF (d.trapDropped + natAt rec' 48 2))
            let go : Eng (Option Nat) := do
              let cons := natLE (← engLoad m (c.trapRing + 8) 8)
              let used := ringUsed c.trapProd cons c.trapRingN
              if used == c.trapRingN then return none
              engStore m (c.trapRing + 64 + 64 * (c.trapProd % c.trapRingN)) out
              engStore m c.trapRing (bytesLE 8 (c.trapProd + 1))
              return some (used + 1)
            match go s with
            | .ok (none, s) => .next (took s true)
            | .ok (some used, s) =>
              let s := (took s false).updCtx die ctx fun c => { c with trapProd := (c.trapProd + 1) % 2 ^ 64 }
              .next (if used == c.trapRingN / 2 then s.raiseCtx die ctx c.errVector else s)
            | .error (.wait s') => .next s'
            | .error (.fail kind code) => .next (failed kind code)
            | .error (.hold va k r) => .next ((s.engineFault m 0 va k r).updDie die fun d => { d with trapHeld := some va })

end Sys2Proof.Machine
end

