-- ==== Sys2Proof/Machine/Image.lean ====
section
/-! DEFINITION. The portable state image (R296 to R299): its records, the page tables of a context rebuilt on another die, a context moved
whole from one die and number to another (R300, R302, R309), and the release of held outside effects (R305, R306). -/
namespace Sys2Proof.Machine

-- records

/-- A launch record as bytes (R70). -/
def LaunchRec.bytes (r : LaunchRec) : List Byte :=
  bytesLE 8 r.entry ++ bytesLE 4 r.x ++ bytesLE 4 r.y ++ bytesLE 4 r.z ++ bytesLE 2 r.teamSize ++ bytesLE 1 r.widthCode ++ bytesLE 1 r.cohort
    ++ bytesLE 1 ((if r.gridsync then 1 else 0) + (if r.quads then 2 else 0)) ++ [0] ++ bytesLE 1 r.quota ++ bytesLE 1 r.recipes
    ++ bytesLE 4 r.scratch ++ bytesLE 1 r.tiles ++ List.replicate 7 0 ++ bytesLE 8 r.param ++ bytesLE 8 r.ctlAddr ++ bytesLE 8 r.ctlVal

/-- The grid record of R296. -/
def State.gridRecord (s : State) (g : Grid) : List Byte :=
  let parent := match g.parent.bind s.grid? with | some p => p.num | none => 0xFFFFFFFF
  let q := match s.queue? g.queue with | some q => q.num | none => 0
  g.lrec.bytes ++ bytesLE 4 g.num ++ bytesLE 4 parent ++ bytesLE 1 g.depth ++ bytesLE 1 (if g.rerun then 1 else 0) ++ bytesLE 2 q
    ++ bytesLE 4 g.slotSeq ++ bytesLE 8 g.ended ++ bytesLE 8 g.gbar ++ bytesLE 4 (s.grids.countP fun x => x.parent == some g.uid)
    ++ bytesLE 4 0 ++ bytesLE 8 g.version ++ List.replicate 16 0

/-- The slot of the oldest command that has not completed (R298). -/
def Queue.oldest (q : Queue) : Nat := match q.cmds.find? (·.st != some .done) with | some c => c.idx | none => q.head

/-- The queue record of R298. -/
def Queue.record (q : Queue) : List Byte :=
  let h := q.oldest
  let bits := maskOf ((List.range 64).map fun i => q.cmds.any fun c => c.idx == (h + i) % 2 ^ 32 && c.st == some .done)
  bytesLE 8 q.base ++ bytesLE 1 q.k ++ bytesLE 1 q.prio ++ bytesLE 2 q.num ++ bytesLE 4 h ++ bytesLE 4 q.tail ++ bytesLE 8 q.statusAddr
    ++ bytesLE 8 q.ctl ++ bytesLE 8 q.completed ++ bytesLE 8 bits ++ bytesLE 1 (if q.stopped.isSome then 1 else 0)
    ++ bytesLE 1 (q.stopped.getD 0) ++ List.replicate 10 0

/-- The context record of R323: the descriptor, and a state for each phaser of its range. -/
def State.contextRecord (s : State) (c : Context) : List Byte :=
  c.descr ++ (List.range c.phCount).flatMap fun i =>
    match s.phasers.find? fun p => p.die == c.die && p.num == c.phBase + i with
    | some p => bytesLE 4 p.counter.toNat ++ bytesLE 1 p.scope ++ [0] ++ bytesLE 2 (p.members.countP fun m => m.mode % 2 == 1)
        ++ bytesLE 2 (p.members.countP fun m => 2 ≤ m.mode) ++ bytesLE 2 p.signals ++ List.replicate 4 0
    | none => List.replicate 16 0

/-- The commit record of R307. -/
def commitBytes (seq time ctxVa mapVa n die num : Nat) : List Byte :=
  bytesLE 8 seq ++ bytesLE 8 time ++ bytesLE 8 ctxVa ++ bytesLE 8 mapVa ++ bytesLE 4 n ++ bytesLE 2 (num + die * 4096) ++ List.replicate 26 0

/-- An entry of the page map of R304. -/
def Mirror.bytes (m : Mirror) : List Byte := bytesLE 8 m.va ++ bytesLE 8 m.frame ++ bytesLE 8 m.d0 ++ bytesLE 8 m.d1

-- page tables

/-- The virtual address of the i-th entry of a table at a level that covers from va on. -/
def entryVa (va level i : Nat) : Nat :=
  let a := va + i * 2 ^ (13 + 9 * level)
  if level == 4 && 128 ≤ i then a + 2 ^ 64 - 2 ^ 57 else a
/-- The leaves of a table on a die: address, level, entry. -/
def mapOf (m : List Host.Cell) (die : Nat) : Nat → Nat → Nat → List Mirror
  | level, va, table =>
    (List.range (if level == 4 then 256 else 512)).flatMap fun i =>
      let k := physKey die (table + 16 * i)
      let e : Pte := ⟨Memory.readNat m k 8, Memory.readNat m (k + 8) 8⟩
      if !e.v || e.bad level then []
      else if e.leaf then [{ va := entryVa va level i, level := level, frame := e.addr, d0 := e.d0, d1 := e.d1 }]
      else match level with
        | 0 => []
        | l + 1 => mapOf m die l (entryVa va (l + 1) i) e.addr
/-- The leaves of a context's tables. -/
def State.leaves (s : State) (c : Context) : List Mirror := mapOf s.mem c.die 4 0 c.root

/-- A frame for a table, of the firmware's choice, cleared. -/
def State.newTable (s : State) (die : Nat) : Nat × State :=
  let (d, s) := s.draw
  let frame := d % (Config.memoryBytes (isDie die) / 8192) * 8192
  (frame, { s with mem := Memory.clear s.mem (physKey die frame) 8192 })

/-- The key of the entry of va at a level, its tables made where missing. -/
def State.entryKey (s : State) (die va stop : Nat) : Nat → Nat → Nat × State
  | 0, table => (physKey die (table + 16 * bitsAt va 13 9), s)
  | l + 1, table =>
    let k := physKey die (table + 16 * bitsAt va (13 + 9 * (l + 1)) (if l == 3 then 8 else 9))
    if l + 1 == stop then (k, s)
    else
      let e : Pte := ⟨Memory.readNat s.mem k 8, Memory.readNat s.mem (k + 8) 8⟩
      if e.v && !e.leaf then s.entryKey die va stop l e.addr
      else
        let (frame, s) := s.newTable die
        ({ s with mem := Memory.write s.mem k (bytesLE 8 (1 + frame) ++ bytesLE 8 0) } : State).entryKey die va stop l frame

/-- Tables with some leaves, built on a die: the level-4 table (R297). -/
def State.buildTables (s : State) (die : Nat) (ls : List Mirror) : Nat × State :=
  let (root, s) := s.newTable die
  (root, ls.foldl (fun (s : State) m =>
    let (k, s) := s.entryKey die m.va m.level 4 root
    s.writePte k m.d0 m.d1) s)

-- moving a context

/-- What a moved context gets on its new die. -/
structure Move where
  die : Nat
  num : Nat
  root : Nat
  phBase : Nat
  part : List Nat
  /-- Queue numbers by queue uid. -/
  queues : List (Nat × Nat)
  deriving DecidableEq, Repr

/-- A number for a context, places for its phasers and numbers for its queues on a die, if there is room (R58, R61, R323). -/
def State.freeContext (s : State) (die : Nat) : Option (Nat × State) :=
  let used := 0 :: (s.ctxs.filter (·.die == die)).map (·.num)
  if 4096 ≤ used.length then none else some (s.unused 4096 used)
/-- Whether a phaser range is free on a die, but for a context (R323). -/
def State.phasersFree (s : State) (die base n : Nat) : Bool :=
  base + n ≤ 4096 && s.ctxs.all fun c => c.die != die || c.phCount == 0 || n == 0 || base + n ≤ c.phBase || c.phBase + c.phCount ≤ base
/-- A free phaser range of n. -/
def State.freePhasers (s : State) (die n : Nat) : Option Nat × State :=
  s.choose ((List.range (4097 - n)).filter fun b => s.phasersFree die b n)
/-- A queue number not in use on a die (R61). -/
def State.freeQueueNo (s : State) (die : Nat) (more : List Nat) : Nat × State :=
  s.unused 16384 (more ++ (s.queues.filter (·.die == die)).map (·.num))
/-- Numbers for a list of queues. -/
def State.queueNumbers (s : State) (die : Nat) : List Queue → List (Nat × Nat) → List (Nat × Nat) × State
  | [], acc => (acc, s)
  | q :: qs, acc =>
    let (n, s) := s.freeQueueNo die (acc.map (·.2))
    s.queueNumbers die qs ((q.uid, n) :: acc)

/-- The last commit of a context that moves (R307, R309): it names the context's new die and number; on P, where the context runs without
checkpoints, it is given up, and its frames are free. -/
def State.moveCommit (s : State) (c : Context) (mv : Move) : State :=
  match s.commits.find? fun k => k.die == c.die && k.num == c.num with
  | none => s
  | some k =>
    let rest := s.commits.filter fun k => !(k.die == c.die && k.num == c.num)
    if mv.die == 0 then { s with commits := rest }
    else { s with commits := { k with die := mv.die, num := mv.num } :: rest
                  mem := Memory.write s.mem (physKey 0 (k.recordVa + 36)) (bytesLE 2 (mv.num + mv.die * 4096)) }

/-- A context moved to another die and number, with everything that is its own (R302): queue entries count as enqueued at the new die's
count (R258). -/
def State.moveCtx (s : State) (c : Context) (mv : Move) : State :=
  let mine (d n : Nat) : Bool := d == c.die && n == c.num
  let lockId (l : LockId) : LockId := if mine l.ctxDie l.ctx then { l with ctxDie := mv.die, ctx := mv.num } else l
  let core := mv.part.head?.getD 0
  let cores := mv.part.mergeSort (· ≤ ·)
  let s : State := { s with
    ctxs := s.ctxs.map fun (x : Context) => if mine x.die x.num then
        { x with die := mv.die, num := mv.num, root := mv.root, phBase := mv.phBase, part := mv.part, migrating := none, sent := none
                 vacating := [], ckpt := 0, ckptWanted := false, dispatches := 0, stalled := false
                 held := if mv.die == 0 then [] else x.held, heldMore := if mv.die == 0 then [] else x.heldMore, graph := x.graph.map fun g => { g with waiting := none } } else x
    queues := s.queues.map fun (q : Queue) => if mine q.die q.ctx then
        { q with die := mv.die, ctx := mv.num, num := ((mv.queues.find? (·.1 == q.uid)).map (·.2)).getD q.num, held := none, tlHeld := none } else q
    grids := s.grids.map fun (g : Grid) => if mine g.die g.ctx then { g with die := mv.die, ctx := mv.num } else g
    teams := s.teams.map fun (t : Team) => if mine t.die t.ctx then { t with die := mv.die, ctx := mv.num } else t
    phasers := s.phasers.map fun (p : Phaser) => if p.die == c.die && c.phBase ≤ p.num && p.num < c.phBase + c.phCount then
        { p with die := mv.die, num := mv.phBase + (p.num - c.phBase) } else p
    locks := s.locks.map fun (l : LockRec) => { l with holder := l.holder.map lockId, fifo := l.fifo.map lockId }
    rays := s.rays.map fun (r : Ray) => if mine r.die r.ctx then
        { r with die := mv.die, ctx := mv.num, core := core, place := (match r.place with | .queued t _ => .queued t 0 | p => p) } else r
    scenes := s.scenes.map fun (x : Scene) => if mine x.die x.ctx then { x with die := mv.die, ctx := mv.num } else x
    traces := s.traces.map fun (t : TraceOp) => if mine t.die t.ctx then { t with die := mv.die, ctx := mv.num, core := core } else t
    millHolds := s.millHolds.filter fun (h : MillHold) => !mine h.die h.ctx
    merges := s.merges.filter fun (x : Merge) => !mine x.ctx.1 x.ctx.2
    ops := s.ops.map fun (o : OpOut) => if mine o.die o.ctx then { o with die := mv.die, ctx := mv.num } else o
    gfx := s.gfx.map fun (g : Gfx) => if mine g.die g.ctx then
        { g with die := mv.die, ctx := mv.num, cores := cores, remain := []
                 tiles := g.tiles.map fun (t : TileWork) => { t with owner := tileOwner cores t.tx t.ty, slot := none } } else g
    cores := s.cores.map fun (k : CoreState) => if k.die == c.die then
        { k with tlb := k.tlb.filter (·.ctx != c.num), regions := k.regions.filter (·.ctx != c.num) } else k
    lostPages := s.lostPages.filter fun (p : Nat × Nat × Nat) => !mine p.1 p.2.1 }
  (s.moveCommit c mv).updDie c.die fun d => { d with faults := d.faults.filter (·.ctx != c.num) }

/-- Every open tile of a context written back to its surface (R262, R263): whether all are. -/
def State.closeTiles (s : State) (die ctx : Nat) : Bool × State :=
  match s.gfx? die ctx with
  | none => (true, s)
  | some g =>
    match g.pass with
    | none => (true, s)
    | some p => s.gfxDone g (g.tiles.forM (closeTile g p))

/-- Whether nothing of a context is in flight, so that an image can be taken (R258, R287, R298): every team is out of its core, every started
COPY, MAPSYNC and SIGNAL has completed, and no ray stands in a mill. -/
def State.quiet (s : State) (c : Context) : Bool :=
  let mine (d n : Nat) : Bool := d == c.die && n == c.num
  (s.teams.all fun t => !mine t.die t.ctx || ((t.status == .out || t.status == .ended) && t.prologue.isNone))
    && (s.queues.all fun q => !mine q.die q.ctx || q.cmds.all fun k => match k.st with | some (.copying _) | some (.finishing ..) => false | _ => true)
    && (s.rays.all fun r => !mine r.die r.ctx || (match r.place with | .mill .. | .ending _ => false | _ => true))
    && !(s.copies.any fun o => mine o.die o.ctx) && !(s.emits.any fun o => mine o.ctxDie o.ctx) && !(s.hits.any fun o => mine o.die o.ctx)
    && !(s.tlWrites.any fun o => mine o.die o.ctx) && !(s.blends.any fun o => mine o.die o.ctx) && !(s.traces.any fun o => mine o.die o.ctx && !o.wait)

/-- The commands of a queue as a restore finds them (R298): a LAUNCH whose grid stands in the image goes on, a completed one stays so, and
every other one starts again. -/
def Queue.restored (q : Queue) : Queue :=
  { q with cmds := q.cmds.map fun c => match c.st with
      | some .done | some (.finishing ..) | some (.launching _ _ _ (some _) _) => c
      | _ => { c with st := none } }

/-- A status word written to a queue with a code, and above it the queue's number (R301, R309); the slot sequence is any, since no command
ends (log 41). -/
def State.queueStatus (s : State) (q : Queue) (code : Nat) : State :=
  let (d, s) := s.draw
  s.wordWrite (feMaster q.die q.ctx) q.statusAddr (d % 2 ^ 32 + (code + q.num * 256) * 2 ^ 32)

-- held effects (R305, R306)

/-- One held outside effect performed (R306). -/
def State.release1 (s : State) (c : Context) (h : HeldWrite) : State :=
  match h.red with
  | none => s.putHome h.key ((h.data.zip (List.range h.data.length)).map fun (_, i) => h.onto (h.key + i) ((s.homeBytes (h.key + i) 1).headD 0))
  | some (op, w) =>
    let home := h.key / 2 ^ 52
    let (d, s) := if home == 3 then s.draw else (0, s)
    if home == 3 && Config.hostRejects d then s
    else (s.applyAtom c { key := h.key, home := home } none (if w then 8 else 4) op h.order h.scope (natLE h.data) 0).2
/-- Held effects performed in the order they were made (R306). -/
def State.releaseHeld (s : State) (c : Context) (hs : List HeldWrite) : State := hs.foldl (fun s h => s.release1 c h) s

-- the end of a context

/-- A lock whose holder is gone goes to the first waiter (R233: the unit drops the records of a context that is destroyed, and waits for it
end). -/
def LockRec.handOn (l : LockRec) : LockRec :=
  match l.holder, l.fifo with
  | none, w :: ws => { l with holder := some w, granted := true, fifo := ws }
  | _, _ => l

/-- Everything of a context dropped: its teams, grids, queues and engine work, its locks, its number and its cores (R233, R321). -/
def State.dropCtx (s : State) (die num : Nat) : State :=
  let mine (d n : Nat) : Bool := d == die && n == num
  let c := (s.ctx? die num).getD { die := die, num := num, root := 0 }
  let uids := (s.teams.filter fun t => mine t.die t.ctx).map (·.uid)
  let lock (l : LockId) : Bool := !mine l.ctxDie l.ctx
  let s : State := { s with
    ctxs := s.ctxs.filter fun (x : Context) => !mine x.die x.num
    queues := s.queues.filter fun (q : Queue) => !mine q.die q.ctx
    grids := s.grids.filter fun (g : Grid) => !mine g.die g.ctx
    teams := s.teams.filter fun (t : Team) => !mine t.die t.ctx
    phasers := s.phasers.filter fun (p : Phaser) => !(p.die == die && c.phBase ≤ p.num && p.num < c.phBase + c.phCount)
    locks := (s.locks.map fun (l : LockRec) => (({ l with holder := l.holder.filter lock, fifo := l.fifo.filter lock } : LockRec)).handOn).filter
      fun (l : LockRec) => l.holder.isSome
    rays := s.rays.filter fun (r : Ray) => !mine r.die r.ctx
    scenes := s.scenes.filter fun (x : Scene) => !mine x.die x.ctx
    traces := s.traces.filter fun (t : TraceOp) => !mine t.die t.ctx
    tlWrites := s.tlWrites.filter fun (w : TlWrite) => !mine w.die w.ctx
    hits := s.hits.filter fun (h : HitOp) => !mine h.die h.ctx
    millHolds := s.millHolds.filter fun (h : MillHold) => !mine h.die h.ctx
    copies := s.copies.filter fun (o : CopyOp) => !mine o.die o.ctx
    mmas := s.mmas.filter fun (o : MmaOp) => !uids.contains o.team
    drains := s.drains.filter fun (o : DrainOp) => !uids.contains o.team
    emits := s.emits.filter fun (o : EmitOp) => !mine o.ctxDie o.ctx
    notes := s.notes.filter fun (o : NoteOp) => !uids.contains o.team
    ops := s.ops.filter fun (o : OpOut) => !mine o.die o.ctx
    merges := s.merges.filter fun (x : Merge) => !mine x.ctx.1 x.ctx.2
    gfx := s.gfx.filter fun (g : Gfx) => !mine g.die g.ctx
    blends := s.blends.filter fun (b : BlendOp) => !mine b.die b.ctx
    commits := s.commits.filter fun (k : Commit) => !mine k.die k.num
    cores := s.cores.map fun (k : CoreState) => if k.die == die then
        { k with tlb := k.tlb.filter (·.ctx != num), regions := k.regions.filter (·.ctx != num)
                 bundles := (k.bundles.map fun (b : Bundle) => { b with members := b.members.filter fun id => !uids.contains id.1 }).filter
                   fun (b : Bundle) => !b.members.isEmpty } else k
    issue := s.issue.bind fun (i : Issue) => if (i.todo ++ i.done).any fun id => uids.contains id.1 then none else some i
    lostPages := s.lostPages.filter fun (p : Nat × Nat × Nat) => !mine p.1 p.2.1 }
  s.updDie die fun d => { d with faults := d.faults.filter (·.ctx != num) }

end Sys2Proof.Machine
end

