-- ==== Sys2Proof/Machine/Display.lean ====
section
/-! DEFINITION. The display engine of P (R271 to R274): its registers, and a head's check for the next deadline. The addresses of present
records are physical addresses in P's device memory (log 42). -/
namespace Sys2Proof.Machine

/-- Whether a connection exists for a head in the current dock state (R271): 0 the embedded panel, 1 and 2 the dock connectors. -/
def connectionOk (docked : Bool) (head conn : Nat) : Bool :=
  if docked then conn == head + 1 else head == 0 && conn == 0
/-- Whether a mode stays within a connection's limits (R271). -/
def modeOk (docked : Bool) (hmode : DWord) : Bool :=
  let v := hmode.toNat
  let w := v % 65536
  let h := v / 65536 % 65536
  let r := v / 2 ^ 32 % 65536
  if docked then decide (w ≤ 7680 ∧ h ≤ 4320 ∧ r ≤ 6000) else decide (w ≤ 2560 ∧ h ≤ 1600 ∧ r ≤ 14400)
/-- A head's ENABLE bit. -/
def Head.on (h : Head) : Bool := h.hctl.getLsbD 0
/-- HSTAT's bits (R272): scanning, MODEBAD, TAILBAD. -/
def Head.modeBad (h : Head) : Bool := h.hstat.getLsbD 1
def Head.tailBad (h : Head) : Bool := h.hstat.getLsbD 2
/-- HSTAT of the three bits. -/
def hstatOf (scan modeBad tailBad : Bool) : Word := w32 ((if scan then 1 else 0) + (if modeBad then 2 else 0) + (if tailBad then 4 else 0))

/-- A write of HCTL (R272): the link and connection fields only while ENABLE is 0, and no reserved value of theirs (R4); enabling is checked;
TAILBAD ends with the next enable. -/
def Head.writeCtl (h : Head) (docked : Bool) (head : Nat) (v : Word) : Head :=
  let free := 8 ||| (if h.on || v.toNat / 2 % 4 == 3 then 0 else 0x6) ||| (if h.on || v.toNat / 16 % 4 == 3 then 0 else 0x30)
  let base := (h.hctl &&& ~~~(w32 (free ||| 1))) ||| (v &&& w32 free)
  if !v.getLsbD 0 then { h with hctl := base, hstat := hstatOf false h.modeBad h.tailBad }
  else if h.on then { h with hctl := base ||| 1 }
  else if connectionOk docked head (base.toNat / 16 % 4) && modeOk docked h.hmode then
    { h with hctl := base ||| 1, hstat := hstatOf true false false }
  else { h with hctl := base, hstat := hstatOf false true h.tailBad }

/-- A write of RINGTAIL (R272): checked as a notify (R61). -/
def Head.writeTail (h : Head) (v : Word) : Head :=
  if h.tailBad then h
  else if 2 ^ (h.ringSize.toNat % 16) < (v - h.ringHead).toNat || (v - h.ringTail).msb then { h with hstat := hstatOf h.on h.modeBad true }
  else { h with ringTail := v }

/-- A head of P changed. -/
def State.updHead (s : State) (head : Nat) (f : Head → Head) : State := s.updDie 0 fun d => { d with heads := d.heads.modify head f }
/-- A head of P. -/
def State.head? (s : State) (head : Nat) : Option Head := (s.die? 0).bind (·.heads[head]?)
/-- Whether P's dock connectors stand (R271, R316). -/
def State.docked (s : State) : Bool := match s.die? 0 with | some d => d.dock == .docked || d.dock == .undocking | none => false

/-- HCTL of a head written (R272). -/
def execHctlWrite (head : Nat) (value : Word) (s : State) : Host.Outcome State Fault Refusal :=
  .next (s.updHead head fun h => h.writeCtl s.docked head value)
/-- RINGTAIL of a head written (R272). -/
def execRingtailWrite (head : Nat) (value : Word) (s : State) : Host.Outcome State Fault Refusal :=
  .next (s.updHead head fun h => h.writeTail value)

-- the check (R273)

/-- Whether a present record keeps its limits (R273): bytes 62 and 63 are 0 until the head writes them. -/
def presentOk (bs : List Byte) (width : Nat) : Bool :=
  let px := if natAt bs 60 1 == 2 then 8 else 4
  let finite (o : Nat) : Bool := natAt bs o 4 / 2 ^ 23 % 256 != 255
  natAt bs 0 8 % 256 == 0 && natAt bs 8 8 % 256 == 0 && natAt bs 16 8 % 16 == 0 && natAt bs 32 8 % 16 == 0
    && finite 40 && finite 44 && finite 48 && finite 52 && natAt bs 40 4 % 2 ^ 31 != 0 && natAt bs 44 4 % 2 ^ 31 != 0
    && natAt bs 56 4 % 256 == 0 && decide (width * px ≤ natAt bs 56 4) && natAt bs 60 1 < 3 && zeroAt bs 61 3

/-- The address of record i of a ring. -/
def Head.recordPa (h : Head) (i : Nat) : Nat := h.ringBase.toNat + 64 * (i % 2 ^ (h.ringSize.toNat % 16))
/-- A read of the display engine in P's device memory; a refused one (R175) gives bytes that nothing constrains (log 91). -/
def State.dispRead (s : State) (pa n : Nat) : List Byte :=
  if (s.tableRefuses 0 pa n).isNone then s.homeBytes (physKey 0 pa) n else (List.range n).map fun i => Config.refusedByte s.steps (pa + i)
/-- A write of the display engine into a present record (R273); a refused one has no effect (R175, log 91). -/
def State.dispWrite (s : State) (pa : Nat) (bs : List Byte) : State :=
  if (s.tableRefuses 0 pa bs.length).isNone then s.putHome (physKey 0 pa) bs else s
/-- The outcome of a record written, and the head's vector raised (R272, R273). -/
def State.outcome (s : State) (h : Head) (i code : Nat) : State :=
  let s := s.dispWrite (h.recordPa i + 63) (bytesLE 1 code)
  if h.hvector.getLsbD 31 then s.raise 0 (h.hvector.toNat % 2048) else s

/-- RINGHEAD moved past the records whose outcome is final (R273). -/
def advanceHead (final : List Nat) : Nat → Nat → Nat
  | 0, i => i
  | n + 1, i => if final.contains i then advanceHead final n ((i + 1) % 2 ^ 32) else i

/-- A head's check for the next deadline (R273): bad records refused, the newest completed one shown, else the last one re-projected (R274)
or shown as it is. -/
def execRefreshCheck (head : Nat) (s : State) : Host.Outcome State Fault Refusal :=
  match s.head? head with
  | none => .next s
  | some h =>
    if !h.on || h.tailBad then .next (s.updHead head fun h => { h with warped := false, age := h.age + 1 })
    else
      let n := (h.ringTail - h.ringHead).toNat
      let window := (List.range n).map fun j => (h.ringHead.toNat + j) % 2 ^ 32
      let todo := window.filter fun i => !h.final.contains i && h.shown != some i
      let bytes (i : Nat) : List Byte := s.dispRead (h.recordPa i) 64
      let bad := todo.filter fun i => !presentOk (bytes i) (h.hmode.toNat % 65536)
      let good := todo.filter fun i => !bad.contains i
      let ready := good.filter fun i => decide (natAt (bytes i) 24 8 ≤ natLE (s.dispRead (natAt (bytes i) 16 8) 8))
      let s := bad.foldl (fun (s : State) i => s.outcome h i 3) s
      match ready.getLast? with
      | some c =>
        let older := good.takeWhile (· != c)
        let s := older.foldl (fun (s : State) i => s.outcome h i 2) s
        let s := s.outcome h c 1
        let final := h.final ++ bad ++ older ++ h.shown.toList
        let rh := advanceHead final n h.ringHead.toNat
        .next (s.updHead head fun h =>
          { h with shown := some c, warped := false, age := 0, ringHead := w32 rh, final := final.filter fun i => (window.dropWhile (· != rh)).contains i })
      | none =>
        let final := h.final ++ bad
        let rh := advanceHead final n h.ringHead.toNat
        let warp := !good.isEmpty && h.shown.isSome
        let s := match h.shown with
          | some c => if warp then
              let k := natLE (s.dispRead (h.recordPa c + 62) 1)
              s.dispWrite (h.recordPa c + 62) (bytesLE 1 (min 255 (k + 1)))
            else s
          | none => s
        .next (s.updHead head fun h =>
          { h with warped := warp, newest := good.getLast?.getD h.newest, age := h.age + 1, ringHead := w32 rh, final := final.filter fun i => (window.dropWhile (· != rh)).contains i })

-- re-projection (R274)

/-- The finite FP32 values of a record's words, times 2^149. -/
def wordsFixed (bs : List Byte) (o n : Nat) : List Int := (List.range n).map fun i => Num.fixed32 (natAt bs (o + 4 * i) 4)

/-- A vector turned by a quaternion x, y, z, w, times the square of the quaternion's length (log 94). -/
def turned (q : List Int) (v : Num.V3) : Num.V3 :=
  let u : Num.V3 := ⟨q.getD 0 0, q.getD 1 0, q.getD 2 0⟩
  let w := q.getD 3 0
  let c := u.cross v
  let k := w * w - u.dot u
  let m := 2 * u.dot v
  ⟨k * v.x + m * u.x + 2 * w * c.x, k * v.y + m * u.y + 2 * w * c.y, k * v.z + m * u.z + 2 * w * c.z⟩
/-- The inverse turn, to the same scale. -/
def turnedBack (q : List Int) (v : Num.V3) : Num.V3 := turned [-(q.getD 0 0), -(q.getD 1 0), -(q.getD 2 0), q.getD 3 0] v

/-- The pose a record names (R273): none where its words are no rotation. -/
def State.pose (s : State) (a : Nat) : Option (List Int) :=
  if a == 0 then some [0, 0, 0, 1]
  else
    let bs := s.dispRead a 16
    let q := wordsFixed bs 0 4
    if (List.range 4).all (fun i => Num.finite32 (natAt bs (4 * i) 4)) && q.any (· != 0) then some q else none

/-- A quotient with a positive divisor. -/
def asRatio (n d : Int) : Int × Int := if d < 0 then (-n, -d) else (n, d)

/-- Where a pixel of the output comes from (R274): the point H maps its centre to, each coordinate a quotient; k holds fx, fy, cx and cy. -/
def homography (k old new : List Int) (x y : Nat) : Option ((Int × Int) × (Int × Int)) :=
  let (fx, fy, cx, cy) := (k.getD 0 0, k.getD 1 0, k.getD 2 0, k.getD 3 0)
  let one : Int := Num.unit32
  let ray : Num.V3 := ⟨((2 * x + 1) * one - 2 * cx) * fy, ((2 * y + 1) * one - 2 * cy) * fx, 2 * fx * fy⟩
  let v := turnedBack new (turned old ray)
  if v.z == 0 then none else some (asRatio (fx * v.x + cx * v.z) (one * v.z), asRatio (fy * v.y + cy * v.z) (one * v.z))

/-- A finite FP16 value times 2^24; none for an infinity or a NaN. -/
def fixed16 (w : Nat) : Option Int :=
  let ex := w / 2 ^ 10 % 32
  let fr := w % 2 ^ 10
  let m : Nat := if ex == 0 then fr else (2 ^ 10 + fr) * 2 ^ (ex - 1)
  if ex == 31 then none else some (if w / 2 ^ 15 % 2 == 1 then -(m : Int) else m)

/-- The texel index of a coordinate, clamped to the edge. -/
def clampTo (i : Int) (n : Nat) : Nat := (min (max i 0) ((n : Int) - 1)).toNat

/-- The motion of a point (R273): that of the pixel it lies in, times 2^24 (log 95); 0 without a surface. -/
def State.motion (s : State) (a w h : Nat) (p : (Int × Int) × (Int × Int)) : Option (Int × Int) :=
  if a == 0 then some (0, 0)
  else
    let pitch := (4 * w + 255) / 256 * 256
    let bs := s.dispRead (a + clampTo (p.2.1 / p.2.2) h * pitch + clampTo (p.1.1 / p.1.2) w * 4) 4
    match fixed16 (natAt bs 0 2), fixed16 (natAt bs 2 2) with
    | some x, some y => some (x, y)
    | _, _ => none

/-- A point moved back along its motion by an age in periods (R274). -/
def moved (p : Int × Int) (mv : Int) (age : Nat) : Int × Int := (p.1 * 2 ^ 24 - mv * age * p.2, p.2 * 2 ^ 24)

/-- The codes of a texel's four channels (R273): RGBA8, RGB10A2 from the low bits up (log 95), or FP16. -/
def channelCodes (fmt : Nat) (bs : List Byte) : List Nat :=
  match fmt with
  | 0 => (List.range 4).map fun i => natAt bs i 1
  | 1 => let w := natAt bs 0 4; [w % 1024, w / 1024 % 1024, w / 2 ^ 20 % 1024, w / 2 ^ 30]
  | _ => (List.range 4).map fun i => natAt bs (2 * i) 2
/-- A channel code's value: a unit is 1, and 2^-24 for FP16. -/
def channelValue (fmt code : Nat) : Option Int := if fmt < 2 then some code else fixed16 code
/-- The largest code of a channel. -/
def channelMax (fmt ch : Nat) : Nat := match fmt with | 0 => 255 | 1 => if ch == 3 then 3 else 1023 | _ => 0x7BFF

/-- The bilinear sample of one channel at a point (R274), clamped to the edge, as a quotient: the codes of a texel by column and row. -/
def bilinear (value : Nat → Nat → Option Int) (w h : Nat) (px py : Int × Int) : Option (Int × Int) :=
  let (nx, dx) := (2 * px.1 - px.2, 2 * px.2)
  let (ny, dy) := (2 * py.1 - py.2, 2 * py.2)
  let (i, a) := (nx / dx, nx % dx)
  let (j, b) := (ny / dy, ny % dy)
  match value (clampTo i w) (clampTo j h), value (clampTo (i + 1) w) (clampTo j h), value (clampTo i w) (clampTo (j + 1) h),
      value (clampTo (i + 1) w) (clampTo (j + 1) h) with
  | some c00, some c10, some c01, some c11 => some ((c00 * (dx - a) + c10 * a) * (dy - b) + (c01 * (dx - a) + c11 * a) * b, dx * dy)
  | _, _, _, _ => none

/-- The codes within one unit of a format of an exact channel value (R274); for FP16 the unit is that of the nearest code. -/
def unitCodes (fmt ch : Nat) (v : Int × Int) : List Nat :=
  if fmt < 2 then
    let f := (v.1 / v.2).toNat
    [f - 1, f, f + 1].filter fun c => decide (c ≤ channelMax fmt ch ∧ (c * v.2 - v.1).natAbs ≤ v.2.natAbs)
  else
    let c := Num.ratioTo Num.fp16 v.1 (v.2 * 2 ^ 24)
    let ulp : Int := 2 ^ (max 1 (c / 2 ^ 10 % 32) - 1)
    let near : List Nat := [c, c + 1, c - 1] ++ (if c % 2 ^ 15 == 0 then [c ^^^ 2 ^ 15, (c ^^^ 2 ^ 15) + 1] else [])
    near.filter fun c => match fixed16 c with
      | some x => decide ((x * v.2 - v.1).natAbs ≤ (ulp * v.2).natAbs)
      | none => false

/-- The texel of a surface in P's memory. -/
def State.surfaceTexel (s : State) (bs : List Byte) (x y : Nat) : List Nat :=
  let fmt := natAt bs 60 1
  let px := if fmt == 2 then 8 else 4
  channelCodes fmt (s.dispRead (natAt bs 0 8 + y * natAt bs 56 4 + x * px) px)

/-- The exact channels of a re-projected pixel (R274), as quotients in the format's units; none where the formula gives no value. -/
def State.warpedPixel (s : State) (h : Head) (bs new : List Byte) (x y : Nat) : List (Option (Int × Int)) :=
  let w := h.hmode.toNat % 65536
  let rows := h.hmode.toNat / 65536 % 65536
  let fmt := natAt bs 60 1
  let point : Option ((Int × Int) × (Int × Int)) := do
    let p ← homography (wordsFixed bs 40 4) (← s.pose (natAt bs 32 8)) (← s.pose (natAt new 32 8)) x y
    let mv ← s.motion (natAt bs 8 8) w rows p
    pure (moved p.1 mv.1 h.age, moved p.2 mv.2 h.age)
  (List.range 4).map fun ch => do
    let p ← point
    bilinear (fun i j => channelValue fmt ((s.surfaceTexel bs i j).getD ch 0)) w rows p.1 p.2

/-- A pixel driven by a head that scans (R273, R274): the shown surface's texel as it is, or each channel within one unit of the exact warp,
as a free value says; any code where the formula gives no value (log 94). -/
def State.scanPixel (s : State) (head x y : Nat) : State :=
  match s.head? head with
  | none => s
  | some h =>
    match h.shown with
    | none => s
    | some c =>
      if !h.on || h.hmode.toNat % 65536 ≤ x || h.hmode.toNat / 65536 % 65536 ≤ y then s
      else
        let bs := s.dispRead (h.recordPa c) 64
        let fmt := natAt bs 60 1
        if !h.warped then s.updHead head fun h => { h with pixel := some (x, y, s.surfaceTexel bs x y) }
        else
          let exact := s.warpedPixel h bs (s.dispRead (h.recordPa h.newest) 64) x y
          let pick (ch : Nat) (v : Option (Int × Int)) (d : Nat) : Nat :=
            match v.map (unitCodes fmt ch) with
            | some (c :: cs) => (c :: cs).getD (d % (cs.length + 1)) c
            | _ => d % (match fmt with | 2 => 65536 | _ => channelMax fmt ch + 1)
          let (out, s) := (List.range 4).foldl (fun (o, s) ch =>
            let (d, s) := s.draw
            (o ++ [pick ch (exact.getD ch none) d], s)) (([] : List Nat), s)
          s.updHead head fun h => { h with pixel := some (x, y, out) }

end Sys2Proof.Machine
end

