-- ==== Sys2Proof/Machine/Integer.lean ====
section
/-! DEFINITION. The 32-bit integer, logic, shift and bit-field operations (R381, R382, R385, R388, R396, R416, R426, R428, R436, R446, R449): their values stand in aluEval; DIV counts in SETA (R344). -/
namespace Sys2Proof.Machine

/-- `add xD, xA, xB` (R381). -/
def execAdd (p : PReg) (d : XReg) (a : XReg) (b : XReg) (l : Bool) (k : Bool) (σ : State) : Host.Outcome State Fault Refusal :=
  aluOp (.add p d a b l k) σ

/-- `addc pairs` (R381). -/
def execAddc (p : PReg) (d : XReg) (a : XReg) (b : XReg) (l : Bool) (k : Bool) (σ : State) : Host.Outcome State Fault Refusal :=
  aluOp (.addc p d a b l k) σ

/-- `sub xD, xA, xB` (R381). -/
def execSub (p : PReg) (d : XReg) (a : XReg) (b : XReg) (l : Bool) (k : Bool) (σ : State) : Host.Outcome State Fault Refusal :=
  aluOp (.sub p d a b l k) σ

/-- `subb pairs` (R381). -/
def execSubb (p : PReg) (d : XReg) (a : XReg) (b : XReg) (l : Bool) (k : Bool) (σ : State) : Host.Outcome State Fault Refusal :=
  aluOp (.subb p d a b l k) σ

/-- `add xD, xA, imm9` (R381). -/
def execAddImm (p : PReg) (d : XReg) (a : XReg) (imm : Fin 512) (k : Bool) (σ : State) : Host.Outcome State Fault Refusal :=
  aluOp (.addImm p d a imm k) σ

/-- `mul xD, xA, xB` (R436). -/
def execMul (p : PReg) (d : XReg) (a : XReg) (b : XReg) (l : Bool) (k : Bool) (σ : State) : Host.Outcome State Fault Refusal :=
  aluOp (.mul p d a b l k) σ

/-- `mulh_ss xD, xA, xB` (R436). -/
def execMulhSS (p : PReg) (d : XReg) (a : XReg) (b : XReg) (l : Bool) (k : Bool) (σ : State) : Host.Outcome State Fault Refusal :=
  aluOp (.mulhSS p d a b l k) σ

/-- `mulh_nn xD, xA, xB` (R436). -/
def execMulhNN (p : PReg) (d : XReg) (a : XReg) (b : XReg) (l : Bool) (k : Bool) (σ : State) : Host.Outcome State Fault Refusal :=
  aluOp (.mulhNN p d a b l k) σ

/-- `mulh_sn xD, xA, xB` (R436). -/
def execMulhSN (p : PReg) (d : XReg) (a : XReg) (b : XReg) (l : Bool) (k : Bool) (σ : State) : Host.Outcome State Fault Refusal :=
  aluOp (.mulhSN p d a b l k) σ

/-- `mad xD, xA, xB, xC` (R428). -/
def execMad (p : PReg) (d : YReg) (a : YReg) (b : YReg) (c : YReg) (l : Bool) (k : Bool) (σ : State) : Host.Outcome State Fault Refusal :=
  aluOp (.mad p d a b c l k) σ

/-- `madw xD:xD+1, xA, xB, xC:xC+1` (R428). -/
def execMadw (p : PReg) (d : YReg) (a : YReg) (b : YReg) (c : YReg) (l : Bool) (k : Bool) (σ : State) : Host.Outcome State Fault Refusal :=
  aluOp (.madw p d a b c l k) σ

/-- `div.s or div.n (n) xD:xD+1, xA, xB` (R396). -/
def execDiv (p : PReg) (d : XReg) (a : XReg) (b : XReg) (n : Bool) (l : Bool) (σ : State) : Host.Outcome State Fault Refusal :=
  slowOp (.div p d a b n l) σ

/-- `and xD, xA, xB` (R382). -/
def execAnd (p : PReg) (d : XReg) (a : XReg) (b : XReg) (l : Bool) (k : Bool) (σ : State) : Host.Outcome State Fault Refusal :=
  aluOp (.and p d a b l k) σ

/-- `or xD, xA, xB` (R382). -/
def execOr (p : PReg) (d : XReg) (a : XReg) (b : XReg) (l : Bool) (k : Bool) (σ : State) : Host.Outcome State Fault Refusal :=
  aluOp (.or p d a b l k) σ

/-- `xor xD, xA, xB` (R382). -/
def execXor (p : PReg) (d : XReg) (a : XReg) (b : XReg) (l : Bool) (k : Bool) (σ : State) : Host.Outcome State Fault Refusal :=
  aluOp (.xor p d a b l k) σ

/-- `andn xD, xA, xB` (R382). -/
def execAndn (p : PReg) (d : XReg) (a : XReg) (b : XReg) (l : Bool) (k : Bool) (σ : State) : Host.Outcome State Fault Refusal :=
  aluOp (.andn p d a b l k) σ

/-- `shl xD, xA, xB` (R446). -/
def execShl (p : PReg) (d : XReg) (a : XReg) (b : XReg) (l : Bool) (k : Bool) (σ : State) : Host.Outcome State Fault Refusal :=
  aluOp (.shl p d a b l k) σ

/-- `shr_n xD, xA, xB` (R446). -/
def execShrN (p : PReg) (d : XReg) (a : XReg) (b : XReg) (l : Bool) (k : Bool) (σ : State) : Host.Outcome State Fault Refusal :=
  aluOp (.shrN p d a b l k) σ

/-- `shr_s xD, xA, xB` (R446). -/
def execShrS (p : PReg) (d : XReg) (a : XReg) (b : XReg) (l : Bool) (k : Bool) (σ : State) : Host.Outcome State Fault Refusal :=
  aluOp (.shrS p d a b l k) σ

/-- `rot xD, xA, xB` (R446). -/
def execRot (p : PReg) (d : XReg) (a : XReg) (b : XReg) (l : Bool) (k : Bool) (σ : State) : Host.Outcome State Fault Refusal :=
  aluOp (.rot p d a b l k) σ

/-- `shf xD, xA, xB, xC` (R449). -/
def execShf (p : PReg) (d : YReg) (a : YReg) (b : YReg) (c : YReg) (l : Bool) (k : Bool) (σ : State) : Host.Outcome State Fault Refusal :=
  aluOp (.shf p d a b c l k) σ

/-- `imin.s or imin.n (n)` (R416). -/
def execImin (p : PReg) (d : XReg) (a : XReg) (b : XReg) (n : Bool) (l : Bool) (k : Bool) (σ : State) : Host.Outcome State Fault Refusal :=
  aluOp (.imin p d a b n l k) σ

/-- `imax.s or imax.n (n)` (R416). -/
def execImax (p : PReg) (d : XReg) (a : XReg) (b : XReg) (n : Bool) (l : Bool) (k : Bool) (σ : State) : Host.Outcome State Fault Refusal :=
  aluOp (.imax p d a b n l k) σ

/-- `popc xD, xA` (R388). -/
def execPopc (p : PReg) (d : XReg) (a : XReg) (l : Bool) (k : Bool) (σ : State) : Host.Outcome State Fault Refusal :=
  aluOp (.popc p d a l k) σ

/-- `clz xD, xA` (R388). -/
def execClz (p : PReg) (d : XReg) (a : XReg) (l : Bool) (k : Bool) (σ : State) : Host.Outcome State Fault Refusal :=
  aluOp (.clz p d a l k) σ

/-- `brev xD, xA` (R388). -/
def execBrev (p : PReg) (d : XReg) (a : XReg) (l : Bool) (k : Bool) (σ : State) : Host.Outcome State Fault Refusal :=
  aluOp (.brev p d a l k) σ

/-- `iabs xD, xA` (R388). -/
def execIabs (p : PReg) (d : XReg) (a : XReg) (l : Bool) (k : Bool) (σ : State) : Host.Outcome State Fault Refusal :=
  aluOp (.iabs p d a l k) σ

/-- `bfe.n, or bfe.s when s` (R385). -/
def execBfe (p : PReg) (d : XReg) (a : XReg) (b : XReg) (s : Bool) (l : Bool) (k : Bool) (σ : State) : Host.Outcome State Fault Refusal :=
  aluOp (.bfe p d a b s l k) σ

/-- `bfi xD, xA, xB` (R385). -/
def execBfi (p : PReg) (d : XReg) (a : XReg) (b : XReg) (l : Bool) (k : Bool) (σ : State) : Host.Outcome State Fault Refusal :=
  aluOp (.bfi p d a b l k) σ

/-- `lea xD:xD+1, xA:xA+1, xB, sh` (R426). -/
def execLea (p : PReg) (d : XReg) (a : XReg) (b : XReg) (sh : Fin 4) (l : Bool) (k : Bool) (σ : State) : Host.Outcome State Fault Refusal :=
  aluOp (.lea p d a b sh l k) σ

end Sys2Proof.Machine
end

