-- ==== Sys2Proof/Machine/Mailbox.lean ====
section
/-! DEFINITION. Host mailboxes and the functions of the scheduler cores (R320 to R323, R78, R171, R307, R329 to R332, R475, R482). -/
namespace Sys2Proof.Machine

/-- A byte string of a length: cut, or filled with zeros. -/
def padTo (n : Nat) (bs : List Byte) : List Byte := (bs ++ List.replicate n 0).take n

/-- The mailbox of a scheduler core. -/
def Die.mailbox (d : Die) (core : Nat) : Mailbox := d.mail[core]?.getD {}
def Die.setMail (d : Die) (core : Nat) (m : Mailbox) : Die := { d with mail := d.mail.setIfInBounds core m }
/-- Whether a die's scheduler cores serve the host: its firmware runs (R325, R328, R332). -/
def Die.serves (d : Die) : Bool := d.boot == .running && !d.tripped && !d.d3hot
/-- Whether a scheduler core runs: RELOAD stops one for a while (R330). -/
def Die.runs (d : Die) (core : Nat) : Bool := d.stopped.all (·.1 != core)

/-- A doorbell (R320): it sets BUSY, or OVERRUN while BUSY or RESP is set. -/
def Mailbox.ring (m : Mailbox) (v : Word) : Mailbox :=
  if m.busy || m.resp then { m with overrun := true } else { m with door := v, busy := true }
/-- A write of MBSTAT (R315): RESP and OVERRUN clear where 1 is written. -/
def Mailbox.writeStat (m : Mailbox) (v : Word) : Mailbox :=
  { m with resp := m.resp && !v.getLsbD 1, overrun := m.overrun && !v.getLsbD 2 }
/-- MBSTAT as read (R315). -/
def Mailbox.stat (m : Mailbox) : Word := w32 ((if m.busy then 1 else 0) + (if m.resp then 2 else 0) + (if m.overrun then 4 else 0))

/-- A host write of MBSTAT (R315). -/
def execMbstatWrite (die core : Nat) (value : Word) (s : State) : Host.Outcome State Fault Refusal :=
  .next (s.updDie die fun d => d.setMail core ((d.mailbox core).writeStat value))
/-- A doorbell write; it overruns while BUSY or RESP is set (R320). -/
def execDoorbellOverrun (die core : Nat) (s : State) : Host.Outcome State Fault Refusal :=
  .next (s.updDie die fun d => d.setMail core ((d.mailbox core).ring 0))

/-- The request of a function that a scheduler core has before it: not one whose completion it already waits for (R320). -/
def State.request (s : State) (die core code : Nat) : Option (Die × List Byte) :=
  match s.die? die with
  | none => none
  | some d =>
    let m := d.mailbox core
    if d.serves && d.runs core && m.busy && natAt m.req 0 2 == code && !d.waiting.any (·.1 == core) then some (d, m.req) else none

/-- The response of a scheduler core (R320): the code and the tag echoed, the status, the result; the device vector. -/
def State.respond (s : State) (die core status : Nat) (result : List Byte) : State :=
  (s.updDie die fun d =>
    let m := d.mailbox core
    { d.setMail core { m with rsp := m.req.take 4 ++ padTo 4 (bytesLE 1 status) ++ padTo 56 result, busy := false, resp := true } with
      waiting := d.waiting.filter (·.1 != core) }).raise die 0

/-- What a function answers. -/
inductive Reply where
  | done (result : List Byte) (s : State)
  | err (status : Nat)
  /-- It completes later; what it waits for (R320). -/
  | later (what : List Nat) (s : State)

/-- The k-th field of a request. -/
def fieldAt (req : List Byte) (k : Nat) : Nat := natAt req (8 + 8 * k) 8

/-- Serve a request whose body has some bytes of fields: status 2 for a non-zero byte beyond them (R320). -/
def State.serve (s : State) (die core code used : Nat) (f : Die → List Byte → Reply) : Host.Outcome State Fault Refusal :=
  match s.request die core code with
  | none => .next s
  | some (d, req) =>
    if !(zeroAt req 4 4 && zeroAt req (8 + used) (56 - used)) then .next (s.respond die core 2 [])
    else match f d req with
      | .done result s => .next (s.respond die core 0 result)
      | .err st => .next (s.respond die core st [])
      | .later what s => .next (s.updDie die fun d => { d with waiting := (core, what) :: d.waiting })

/-- Bytes of host memory. -/
def State.hostBytes (s : State) (a n : Nat) : List Byte := s.homeBytes (physKey 3 a) n

-- queues (R321, R322)

/-- Queue descriptor limits (R322). -/
def queueDescOk (b : List Byte) : Bool :=
  let k := natAt b 8 1
  4 ≤ k && k ≤ 16 && natAt b 0 8 % (64 * 2 ^ k) == 0 && natAt b 9 1 ≤ 15 && natAt b 10 2 < 2048 && zeroAt b 14 2
    && natAt b 16 8 % 16 == 0 && natAt b 24 8 % 8 == 0 && zeroAt b 32 32

/-- QCREATE (R321, R322). -/
def execQcreate (die : Nat) (s : State) : Host.Outcome State Fault Refusal :=
  s.serve die 0 0x01 8 fun _ req =>
    let b := s.hostBytes (fieldAt req 0) 64
    let ctx := natAt b 12 2
    if !queueDescOk b || (s.ctx? die ctx).isNone then .err 2
    else if 16 ≤ (s.queues.countP fun q => q.die == die && q.ctx == ctx) || 16384 ≤ (s.queues.countP (·.die == die)) then .err 3
    else
      let (num, s) := s.freeQueueNo die []
      let q : Queue :=
        { uid := s.nextId, die := die, num := num, ctx := ctx, base := natAt b 0 8, k := natAt b 8 1, prio := natAt b 9 1
          vector := natAt b 10 2, ctl := natAt b 16 8, statusAddr := natAt b 24 8 }
      .done (bytesLE 8 num) { s with nextId := s.nextId + 1, queues := s.queues ++ [q] }

/-- Whether a command that has been started has not ended (R321). -/
def Cmd.running (c : Cmd) : Bool := match c.st with | none | some .done => false | _ => true

/-- QDESTROY (R321): from the request on the queue reads no slot; it completes once every started command has ended. -/
def execQdestroy (die : Nat) (s : State) : Host.Outcome State Fault Refusal :=
  s.serve die 0 0x02 8 fun _ req =>
    match s.queueNo die (fieldAt req 0) with
    | none => .err 2
    | some q => .later [0x02, q.uid] (s.updQueue q.uid fun q => { q with destroyed := true, cmds := q.cmds.filter (·.st.isSome) })

/-- The commands of a stopped queue at a restart from head h (R69, R321): the skipped slots count as completed, those already started before
h stay, and reading resumes at h. -/
def Queue.restart (q : Queue) (h : Nat) : Queue :=
  let n := (h + 2 ^ 32 - q.head) % 2 ^ 32
  let kept := q.cmds.takeWhile fun c => 2 ^ 31 ≤ (c.idx + 2 ^ 32 - q.head) % 2 ^ 32
  let skip (i : Nat) : Cmd :=
    let idx := (q.head + i) % 2 ^ 32
    (q.cmds.find? fun c => c.idx == idx && c.st.isSome).getD { idx := idx, slot := List.replicate 64 0, st := some .done }
  { q with cmds := kept ++ (List.range n).map skip, head := h, stopped := none, rereads := 0, held := none }

/-- QRESTART (R321). -/
def execQrestart (die : Nat) (s : State) : Host.Outcome State Fault Refusal :=
  s.serve die 0 0x03 16 fun _ req =>
    let h := fieldAt req 1
    match s.queueNo die (fieldAt req 0) with
    | none => .err 2
    | some q =>
      if q.stopped.isNone then .err 4
      else if 2 ^ 32 ≤ h || (q.tail + 2 ^ 32 - q.head) % 2 ^ 32 < (h + 2 ^ 32 - q.head) % 2 ^ 32 then .err 2
      else .done [] ((s.updQueue q.uid (·.restart h)).settleQueue q.uid)

-- contexts (R321, R323)

/-- A watch range of a descriptor (R283, R323). -/
def watchOf (b : List Byte) (i : Nat) : WatchRange := { base := natAt b (48 + 16 * i) 8, log2len := natAt b (56 + 16 * i) 1, kinds := natAt b (57 + 16 * i) 1 }
/-- Its limits; a disabled range has none but its reserved bytes. -/
def watchOk (b : List Byte) (i : Nat) : Bool :=
  let w := watchOf b i
  zeroAt b (58 + 16 * i) 6 && w.kinds < 8 && (w.kinds == 0 || (3 ≤ w.log2len && w.log2len ≤ 32 && w.base % 2 ^ w.log2len == 0))

/-- The limits of a context descriptor (R323). -/
def ctxDescOk (b : List Byte) : Bool :=
  let trapN := natAt b 144 4
  natAt b 0 8 % 8192 == 0 && natAt b 8 1 < 16 && zeroAt b 9 1 && natAt b 10 2 < 2048 && natAt b 12 4 ≤ 1000
    && natAt b 16 8 % 4 == 0 && natAt b 24 8 % 4 == 0 && natAt b 32 8 % 4 == 0 && (List.range 4).all (watchOk b)
    && natAt b 112 2 + natAt b 114 2 ≤ 4096 && zeroAt b 116 4 && natAt b 120 8 % 4096 == 0 && natAt b 128 8 % 4096 == 0
    && natAt b 136 8 % 64 == 0 && (if natAt b 136 8 == 0 then trapN == 0 else 64 ≤ trapN && trapN ≤ 65536 && trapN == 2 ^ Nat.log2 trapN)
    && zeroAt b 148 4 && natAt b 152 8 % 4096 == 0 && zeroAt b 172 20 && ectxOk ((b.drop 192).take 256)
    && (List.range 16).all (fun i => zeroAt b (200 + 16 * i) 4) && zeroAt b 448 64

/-- A context of a descriptor (R323): the loader's tables of its code are free values (log 43). -/
def contextOf (b : List Byte) (die num load : Nat) (part : List Nat) : Context :=
  let attr := natAt b 8 1
  let kind (k : Nat) : EntryKind := if k == 1 then .kernel else if k == 2 then .node else .prologue
  { die := die, num := num, root := natAt b 0 8, checkpoint := flagAt attr 0, detatom := flagAt attr 1, migratable := flagAt attr 2
    acceptDock := flagAt attr 3, errVector := natAt b 10 2, interval := if natAt b 12 4 == 0 then 16 else natAt b 12 4
    trapEntry := natAt b 16 8, saveEntry := natAt b 24 8, restoreEntry := natAt b 32 8, seed := BitVec.ofNat 64 (natAt b 40 8)
    watch := (List.range 4).map (watchOf b), phBase := natAt b 112 2, phCount := natAt b 114 2, poolAddr := natAt b 120 8
    poolSize := natAt b 128 8, trapRing := natAt b 136 8, trapRingN := natAt b 144 4, commitSize := natAt b 152 8
    hot := [natAt b 160 8, natAt b 168 4], descr := b, part := part
    versions := [{ num := 1, ranges := Config.loadedRanges load
                   entries := (Config.loadedEntries load).map fun (a, k, z) => { addr := a, kind := kind k, recSize := z }
                   dissolve := Config.loadedDissolve load }]
    codeBase := Config.loadedBase load }

/-- A context's queue engine contexts set up, or what that waits for (R204, R320): a page and its fault record, or the answer of another die. -/
inductive Setup where
  | ready (s : State)
  | waits (page : Nat) (s : State)
  | unreadable

/-- The queue engine contexts of a descriptor: each tracked one's timeline read once (R204, R323). -/
def readEctx (m : Master) : List ECtxRec → Eng (List ECtx)
  | [] => return []
  | e :: es => do
    let v ← (if e.tl == 0 then pure 0 else do return natLE (← engLoad m e.tl 8) + 1 : Eng Nat)
    let r ← readEctx m es
    return { tl := e.tl, next := BitVec.ofNat 64 v, scope := e.scope } :: r

/-- The timelines of a context's queue engine contexts read (R204): a miss writes its fault record, unless one stands for the page. -/
def State.setupEctx (s : State) (die num : Nat) : Setup :=
  match s.ctx? die num with
  | none => .unreadable
  | some c =>
    match readEctx (feMaster die num) (parseEctx ((c.descr.drop 192).take 256)) s with
    | .ok (es, s) => .ready (s.updCtx die num fun c => { c with ectx := Vector.ofFn fun i => es[i.val]?.getD {} })
    | .error (.wait s) => .waits 0 s
    | .error (.hold va k r) =>
      .waits (va / 8192 + 1) (if s.faultOn die num (va / 8192) then s else s.engineFault (feMaster die num) 0 va k r)
    | .error (.fail _ _) => .unreadable

/-- CTXCREATE (R321, R323): which idle cores, and which number, is the firmware's choice. -/
def execCtxcreate (die : Nat) (s : State) : Host.Outcome State Fault Refusal :=
  s.serve die 1 0x10 16 fun _ req =>
    let b := s.hostBytes (fieldAt req 0) 512
    let n := fieldAt req 1
    if !ctxDescOk b || n == 0 then .err 2
    else
      let idle := (List.range (Config.cores (isDie die))).filter (s.idleCore die ·)
      let (d, s) := s.draw
      let at_ := d % max 1 idle.length
      match s.freeContext die with
      | none => .err 3
      | some (num, s) =>
        let (load, s) := s.draw
        let c := contextOf b die num load ((idle.drop at_ ++ idle.take at_).take n)
        if idle.length < n || !s.phasersFree die c.phBase c.phCount then .err 3
        else
          match State.setupEctx { s with ctxs := s.ctxs ++ [c] } die num with
          | .unreadable => .err 2
          | .waits page s => .later [0x10, num, page] s
          | .ready s => .done (bytesLE 8 num) s

/-- The end of a context begun (R321): its queues read no further slot, its teams and grids end without a save. -/
def State.beginDestroy (s : State) (die num : Nat) : State :=
  let mine (d n : Nat) : Bool := d == die && n == num
  let uids := (s.teams.filter fun t => mine t.die t.ctx).map (·.uid)
  let s := uids.foldl (fun (s : State) uid => s.freeRegions (s.team uid)) s
  { s with
    queues := s.queues.map fun (q : Queue) => if mine q.die q.ctx then
        { q with destroyed := true
                 cmds := q.cmds.filterMap fun (c : Cmd) => match c.st with
                   | none => none
                   | some (.copying _) | some (.waiting ..) | some (.finishing ..) => some c
                   | _ => some { c with st := some .done } } else q
    grids := s.grids.filter fun (g : Grid) => !mine g.die g.ctx
    teams := s.teams.filter fun (t : Team) => !mine t.die t.ctx
    issue := s.issue.bind fun (i : Issue) => if (i.todo ++ i.done).any fun id => uids.contains id.1 then none else some i }

/-- CTXDESTROY (R321). -/
def execCtxdestroy (die : Nat) (s : State) : Host.Outcome State Fault Refusal :=
  s.serve die 1 0x11 8 fun _ req =>
    let n := fieldAt req 0
    if (s.ctx? die n).isNone then .err 2 else .later [0x11, n] (s.beginDestroy die n)

/-- VACATE (R78, R80, R321): the named cores of the partition, in a bitmap of one bit per core. -/
def execVacate (die : Nat) (s : State) : Host.Outcome State Fault Refusal :=
  s.serve die 1 0x12 16 fun _ req =>
    let n := fieldAt req 0
    match s.ctx? die n with
    | none => .err 2
    | some c =>
      if c.migrating.isSome then .err 4
      else
        let bits := natLE (s.hostBytes (fieldAt req 1) (Config.cores (isDie die) / 8))
        let named := c.part.filter (flagAt bits ·)
        .later [0x12, n] (s.updCtx die n fun c => { c with vacating := (c.vacating ++ named).eraseDups })

/-- COREOFF (R321, R331). -/
def execCoreoff (die : Nat) (s : State) : Host.Outcome State Fault Refusal :=
  s.serve die 1 0x13 8 fun d req =>
    let core := fieldAt req 0
    if Config.cores (isDie die) ≤ core then .err 2
    else if d.coresOff.contains core then .err 4
    else
      let s := s.updDie die fun d => { d with coresOff := core :: d.coresOff }
      .later [0x13, core] { s with ctxs := s.ctxs.map fun (c : Context) =>
        if c.die == die && c.part.contains core && !c.vacating.contains core then { c with vacating := core :: c.vacating }
        else if c.migrating == some die && (c.sent.getD []).contains core then
          let left := (c.sent.getD []).filter (· != core)
          { c with sent := if left.isEmpty then none else some left }
        else c }

/-- COREON (R321, R331). -/
def execCoreon (die : Nat) (s : State) : Host.Outcome State Fault Refusal :=
  s.serve die 1 0x14 8 fun _ req =>
    let core := fieldAt req 0
    if Config.cores (isDie die) ≤ core then .err 2
    else .done [] (s.updDie die fun d => { d with coresOff := d.coresOff.filter (· != core) })

/-- TILEMEM (R147, R263, R321): more than a slice can give is no resource, and a pass in progress keeps its slots (log 44). -/
def execTilemem (die : Nat) (s : State) : Host.Outcome State Fault Refusal :=
  s.serve die 2 0x20 16 fun _ req =>
    let n := fieldAt req 0
    if (s.ctx? die n).isNone then .err 2
    else if (s.gfx? die n).any (·.pass.isSome) then .err 4
    else if Config.sliceBytes (isDie die) < fieldAt req 1 * 16384 + 65536 then .err 3
    else
      let s := s.updCtx die n fun c => { c with tileSlots := fieldAt req 1 }
      .done [] { s with cores := s.cores.map fun (k : CoreState) => if k.die == die then
                   { k with regions := k.regions.filter fun r => !(r.kind == .tile && r.ctx == n) } else k }

-- errors (R321, R475, R482)

/-- ERRRING (R321, R482). -/
def execErrring (die : Nat) (s : State) : Host.Outcome State Fault Refusal :=
  s.serve die 4 0x40 16 fun _ req =>
    let a := fieldAt req 0
    let c := fieldAt req 1
    if a % 64 != 0 || c < 64 || 65536 < c || c != 2 ^ Nat.log2 c then .err 2
    else
      let s := s.updDie die fun d => { d with errRing := some (a, c), errProd := 0 }
      .done [] { s with dirs := s.dirs.map fun (e : DirEntry) => if e.key / 2 ^ 52 == die then { e with errIdx := none } else e }

/-- RECLAIM (R171, R321, R475, R476): the totals, the fill, and the error record marked in place. -/
def execReclaim (die : Nat) (s : State) : Host.Outcome State Fault Refusal :=
  s.serve die 4 0x41 9 fun d req =>
    let pa := fieldAt req 0
    let fill := natAt req 16 1
    if pa % 64 != 0 || Config.memoryBytes (isDie die) ≤ pa || 1 < fill then .err 2
    else match s.dirs.find? (·.key == physKey die pa) with
      | none => .err 4
      | some e =>
        if e.st != .ownerLost then .err 4
        else
          let s : State := { s.setDir e.key (some { e with st := .shared [] }) with poison := s.poison.filter (· != e.key) }
          let s := if fill == 1 then s.putHome e.key (List.replicate 64 0) else s
          let s := match e.errIdx, d.errRing with
            | some i, some (a, c) =>
              if (d.errProd + 2 ^ 64 - i) % 2 ^ 64 ≤ c then
                let k := physKey 3 (a + 64 + 64 * (i % c) + 62)
                s.putHome k [Memory.get s.mem k ||| 1]
              else s
            | _, _ => s
          .done (bytesLE 4 e.writes ++ bytesLE 4 e.returns) s

-- docking (R303, R307, R316, R321)

/-- GRANARY, on P (R307, R321). -/
def execGranary (die : Nat) (s : State) : Host.Outcome State Fault Refusal :=
  if die != 0 then (match s.request die 5 0x50 with | some _ => .next (s.respond die 5 1 []) | none => .next s)
  else s.serve die 5 0x50 16 fun _ req =>
    let a := fieldAt req 0
    let z := fieldAt req 1
    if z == 0 || Config.memoryBytes false < a + z then .err 2
    else .done [] (s.updDie die fun d => { d with granary := some (a, z) })

/-- The dock state of a die changed: each change raises the device vector (R316). -/
def State.setDock (s : State) (die : Nat) (st : DockState) : State :=
  match s.die? die with
  | some d => if d.dock == st then s else (s.updDie die fun d => { d with dock := st, refused := false }).raise die 0
  | none => s
/-- The dies beyond the downstream port of a die (R10). -/
def beyond (die : Nat) : List Nat := if die == 0 then [1, 2] else if die == 1 then [2] else []
/-- Where a context goes when the dies beyond a die are released: P, or D0 without P (R303). -/
def State.homeward (s : State) (die : Nat) : Nat := if s.present 0 then 0 else die

/-- Every migratable context beyond a link that is to be released is to be migrated, also one that came there meanwhile (R303). -/
def State.sendHome (s : State) : State :=
  s.dies.foldl (fun (s : State) d =>
    if d.dock != .undocking then s
    else { s with ctxs := s.ctxs.map fun (c : Context) =>
             if (beyond d.code).contains c.die && c.migratable && !c.failed && c.sent.isNone && c.ckpt == 0
               && c.migrating != some (s.homeward d.code) then { c with migrating := some (s.homeward d.code) } else c }) s
/-- UNDOCK taken up (R303, R316). -/
def State.beginUndock (s : State) (die : Nat) : State := (s.setDock die .undocking).sendHome

/-- UNDOCK (R303, R316, R317, R321): while a checkpoint is in progress it takes effect after the commit. -/
def execUndock (die : Nat) (s : State) : Host.Outcome State Fault Refusal :=
  s.serve die 5 0x51 0 fun d _ =>
    if d.dock != .docked then .err 4
    else if s.ctxs.any fun c => (beyond die).contains c.die && c.ckpt == 1 then .later [0x51] s
    else .done [] (s.beginUndock die)

/-- Directory requests sent again over a link (R169): one whose number has been served gets the kept reply and is not performed again; the
others wait on. -/
def State.replayDirs (s : State) : State :=
  { s with dirs := s.dirs.map fun (e : DirEntry) =>
      let served (id : ThreadId) (n : Nat) : Bool :=
        match s.team? id.1 with | some tm => (s.dirAgent tm.die (e.key / 2 ^ 52)).served == n | none => false
      let again := (e.nums.filter fun w => served w.1 w.2).map (·.1)
      { e with waiters := e.waiters.filter fun w => !again.contains w.1, nums := e.nums.filter fun w => !again.contains w.1 } }

/-- LINKRETRAIN (R169, R331): transfers in flight are replayed. -/
def execLinkretrain (die : Nat) (s : State) : Host.Outcome State Fault Refusal := s.serve die 5 0x52 8 fun _ _ => .done [] s.replayDirs

-- power (R16, R321, R332)

/-- CLOCKCAP, on D (R321, R332). -/
def execClockcap (die : Nat) (s : State) : Host.Outcome State Fault Refusal :=
  if die == 0 then (match s.request die 6 0x60 with | some _ => .next (s.respond die 6 1 []) | none => .next s)
  else s.serve die 6 0x60 8 fun _ req =>
    let f := fieldAt req 0
    if f < 400 || 1200 < f || f % 50 != 0 then .err 2 else .done [] (s.updDie die fun d => { d with clockCap := f })

/-- CHANRETRAIN (R331): misses to the channel wait for at most 1 ms; nothing of the state changes. -/
def execChanretrain (die : Nat) (s : State) : Host.Outcome State Fault Refusal :=
  s.serve die 6 0x61 8 fun _ req => if 16 ≤ fieldAt req 0 then .err 2 else .done [] s

/-- POWERCAP (R321, R332): 20 W on P, 150 W to 650 W on D. -/
def execPowercap (die : Nat) (s : State) : Host.Outcome State Fault Refusal :=
  s.serve die 6 0x62 8 fun _ req =>
    let w := fieldAt req 0
    if (if die == 0 then w == 20 else 150 ≤ w && w ≤ 650) then .done [] (s.updDie die fun d => { d with powerCap := w }) else .err 2

-- attestation and reload (R329, R330)

/-- IDENT (R315). -/
def Die.ident (d : Die) : Nat := (if d.isD then 0x0256 else 0x0064) * 65536 + d.code * 256 + Config.stepping d.code % 256
/-- A measurement log entry (R329). -/
def LogEntry.bytes (e : LogEntry) : List Byte :=
  bytesLE 8 e.time ++ bytesLE 1 e.component ++ bytesLE 1 e.event ++ [0, 0] ++ bytesLE 4 e.version ++ padTo 64 e.digest ++ List.replicate 48 0
/-- The report but for its signature (R329). -/
def Die.report (d : Die) (nonce : List Byte) : List Byte :=
  nonce ++ bytesLE 4 d.ident ++ padTo 64 d.measure ++ bytesLE Config.attestCountBytes d.log.length ++ d.log.flatMap LogEntry.bytes
    ++ Config.certificate d.code
/-- ATTEST (R329). -/
def execAttest (die : Nat) (s : State) : Host.Outcome State Fault Refusal :=
  s.serve die 7 0x70 16 fun d req =>
    let body := d.report (s.hostBytes (fieldAt req 0) 32)
    let all := body ++ Config.ecdsaSign d.code body
    .done (bytesLE 8 all.length) (s.putHome (physKey 3 (fieldAt req 1)) all)

/-- The measurement register extended by a component's digest, with a log entry (R329). -/
def Die.extend (d : Die) (time component event version : Nat) (digest : List Byte) : Die :=
  { d with measure := Config.sha512 (padTo 64 d.measure ++ digest)
           log := d.log ++ [{ time := time, component := component, event := event, version := version, digest := digest }] }

-- the rest

/-- The function codes of a scheduler core (R321). -/
def functionCodes (die core : Nat) : List Nat :=
  match core with
  | 0 => [0x01, 0x02, 0x03]
  | 1 => [0x10, 0x11, 0x12, 0x13, 0x14]
  | 2 => [0x20]
  | 4 => [0x40, 0x41]
  | 5 => if die == 0 then [0x50, 0x51, 0x52] else [0x51, 0x52]
  | 6 => if die == 0 then [0x61, 0x62] else [0x60, 0x61, 0x62]
  | 7 => [0x70, 0x71]
  | _ => []

/-- A request with any other code is answered with status 1 (R320, R321). -/
def execMbUnknownFunction (die core : Nat) (s : State) : Host.Outcome State Fault Refusal :=
  match s.die? die with
  | none => .next s
  | some d =>
    let code := natAt (d.mailbox core).req 0 2
    if functionCodes die core |>.contains code then .next s
    else match s.request die core code with
      | some _ => .next (s.respond die core 1 [])
      | none => .next s

/-- Where a function that waits stands (R78, R321). -/
inductive Served where
  /-- Its end: a status, its result, and what it leaves. -/
  | done (status : Nat) (result : List Byte) (s : State)
  | waits (s : State)

/-- Whether a function that waits is complete, and what its end leaves (R78, R204, R321, R330). -/
def State.served (s : State) (die core : Nat) (what : List Nat) : Served :=
  let whenNot (b : Bool) (s' : State) : Served := if b then .waits s else .done 0 [] s'
  match what with
  | [0x02, uid] => whenNot ((s.queue? uid).any fun q => q.cmds.any Cmd.running) { s with queues := s.queues.filter (·.uid != uid) }
  | [0x10, num, _] =>
    (match s.setupEctx die num with
    | .ready s => .done 0 (bytesLE 8 num) s
    | .waits page s => .waits (s.updDie die fun d => { d with waiting := d.waiting.map fun w => if w.1 == core then (core, [0x10, num, page]) else w })
    | .unreadable => .done 2 [] (s.dropCtx die num))
  | [0x10, num, _, _] => .done 2 [] (s.dropCtx die num)
  | [0x11, ctx] => whenNot (s.queues.any fun q => q.die == die && q.ctx == ctx && q.cmds.any Cmd.running) (s.dropCtx die ctx)
  | [0x12, ctx] => whenNot ((s.ctx? die ctx).any fun c => !c.vacating.isEmpty) s
  | [0x13, core] => whenNot (s.ctxs.any fun c => c.die == die && c.part.contains core) s
  | [0x51] => whenNot (s.ctxs.any fun c => (beyond die).contains c.die && c.ckpt == 1) (s.beginUndock die)
  | [0x71] => whenNot ((s.die? die).any (·.stopped.isSome)) s
  | _ => .done 0 [] s

/-- The responses of functions that have become complete. -/
def State.serveWaiting (s : State) : State :=
  s.dies.foldl (fun (s : State) d => d.waiting.foldl (fun (s : State) (core, what) =>
    match s.served d.code core what with
    | .done status result s => s.respond d.code core status result
    | .waits s => s) s) s

-- hardware mailboxes (R319)

/-- The messages from one scheduler core to another. -/
def Die.fifo (d : Die) (sender receiver : Nat) : List (List Byte) :=
  ((d.fifos.find? fun f => f.1 == sender && f.2.1 == receiver).map (·.2.2)).getD []
def Die.setFifo (d : Die) (sender receiver : Nat) (ms : List (List Byte)) : Die :=
  { d with fifos := (sender, receiver, ms) :: d.fifos.filter fun f => !(f.1 == sender && f.2.1 == receiver) }
/-- A scheduler core sends a message of 64 bytes to another; while 256 stand, it waits (R319). -/
def Die.sendMsg (d : Die) (sender receiver : Nat) (msg : List Byte) : Die :=
  let ms := d.fifo sender receiver
  if sender == receiver || !d.runs sender || 256 ≤ ms.length then d else d.setFifo sender receiver (ms ++ [msg])
/-- A scheduler core takes the oldest message of a sender; a stopped one takes none (R319, R330). -/
def Die.takeMsg (d : Die) (sender receiver : Nat) : Die :=
  if d.runs receiver then d.setFifo sender receiver ((d.fifo sender receiver).drop 1) else d

end Sys2Proof.Machine
end

