-- ==== Sys2Proof/Machine/Move.lean ====
section
/-! DEFINITION. Comparisons, predicates, moves, selection and constants (R402, R443, R434, R447, R425). -/
namespace Sys2Proof.Machine

/-- ICMP (R402, R366): a PD of 0 is not written. -/
def execIcmp (p : PReg) (q : Fin 8) (a b : XReg) (cond : Fin 8) (comb : Fin 4) (l : Bool) (s : State) :
    Host.Outcome State Fault Refusal :=
  runThread (.icmp p q a b cond comb l) (do
    let x ← readX a.val
    let y ← readX b.val
    modThread fun t => t.setPred q.val (combine comb.val (t.pred q.val) (icmpCond cond.val x y))
    retire (.icmp p q a b cond comb l) s.pfx) s

/-- FCMP (R402, R366): FTZ from FMODE or the prefix; INVALID by the condition. -/
def execFcmp (p : PReg) (q : Fin 8) (a b : XReg) (cond : Fin 8) (comb : Fin 4) (l : Bool) (s : State) :
    Host.Outcome State Fault Refusal :=
  runThread (.fcmp p q a b cond comb l) (do
    let ftz ← curFtz
    let x ← readX a.val
    let y ← readX b.val
    let (c, fl) := Num.fcmp cond.val (floatMods s.pfx ftz).ftz x.toNat y.toNat
    modThread fun t => t.setPred q.val (combine comb.val (t.pred q.val) c)
    setFlags fl
    retire (.fcmp p q a b cond comb l) s.pfx) s

/-- PLOP (R443). -/
def execPlop (p d a b : PReg) (op : Fin 4) (s : State) : Host.Outcome State Fault Refusal :=
  runThread (.plop p d a b op) (do
    modThread fun t => t.setPred d.val (plopOp op.val (t.pred a.val) (t.pred b.val))
    retire (.plop p d a b op) s.pfx) s

/-- `mov xD, xA` (R434). -/
def execMov (p : PReg) (d a : XReg) (l k : Bool) (s : State) : Host.Outcome State Fault Refusal :=
  aluOp (.mov p d a l k) s

/-- Whether an s register of the team has a pending write of the thread's own LDC (R424, R345). -/
def holdS (n : Nat) : Op Unit := do
  if (← get).curThread.infl.any fun f => f.sdsts.any (·.1 == n) then stop .hold

/-- `movs xD, sA` (R434). -/
def execMovs (p : PReg) (d : XReg) (a : YReg) (k : Bool) (s : State) : Host.Outcome State Fault Refusal :=
  runThread (.movs p d a k) (do
    holdS a.val
    aluBody (.movs p d a k)) s

/-- The write of an SMOV (R434, R88), after the check for the thread's own pending LDC (R424). The team's other threads see it at once, before a
BAR orders it too (DEDUCED, log 100). -/
def smovBody (i : Instr) (d a : Nat) : Op Unit := do
  let s ← get
  let v ← readX a
  holdS d
  modTeam fun tm => { tm with s := tm.s.setIfInBounds d v }
  retire i s.pfx

/-- `smov sD, xA` (R434): of one issue the highest TID supplies the value (R88). -/
def execSmov (p : PReg) (d : YReg) (a : XReg) (l : Bool) (s : State) : Host.Outcome State Fault Refusal :=
  runThread (.smov p d a l) (do
    if sOvertaken s p then
      let _ ← readX a.val
      retire (.smov p d a l) s.pfx
    else smovBody (.smov p d a l) d.val a.val) s

/-- The predicates as MOVP reads them: p7 to p0 in bits 7 to 0, bit 0 set (R434). -/
def predWord (t : Thread) : Word := w32 ((List.range 8).foldl (fun v i => v + (if t.pred i then 2 ^ i else 0)) 0)

/-- `movp xD, preds` (R434). -/
def execMovpToReg (p : PReg) (d : XReg) (s : State) : Host.Outcome State Fault Refusal :=
  runThread (.movpToReg p d) (do
    writeX d.val (predWord s.curThread)
    retire (.movpToReg p d) s.pfx) s

/-- `movp preds, xA` (R434): p1 to p7 from bits 7 to 1. -/
def execMovpToPreds (p : PReg) (a : XReg) (l : Bool) (s : State) : Host.Outcome State Fault Refusal :=
  runThread (.movpToPreds p a l) (do
    let v ← readX a.val
    modThread fun t => (List.range 8).foldl (fun t i => t.setPred i (v.getLsbD i)) t
    retire (.movpToPreds p a l) s.pfx) s

/-- `sel xD, pQ, xA, xB` (R447): only the selected operand is read; the recipe is that of MOV from it (R99). -/
def execSel (q : PReg) (d a b : XReg) (l k : Bool) (s : State) : Host.Outcome State Fault Refusal :=
  runThread (.sel q d a b l k) (do
    let ftz ← curFtz
    let n := if s.curThread.pred q.val then a else b
    let v ← readX n.val
    writeRegs [d.val] [v] (if k then recipeFor (.mov 0 d n false true) none ftz else none)
    retire (.sel q d a b l k) s.pfx) s

/-- LDI (R425): IMM16 sign-extended; records a recipe where it can (R97). -/
def execLdi (p : PReg) (d : XReg) (imm : Fin 65536) (s : State) : Host.Outcome State Fault Refusal := aluOp (.ldi p d imm) s

/-- LDHI (R425): IMM16 in the high half; records a recipe where it can (R97). -/
def execLdhi (p : PReg) (d : XReg) (imm : Fin 65536) (s : State) : Host.Outcome State Fault Refusal := aluOp (.ldhi p d imm) s

end Sys2Proof.Machine
end

