-- ==== Sys2Proof/Machine/Platform.lean ====
section
/-! DEFINITION. Boot (R325 to R329), the register space (R315), docking (R316, R317), the loss of a link (R308 to R311, R318), clocks, power
and reset (R16, R332, R333). -/
namespace Sys2Proof.Machine

-- boot

/-- Whether a carve-out keeps the limits of R326. -/
def Die.carveOk (d : Die) : Bool :=
  d.carveBase % 2 ^ 20 == 0 && d.carveSize % 2 ^ 20 == 0 && 4 * 2 ^ 20 ≤ d.carveSize && d.carveSize ≤ 64 * 2 ^ 20
    && d.carveBase + d.carveSize ≤ Config.memoryBytes d.isD
/-- A write of FWLOCK (R326): 1 locks, once. -/
def Die.writeLock (d : Die) (v : Word) : Die :=
  if v != 1 || d.locked then d
  else if d.carveOk then { d with locked := true, boot := .verifying }
  else { d with locked := true, boot := .rejected, reject := 1 }
/-- FWLOCK written (R326). -/
def execFwlock (die : Nat) (value : Word) (s : State) : Host.Outcome State Fault Refusal := .next (s.updDie die (·.writeLock value))

/-- An image's component: place, length, digest (R327). -/
structure Component where
  off : Nat
  len : Nat
  digest : List Byte
  deriving DecidableEq, Repr

/-- The component table of a header (R327). -/
def components (h : List Byte) : List Component :=
  (List.range 9).map fun i => { off := natAt h (520 + 96 * i) 8, len := natAt h (528 + 96 * i) 8, digest := (h.drop (536 + 96 * i)).take 64 }
/-- Why an image is rejected (R325, R328): 1 header, 2 signature, 3 digest, 4 security version; none when it is accepted. -/
def rejects (d : Die) (h : List Byte) (image : Component → List Byte) : Option Nat :=
  let cs := components h
  if natAt h 0 4 != 1 || !zeroAt h 1384 2200 || !(List.range 9).all (fun i => zeroAt h (600 + 96 * i) 16)
      || !cs.all fun c => c.off + c.len ≤ d.carveSize then some 1
  else if Config.sha512 ((h.drop 8).take 512) != Config.fusedDigest d.code
      || !Config.rsaVerify ((h.drop 8).take 512) (Config.sha512 (h.take 3584)) ((h.drop 3584).take 512) then some 2
  else if !cs.all fun c => Config.sha512 (image c) == c.digest then some 3
  else if natAt h 4 4 < Config.fusedVersion d.code then some 4
  else none

/-- What of R328 a component's header fails (R330): the header stands before the component's bytes (log 40). -/
def reloadOk (d : Die) (core : Nat) (bs : List Byte) : Bool :=
  let h := bs.take 4096
  let c : Component := (components h).getD core { off := 0, len := 0, digest := [] }
  4096 < bs.length && natAt h 0 4 == 1 && zeroAt h 1384 2200 && (List.range 9).all (fun i => zeroAt h (600 + 96 * i) 16)
    && Config.sha512 ((h.drop 8).take 512) == Config.fusedDigest d.code
    && Config.rsaVerify ((h.drop 8).take 512) (Config.sha512 (h.take 3584)) ((h.drop 3584).take 512)
    && Config.sha512 (bs.drop 4096) == c.digest && Config.fusedVersion d.code ≤ natAt h 4 4
/-- Whether core 5 of a die takes part in a migration or a checkpoint (R300, R304, R306). -/
def State.linkBusy (s : State) (die : Nat) : Bool :=
  s.ctxs.any fun c => (c.migrating.isSome && (c.die == die || c.migrating == some die)) || (c.ckpt != 0 && (c.die == die || die == 0))
/-- RELOAD (R330): the new firmware goes to its component's place in the carve-out, and its core is stopped until it starts. -/
def execReload (die : Nat) (s : State) : Host.Outcome State Fault Refusal :=
  s.serve die 7 0x71 24 fun d req =>
    let core := fieldAt req 0
    let bs := s.hostBytes (fieldAt req 1) (fieldAt req 2)
    if 8 ≤ core then .err 2
    else if core == 7 then .err 5
    else if core == 5 && ((d.dock != .undocked && d.dock != .docked) || s.linkBusy die) then .err 4
    else if !reloadOk d core bs then .err 5
    else
      let place := d.carveBase + Memory.readNat s.mem (physKey die (d.carveBase + 520 + 96 * core)) 8
      .later [0x71] ((s.putHome (physKey die place) (bs.drop 4096)).updDie die fun d =>
        { d with stopped := some (core, natAt bs 4 4, Config.sha512 (bs.drop 4096)) })
/-- The reloaded core starts (R330): the measurement is extended and logged, and a record is written. -/
def State.reloadEnd (s : State) (die : Nat) : State :=
  match (s.die? die).bind (·.stopped) with
  | none => s
  | some (core, version, digest) =>
    (s.updDie die fun d => { d.extend (s.dieTime die) core 1 version digest with stopped := none }).report die { kind := 15 }

/-- Core 7 verifies the image (R325, R328) and measures it (R329). -/
def execFirmwareVerify (die : Nat) (s : State) : Host.Outcome State Fault Refusal :=
  match s.die? die with
  | none => .next s
  | some d =>
    if d.boot != .verifying || d.tripped then .next s
    else
      let h := s.homeBytes (physKey die d.carveBase) 4096
      match rejects d h fun c => s.homeBytes (physKey die (d.carveBase + c.off)) c.len with
      | some r => .next (s.updDie die fun d => { d with boot := .rejected, reject := r })
      | none =>
        let t := s.dieTime die
        let v := natAt h 4 4
        .next (s.updDie die fun d =>
          let d := d.extend t 0xFF 0 v (Config.sha512 (h.take 3584))
          { ((components h).zip (List.range 9)).foldl (fun (d : Die) (c, i) => d.extend t i 0 v c.digest) d with boot := .running })

-- the register space (R315)

/-- A 32-bit half of a 64-bit register replaced. -/
def putHalf (old : Nat) (hi : Bool) (v : Word) : Nat :=
  if hi then old % 2 ^ 32 + v.toNat * 2 ^ 32 else old / 2 ^ 32 * 2 ^ 32 + v.toNat

/-- DOCKSTAT's lost bits cleared where 1 is written (R315). -/
def Die.clearLost (d : Die) (v : Word) : Die := { d with lost0 := d.lost0 && !v.getLsbD 4, lost1 := d.lost1 && !v.getLsbD 5 }
/-- DOCKSTAT written (R315). -/
def execDockstatClear (die : Nat) (value : Word) (s : State) : Host.Outcome State Fault Refusal := .next (s.updDie die (·.clearLost value))
/-- DOCKSTAT as read (R315, R316). -/
def Die.dockstat (d : Die) : Nat := d.dock.code + (if d.lost0 then 16 else 0) + (if d.lost1 then 32 else 0)

/-- Vectors that pend and are no longer masked are sent (log 6). -/
def State.sendPending (s : State) (die : Nat) : State :=
  match s.die? die with
  | none => s
  | some d =>
    let out := d.pending.filter fun v => d.msixByte (16 * v + 12) % 2 == 0
    out.reverse.foldl (fun (s : State) v => s.raise die v) (s.updDie die fun d => { d with pending := d.pending.filter fun v => !out.contains v })

/-- A write of 32 bits to a register of a head (R272). -/
def State.headWrite (s : State) (head o : Nat) (v : Word) : State :=
  let docked := s.docked
  s.updHead head fun h => match o with
    | 0x00 => h.writeCtl docked head v
    | 0x08 => if h.on then h else { h with hmode := BitVec.ofNat 64 (putHalf h.hmode.toNat false v) }
    | 0x0C => if h.on then h else { h with hmode := BitVec.ofNat 64 (putHalf h.hmode.toNat true (v &&& 0xFFFF)) }
    | 0x10 => if h.on then h else { h with ringBase := BitVec.ofNat 64 (putHalf h.ringBase.toNat false (v &&& 0xFFFFF000)) }
    | 0x14 => if h.on then h else { h with ringBase := BitVec.ofNat 64 (putHalf h.ringBase.toNat true v) }
    | 0x18 => if h.on || (v &&& 0xF) < 4 || 12 < (v &&& 0xF) then h else { h with ringSize := v &&& 0xF }
    | 0x20 => h.writeTail v
    | 0x38 => { h with hvector := v &&& 0x800007FF }
    | _ => h

/-- A write of 32 bits at an offset of BAR0 (R315); reserved offsets, and the bits of reserved fields, are ignored (R4). -/
def State.write32 (s : State) (die off : Nat) (v : Word) : State :=
  if 0x010000 ≤ off && off < 0x012000 then
    let core := (off - 0x010000) / 0x400
    let o := off % 0x400
    s.updDie die fun d =>
      let m := d.mailbox core
      d.setMail core (if o < 0x40 then { m with req := m.req.take o ++ bytesLE 4 v.toNat ++ m.req.drop (o + 4) }
        else if o == 0x80 then m.ring v else if o == 0x88 then m.writeStat v else m)
  else if 0x100000 ≤ off && off < 0x120000 then
    if off % 8 != 0 then s
    else match execQueueNotify die ((off - 0x100000) / 8) (BitVec.ofNat 64 v.toNat) false s with | .next s' => s' | _ => s
  else if 0x200000 ≤ off && off < 0x202000 then (if die == 0 then s.headWrite ((off - 0x200000) / 0x1000) (off % 0x1000) v else s)
  else if 0x400000 ≤ off && off < 0x408000 then
    let o := off - 0x400000
    (s.updDie die fun d => { d with msix := ((List.range 4).map fun i => (o + i, BitVec.ofNat 8 (v.toNat / 256 ^ i)))
                                      ++ d.msix.filter fun c => !(o ≤ c.1 && c.1 < o + 4) }).sendPending die
  else match off with
    | 0x10 => s.updDie die fun d => if d.locked then d else { d with carveBase := putHalf d.carveBase false v }
    | 0x14 => s.updDie die fun d => if d.locked then d else { d with carveBase := putHalf d.carveBase true v }
    | 0x18 => s.updDie die fun d => if d.locked then d else { d with carveSize := v.toNat }
    | 0x20 => s.updDie die (·.writeLock v)
    | 0x40 => s.updDie die (·.clearLost v)
    | _ => s

/-- Whether an access to BAR0 is 4 or 8 bytes wide and aligned (R315). -/
def barOk (off size : Nat) : Bool := (size == 4 || size == 8) && off % size == 0
/-- An access that BAR0 does not take: Completer Abort, and an error record (R315). -/
def State.barAbort (s : State) (die off : Nat) : State := s.report die { kind := 12, a := off }

/-- A host write of BAR0 (R315): eight bytes are two words, the low one first. -/
def execRegisterWrite (die off size : Nat) (value : DWord) (s : State) : Host.Outcome State Fault Refusal :=
  if !barOk off size then .next (s.barAbort die off)
  else
    let s := s.write32 die off (value.truncate 32)
    .next (if size == 8 then s.write32 die (off + 4) ((value >>> 32).truncate 32) else s)
/-- An access of BAR0 that is not 4 or 8 bytes wide and aligned (R315). -/
def execBar0BadAccess (die off size : Nat) (_write : Bool) (s : State) : Host.Outcome State Fault Refusal :=
  if barOk off size then .next s else .next (s.barAbort die off)

/-- A register of a head as read (R272): RINGTAIL is write only. -/
def Head.read32 (h : Head) (o : Nat) : Nat :=
  match o with
  | 0x00 => h.hctl.toNat
  | 0x08 => h.hmode.toNat % 2 ^ 32
  | 0x0C => h.hmode.toNat / 2 ^ 32
  | 0x10 => h.ringBase.toNat % 2 ^ 32
  | 0x14 => h.ringBase.toNat / 2 ^ 32
  | 0x18 => h.ringSize.toNat
  | 0x28 => h.ringHead.toNat
  | 0x30 => h.hstat.toNat
  | 0x38 => h.hvector.toNat
  | _ => 0
/-- TELEMETRY (R332). -/
def Die.telemetry (d : Die) : List Byte :=
  bytesLE 4 d.power ++ bytesLE 2 d.temp ++ bytesLE 2 d.clock ++ bytesLE 1 d.reasons ++ List.replicate 55 0
/-- What 32 bits of BAR0 read as (R315): 0 at a write-only or reserved offset. -/
def Die.read32 (d : Die) (off : Nat) : Nat :=
  if 0x010000 ≤ off && off < 0x012000 then
    let m := d.mailbox ((off - 0x010000) / 0x400)
    let o := off % 0x400
    if 0x40 ≤ o && o < 0x80 then natAt m.rsp (o - 0x40) 4 else if o == 0x88 then m.stat.toNat else 0
  else if 0x020000 ≤ off && off < 0x020040 then natAt d.telemetry (off - 0x020000) 4
  else if 0x200000 ≤ off && off < 0x202000 then (((d.heads[(off - 0x200000) / 0x1000]?).map (·.read32 (off % 0x1000))).getD 0)
  else if 0x400000 ≤ off && off < 0x408000 then d.msixNat (off - 0x400000) 4
  else if 0x408000 ≤ off && off < 0x408100 then
    ((List.range 32).filter fun i => d.pending.contains ((off - 0x408000) * 8 + i)).foldl (fun n i => n + 2 ^ i) 0
  else match off with
    | 0x00 => d.ident
    | 0x08 => d.boot.code + d.reject * 256
    | 0x10 => d.carveBase % 2 ^ 32
    | 0x14 => d.carveBase / 2 ^ 32
    | 0x18 => d.carveSize
    | 0x20 => if d.locked then 1 else 0
    | 0x40 => d.dockstat
    | _ => 0

-- docking (R316, R317)

/-- The die behind a die's downstream port, if the port exists (R10, R316). -/
def downstream (die : Nat) : Option Nat := if die == 0 then some 1 else if die == 1 then some 2 else none
/-- The full width of a die's downstream port (R316). -/
def portWidth (die : Nat) : Nat := if die == 0 then 8 else 16

/-- Presence detect on the downstream port (R316). -/
def execDockPresence (die : Nat) (s : State) : Host.Outcome State Fault Refusal :=
  match s.die? die with
  | some d => if d.present && d.dock == .undocked && (downstream die).isSome then .next (s.setDock die .training) else .next s
  | none => .next s
/-- The link trains at a width: below full width it stays in TRAINING (R316). -/
def execLinkTrained (die width : Nat) (s : State) : Host.Outcome State Fault Refusal :=
  match s.die? die with
  | some d => if d.dock == .training && portWidth die ≤ width then .next (s.setDock die .booting) else .next s
  | none => .next s
/-- The far die's BOOTSTAT reaches running (R316). -/
def execFarDieRunning (die : Nat) (s : State) : Host.Outcome State Fault Refusal :=
  match s.die? die, (downstream die).bind s.die? with
  | some d, some f => if d.dock == .booting && f.boot == .running then .next (s.setDock die .syncing) else .next s
  | _, _ => .next s

/-- The configuration of the dies present (R9). -/
def confOf (p d0 d1 : Bool) : Config.Conf :=
  if p then (if d1 then .developer else if d0 then .docked else .handheld) else if d1 then .workstation2 else .workstation1
/-- Dies attached or gone (R9). -/
def State.setPresent (s : State) (dies : List Nat) (there : Bool) : State :=
  let s : State := { s with dies := s.dies.map fun (d : Die) => if dies.contains d.code then { d with present := there } else d }
  { s with conf := confOf (s.present 0) (s.present 1) (s.present 2) }

/-- SYNCING (R317, R303): with equal generations the far die is part of the machine under its code, and P offers its contexts to D0; with
different ones the state stays, and core 4 writes a record, once. -/
def execDockSync (die generation : Nat) (s : State) : Host.Outcome State Fault Refusal :=
  match s.die? die, downstream die with
  | some d, some far =>
    if d.dock != .syncing || !d.present then .next s
    else if generation != Config.generation die then
      .next (if d.refused then s else (s.updDie die fun d => { d with refused := true }).report die { kind := 14 })
    else
      let behind := if (s.die? far).any (·.dock == .docked) then beyond far else []
      let s := (s.setPresent (far :: behind) true).setDock die .docked
      .next (if die != 0 then s else { s with ctxs := s.ctxs.map fun (c : Context) =>
        if c.die == 0 && c.migratable && c.acceptDock && !c.failed && c.migrating.isNone then { c with migrating := some 1 } else c })
  | _, _ => .next s

/-- A released or lost link (R316, R318): the dies beyond it are no part of the machine. -/
def State.detach (s : State) (die : Nat) : State :=
  let far := beyond die
  (s.setPresent far false).setDock die .undocked

/-- The link is released once every context is back (R303, R316). -/
def execUndockComplete (die : Nat) (s : State) : Host.Outcome State Fault Refusal :=
  match s.die? die with
  | some d =>
    if d.dock == .undocking && !(s.ctxs.any fun c => (beyond die).contains c.die || c.migrating.any ((beyond die).contains ·)) then .next (s.detach die) else .next s
  | none => .next s

-- the loss of a link (R308 to R311)

/-- A context of a lost die ends (R310): 0x12 in each status word in host or near memory, and each queue's vector. -/
def State.loseCtx (s : State) (near : Nat) (c : Context) : State :=
  let qs := s.queues.filter fun q => q.die == c.die && q.ctx == c.num
  let s := qs.foldl (fun (s : State) q =>
    let (d, s) := s.draw
    let s := match walkFrom s.mem c.die q.statusAddr 4 c.root with
      | .ok lf => if lf.pte.home == 3 || lf.pte.home == near then
          s.putHome (physKey lf.pte.home (lf.pte.phys lf.level q.statusAddr)) (bytesLE 8 (d % 2 ^ 32 + 0x12 * 2 ^ 32)) else s
      | .error _ => s
    s.raise near q.vector) s
  s.dropCtx c.die c.num

/-- The leaves of a restarted context (R309): a mirrored page is homed on P at its frame; a page homed on a lost die without a mirror is not
present. -/
def Commit.restartLeaves (k : Commit) (lost : List Nat) : List Mirror :=
  (k.pages.map fun m => { m with d0 := (m.d0 - bitsAt m.d0 13 39 * 2 ^ 13 - bitsAt m.d0 10 2 * 1024 - (if flagAt m.d0 9 then 512 else 0)) + m.frame })
    ++ (k.leaves.map fun m => if lost.contains (Pte.home ⟨m.d0, m.d1⟩) then ({ m with d0 := m.d0 - 1 } : Mirror) else m)

/-- The 8 KiB pages of a leaf. -/
def Mirror.pages (m : Mirror) : List Nat := (List.range (2 ^ (9 * m.level))).map fun i => m.va + 8192 * i

/-- The die code that names no die: what a commit's image is labelled with while it is taken up again. -/
def Commit.nowhere : Nat := 9
/-- A commit's image under that label. -/
def Commit.taken (k : Commit) : Commit :=
  let d := Commit.nowhere
  let id (l : LockId) : LockId := if l.ctxDie == k.ctx.die && l.ctx == k.ctx.num then { l with ctxDie := d } else l
  { k with
    ctx := { k.ctx with die := d, held := [], heldMore := [], ckpt := 0 }
    queues := k.queues.map fun (q : Queue) => { q with die := d }
    grids := k.grids.map fun (g : Grid) => { g with die := d }
    teams := k.teams.map fun (t : Team) => { t with die := d }
    phasers := k.phasers.map fun (p : Phaser) => { p with die := d }
    locks := k.locks.map fun (l : LockRec) => { l with holder := l.holder.map id, fifo := l.fifo.map id }
    rays := k.rays.map fun (r : Ray) => { r with die := d }
    scenes := k.scenes.map fun (x : Scene) => { x with die := d }
    gfx := k.gfx.map fun (g : Gfx) => { g with die := d } }

/-- Whether a grid record holds only values R296 defines (R299). -/
def gridRecordOk (b : List Byte) : Bool :=
  (LaunchRec.parse b).limits (b.take 64) true && 1 ≤ natAt b 72 1 && natAt b 72 1 ≤ 10 && natAt b 73 1 < 2 && zeroAt b 100 4 && zeroAt b 112 16
/-- Whether a queue record holds only values R298 defines (R299). -/
def queueRecordOk (b : List Byte) : Bool :=
  4 ≤ natAt b 8 1 && natAt b 8 1 ≤ 16 && natAt b 9 1 ≤ 15 && natAt b 52 1 < 2 && zeroAt b 54 10
/-- Whether the records of a commit in the granary can be restored (R299, R307). -/
def State.commitOk (s : State) (k : Commit) : Bool :=
  let at' (a n : Nat) : List Byte := Memory.read s.mem (physKey 0 a) n
  let a := natAt (at' k.recordVa 64) 16 8
  let q0 := a + 512 + 16 * k.ctx.phCount
  let g0 := q0 + 64 * k.queues.length
  !s.poisoned (physKey 0 k.recordVa) 64 && !s.poisoned (physKey 0 a) (g0 + 128 * k.grids.length - a)
    && ((List.range k.queues.length).all fun i => queueRecordOk (at' (q0 + 64 * i) 64))
    && (List.range k.grids.length).all fun i => gridRecordOk (at' (g0 + 128 * i) 128)

/-- A context whose image cannot be restored (R299): its teams end without running, it is failed, and core 4 writes a record. -/
def State.restoreFailCtx (s : State) (die num : Nat) : State :=
  let s := ((s.teams.filter fun t => t.die == die && t.ctx == num && t.status != .ended).map (·.uid)).foldl (fun (s : State) u =>
    if (s.team? u).isSome then s.killTeam u else s) s
  let s := s.report die { kind := 11, ctx := num, code := codeImagebad }
  (s.raise die ((s.ctx? die num).map (·.errVector) |>.getD 0)).failCtx die num

/-- P restarts a checkpointed context of a lost die from its last commit (R309): its image, its pages in the granary's frames, its cores, its
queues' status words and vectors. While P has no number or phasers for it, the commit waits. -/
def State.restart (s : State) (k0 : Commit) (lost : List Nat) : State :=
  let k := k0.taken
  let c := k.ctx
  let s : State := { s.dropCtx k0.die k0.num with commits := s.commits }
  match s.freeContext 0 with
  | none => s
  | some (num, s1) =>
    match s1.freePhasers 0 c.phCount with
    | (none, _) => s
    | (some base, s) =>
    let s : State := { s with commits := s.commits.filter fun x => !(x.die == k0.die && x.num == k0.num) }
    let ok := s.commitOk k0
    let (root, s) := s.buildTables 0 (k.restartLeaves lost)
    let (qmap, s) := s.queueNumbers 0 k.queues []
    let idle := (List.range (Config.cores false)).filter (s.idleCore 0 ·)
    let (d, s) := s.draw
    let part := (idle.drop (d % (idle.length + 1))).take c.part.length
    let frames (old : Nat) : Nat := ((k.pages.find? fun m =>
      physKey (Pte.home ⟨m.d0, m.d1⟩) (Pte.addr ⟨m.d0, m.d1⟩) ≤ old && old < physKey (Pte.home ⟨m.d0, m.d1⟩) (Pte.addr ⟨m.d0, m.d1⟩) + pageBytes m.level).map
        fun m => physKey 0 m.frame + (old - physKey (Pte.home ⟨m.d0, m.d1⟩) (Pte.addr ⟨m.d0, m.d1⟩))).getD old
    let s : State := { s with
      ctxs := s.ctxs ++ [c]
      queues := s.queues ++ k.queues.map Queue.restored
      grids := s.grids ++ k.grids
      teams := s.teams ++ k.teams
      phasers := s.phasers ++ k.phasers
      locks := s.locks ++ k.locks.map fun (l : LockRec) => { l with key := frames l.key }
      rays := s.rays ++ k.rays
      scenes := s.scenes ++ k.scenes
      gfx := s.gfx ++ k.gfx }
    let s := s.moveCtx c { die := 0, num := num, root := root, phBase := base, part := part, queues := qmap }
    let gone := (k.leaves.filter fun m => lost.contains (Pte.home ⟨m.d0, m.d1⟩)).flatMap Mirror.pages
    let s : State := { s with lostPages := s.lostPages ++ gone.map fun p => (0, num, p) }
    let s := s.updDie 0 fun d => { d with given := d.given ++ (k.pages.map fun m => (m.frame, pageBytes m.level))
                                                    ++ (k.ctx.frameList.filter (·.2.1 == 0)).map fun f => (f.2.2, 8192) }
    if !ok then s.restoreFailCtx 0 num
    else (s.queues.filter fun q => q.die == 0 && q.ctx == num).foldl (fun (s : State) q => ((s.queueStatus q 0x11).raise 0 q.vector).settleQueue q.uid) s
/-- Restarts that waited for room on P (R309). -/
def State.restartWaiting (s : State) : State :=
  if !s.present 0 then s
  else s.commits.foldl (fun (s : State) k =>
    if s.present k.die || (s.ctx? k.die k.num).isSome then s
    else s.restart k ((s.dies.filter (!·.present)).map (·.code))) s

/-- A context that stays loses its pages on lost dies (R310): the entries become not present, and the threads parked on them trap. -/
def State.losePages (s : State) (c : Context) (lost : List Nat) : State :=
  let ls := (leavesOf s.mem c.die 4 c.root).filter fun (_, _, e) => lost.contains e.home
  let gone := ((s.leaves c).filter fun m => lost.contains (Pte.home ⟨m.d0, m.d1⟩)).flatMap Mirror.pages
  let s := ls.foldl (fun (s : State) (k, _, e) => { s with mem := Memory.write s.mem k (bytesLE 8 (e.d0 - 1)) }) s
  let s : State := { s with lostPages := s.lostPages ++ gone.map fun p => (c.die, c.num, p) }
  let s := s.updDie c.die fun d => { d with faults := d.faults.filter fun f => !(f.ctx == c.num && gone.contains (f.va / 8192 * 8192)) }
  let s := s.dropTlb c.die c.num 0 0
  let ids := (s.teams.filter fun tm => tm.die == c.die && tm.ctx == c.num).flatMap fun tm =>
    tm.threads.filterMap fun t => match t.status with
      | .parked va _ _ _ => if gone.contains (va / 8192 * 8192) then some ((tm.uid, t.tid), va) else none
      | _ => none
  let s := ids.foldl (fun (s : State) (id, va) =>
    s.takeTrap id { cause := causeLinkloss, code := codePageLost, addr := BitVec.ofNat 64 va }) s
  gone.foldl (fun (s : State) p => s.doom c.die c.num (p / 8192) reasonNotPresent) s

/-- A directory line whose owner is lost (R310): OWNERLOST at once, with the record and the error replies of R170; a lost die leaves S. -/
def State.loseLine (s : State) (lost : List Nat) (e : DirEntry) : State :=
  let lose (owner prev : Nat) : State :=
    let (n, s) : Nat × State := match e.snoop with | some n => (n, s) | none => let (d, s) := s.draw; (d % 2 ^ 32, s)
    let home := e.key / 2 ^ 52
    let writes := (e.waiters.filter fun w => !w.2).length
    let returns := (e.waiters.filter (·.2)).length
    let idx := (s.die? home).map (·.errProd)
    let s := s.report home { kind := 3, ctx := s.waiterCtx e, code := codeOwnerLost, a := e.key % 2 ^ 52
                             detail := bytesLE 1 owner ++ bytesLE 1 prev ++ bytesLE 4 n ++ bytesLE 2 writes ++ bytesLE 2 returns }
    let written := (s.die? home).map (·.errProd) != idx
    s.setDir e.key (some { e with st := .ownerLost, snoop := none, prev := prev, writes := writes, returns := returns
                                  errIdx := if written then idx else none })
  match e.st with
  | .exclusive o => if lost.contains o then lose o 2 else s
  | .modified o _ => if lost.contains o then lose o 3 else s
  | .shared ag => if ag.any lost.contains then s.setDir e.key (some { e with st := .shared (ag.filter (!lost.contains ·)) }) else s
  | .ownerLost => s

/-- The dies beyond a link are lost (R308 to R311): their contexts restart or end, what they home is gone, and the lost bits are set. -/
def State.loseDies (s : State) (near : Nat) (lost : List Nat) : State :=
  let home := if s.present 0 then 0 else near
  let gone := s.ctxs.filter fun c => lost.contains c.die
  let s := gone.foldl (fun (s : State) c =>
    match s.commits.find? fun k => k.die == c.die && k.num == c.num with
    | some k => if s.present 0 then s.restart k lost else s.loseCtx home c
    | none => s.loseCtx home c) s
  let stay := s.ctxs.filter fun c => !lost.contains c.die
  let s := stay.foldl (fun (s : State) c => s.losePages c lost) s
  let s := s.dirs.foldl (fun (s : State) e => if lost.contains (e.key / 2 ^ 52) then s.setDir e.key none else s.loseLine lost e) s
  let stranded (q : Queue) : Bool := s.ctxs.any fun c => c.die == q.die && c.num == q.ctx && c.migrating.any lost.contains
  let again (k : Cmd) : Cmd := if k.st == some .migrating then { k with st := none } else k
  { s with
    locks := s.locks.filter fun (l : LockRec) => !lost.contains (l.key / 2 ^ 52)
    merges := s.merges.filter fun (x : Merge) => !lost.contains (x.key / 2 ^ 52)
    ctxs := s.ctxs.map fun (c : Context) => if c.migrating.any lost.contains then { c with migrating := none, sent := none } else c
    queues := s.queues.map fun (q : Queue) => if stranded q then { q with cmds := q.cmds.map again } else q
    dies := s.dies.map fun (d : Die) => if lost.contains d.code || !d.present then d else
      { d with lost0 := d.lost0 || lost.contains 1, lost1 := d.lost1 || lost.contains 2 } }

/-- The loss of the link downstream of a die (R308, R318): in states 1 to 3 no context is affected. -/
def State.lossOf (s : State) (die : Nat) : State :=
  match s.die? die with
  | none => s
  | some d =>
    match d.dock with
    | .undocked => s
    | .training | .booting | .syncing => s.setDock die .undocked
    | .docked | .undocking => (s.loseDies die ((beyond die).filter s.present)).detach die
/-- The link downstream of a die is lost (R308, R318). -/
def execLinkLoss (die : Nat) (s : State) : Host.Outcome State Fault Refusal := .next (s.lossOf die)

-- clocks, power, reset (R16, R325, R332, R333)

/-- Core 6 moves D's arithmetic clock by one step of 50 MHz, not up past the host's cap (R16, R332); P's is fixed. -/
def execClockChange (die mhz : Nat) (s : State) : Host.Outcome State Fault Refusal :=
  .next (s.updDie die fun d =>
    if d.isD && !d.tripped && d.runs 6 && 400 ≤ mhz && mhz ≤ 1200 && mhz % 50 == 0 && (mhz + 50 == d.clock || (mhz == d.clock + 50 && mhz ≤ d.clockCap)) then
      { d with clock := mhz } else d)
/-- TELEMETRY updated from the sensors (R332); the reasons' reserved bits read 0. -/
def execTelemetryUpdate (die power temp reasons : Nat) (s : State) : Host.Outcome State Fault Refusal :=
  .next (s.updDie die fun d => if d.tripped then d else { d with power := power % 2 ^ 32, temp := temp % 65536, reasons := reasons % 8 })

/-- The die upstream of a die, if it is attached there (R10). -/
def State.upstream (s : State) (die : Nat) : Option Nat :=
  [0, 1].find? fun u => downstream u == some die && (s.die? u).any fun d => d.dock != .undocked

/-- Every context of a die begins its end without a save: each queue's status word receives 0x12 at once, outside any commit (R333), and what a
commit buffer holds is gone. -/
def State.endContexts (s : State) (die : Nat) : State :=
  (s.ctxs.filter (·.die == die)).foldl (fun (s : State) c =>
    let s := (s.beginDestroy die c.num).updCtx die c.num fun c => { c with ending := true, checkpoint := false, ckpt := 0, held := [], heldMore := [], migrating := none, sent := none }
    (s.queues.filter fun q => q.die == die && q.ctx == c.num).foldl (fun (s : State) q =>
      let (d, s) := s.draw
      s.wordWrite (feMaster die c.num) q.statusAddr (d % 2 ^ 32 + 0x12 * 2 ^ 32)) s) s
/-- Contexts that are over are gone once their last words are written (R333). -/
def State.dropOver (s : State) : State :=
  s.ctxs.foldl (fun (s : State) c =>
    if c.ending && !(s.tlWrites.any fun w => w.die == c.die && w.ctx == c.num) then s.dropCtx c.die c.num else s) s

/-- A junction at 120 °C (R332): the die stops, and the other dies treat it as a link loss. -/
def execThermalTrip (die : Nat) (s : State) : Host.Outcome State Fault Refusal :=
  let s := match s.upstream die with | some u => s.lossOf u | none => s
  let s := (s.ctxs.filter (·.die == die)).foldl (fun (s : State) c => s.dropCtx die c.num) (s.lossOf die)
  .next (s.updDie die fun d => { d with tripped := true, stopped := none })

/-- The function is put into D3hot (R333). -/
def execD3hotEntry (die : Nat) (s : State) : Host.Outcome State Fault Refusal :=
  .next ((s.endContexts die).dropOver.updDie die fun d => { d with d3hot := true })
/-- The function is put back into D0 (R313). -/
def State.d0Entry (s : State) (die : Nat) : State := s.updDie die fun d => { d with d3hot := false }

/-- A conventional or function-level reset of a die (R325): its links drop, its contexts are gone, and it awaits an image again. -/
def execDeviceReset (die : Nat) (s : State) : Host.Outcome State Fault Refusal :=
  let s := match s.upstream die with | some u => s.lossOf u | none => s
  let s := s.lossOf die
  let s := (s.ctxs.filter (·.die == die)).foldl (fun (s : State) c => s.dropCtx die c.num) s
  .next { s with
    dies := s.dies.map fun (d : Die) => if d.code == die then (if d.isD then Die.resetD d.code d.present else { Die.resetP with present := d.present }) else d
    cores := s.cores.filter fun (k : CoreState) => k.die != die
    commits := if die == 0 then [] else s.commits }

end Sys2Proof.Machine
end

