-- ==== Sys2Proof/Machine/Short.lean ====
section
/-! DEFINITION. The 16-bit lane forms (R336, R337): their values stand in aluEval, and each acts as its 32-bit operation with no guard. -/
namespace Sys2Proof.Machine

/-- `add.c xd, xs` (R337). -/
def execAdd16 (l : Bool) (s : YReg) (d : YReg) (σ : State) : Host.Outcome State Fault Refusal :=
  aluOp (.add16 l s d) σ

/-- `sub.c xd, xs` (R337). -/
def execSub16 (l : Bool) (s : YReg) (d : YReg) (σ : State) : Host.Outcome State Fault Refusal :=
  aluOp (.sub16 l s d) σ

/-- `mul.c xd, xs` (R337). -/
def execMul16 (l : Bool) (s : YReg) (d : YReg) (σ : State) : Host.Outcome State Fault Refusal :=
  aluOp (.mul16 l s d) σ

/-- `and.c xd, xs` (R337). -/
def execAnd16 (l : Bool) (s : YReg) (d : YReg) (σ : State) : Host.Outcome State Fault Refusal :=
  aluOp (.and16 l s d) σ

/-- `or.c xd, xs` (R337). -/
def execOr16 (l : Bool) (s : YReg) (d : YReg) (σ : State) : Host.Outcome State Fault Refusal :=
  aluOp (.or16 l s d) σ

/-- `xor.c xd, xs` (R337). -/
def execXor16 (l : Bool) (s : YReg) (d : YReg) (σ : State) : Host.Outcome State Fault Refusal :=
  aluOp (.xor16 l s d) σ

/-- `shl.c xd, imm` (R337). -/
def execShl16 (i : Fin 32) (d : YReg) (σ : State) : Host.Outcome State Fault Refusal :=
  aluOp (.shl16 i d) σ

/-- `shr.n.c xd, imm` (R337). -/
def execShrN16 (i : Fin 32) (d : YReg) (σ : State) : Host.Outcome State Fault Refusal :=
  aluOp (.shrN16 i d) σ

/-- `mov.c xd, xs` (R337). -/
def execMov16 (l : Bool) (s : YReg) (d : YReg) (σ : State) : Host.Outcome State Fault Refusal :=
  aluOp (.mov16 l s d) σ

/-- `ldi.c xd, imm` (R337). -/
def execLdi16 (i : Fin 32) (d : YReg) (σ : State) : Host.Outcome State Fault Refusal :=
  aluOp (.ldi16 i d) σ

/-- `addi.c xd, imm` (R337). -/
def execAddi16 (i : Fin 32) (d : YReg) (σ : State) : Host.Outcome State Fault Refusal :=
  aluOp (.addi16 i d) σ

/-- `fadd.c xd, xs` (R337). -/
def execFadd16 (l : Bool) (s : YReg) (d : YReg) (σ : State) : Host.Outcome State Fault Refusal :=
  aluOp (.fadd16 l s d) σ

/-- `fsub.c xd, xs` (R337). -/
def execFsub16 (l : Bool) (s : YReg) (d : YReg) (σ : State) : Host.Outcome State Fault Refusal :=
  aluOp (.fsub16 l s d) σ

/-- `fmul.c xd, xs` (R337). -/
def execFmul16 (l : Bool) (s : YReg) (d : YReg) (σ : State) : Host.Outcome State Fault Refusal :=
  aluOp (.fmul16 l s d) σ

end Sys2Proof.Machine
end

