-- ==== Sys2Proof/Machine/Switch.lean ====
section
/-! DEFINITION. Switching teams out and in (R43, R56, R78 to R80, R287 to R293), checkpoints (R304 to R307), and migration (R300 to R302). -/
namespace Sys2Proof.Machine

-- switching out (R287)

/-- The members of a team's cohort, itself among them (R43). -/
def State.cohort (s : State) (tm : Team) : List Team :=
  let n := (s.gridOf tm).cohortSize
  s.teams.filter fun o => o.grid == tm.grid && o.die == tm.die && o.num / n == tm.num / n && o.prologue.isNone && o.status != .ended
/-- Whether a team waits, every thread of it, at GBAR or JOINC (R56): true at JOINC. -/
def Team.waitsForRoom (tm : Team) : Option Bool :=
  let live := tm.threads.filter fun t => !t.gone
  if live.isEmpty then none
  else if live.all fun t => t.status == .blocked .gbar then some false
  else if (live.all fun t => match t.status with | .blocked _ => true | _ => false) && live.any (·.status == .blocked .joinc) then some true
  else none
/-- Whether teams find room one after another, each on the first of some cores that has it (R41, R77). -/
def findRoom (cores : List Nat) : List Team → State → Bool
  | [], _ => true
  | tm :: rest, s =>
    match cores.findSome? (s.allocTeam tm ·) with
    | some (tm, s) => findRoom cores rest { s with teams := s.teams ++ [{ tm with status := .resident }] }
    | none => false
/-- Whether teams of a context wait for room: the team or cohort that is placed next, or a saved one, finds none (R56, R76, R79). -/
def State.needsRoom (s : State) (c : Context) : Bool :=
  let cores := c.part.filter c.takes
  (match s.nextGrid c.die c.num with
    | some g => !findRoom (cores.filter (s.mayTake c g)) ((List.range g.cohortSize).map fun i => newTeam g 0 i 0) s
    | none => false)
    || s.teams.any fun t => t.die == c.die && t.ctx == c.num && s.wantsIn t && !findRoom cores ((s.cohort t).filter (·.status == .out)) s
/-- Whether a resident team is to be switched out: 0 for a vacate of its core or of a cohort member's, or to make room (R43, R56, R78);
1 for a checkpoint; 2 for a migration. A cohort leaves whole: with a member that has left or leaves; and for room when all of it waits. -/
def State.wantsOut (s : State) (c : Context) (tm : Team) (cause : Nat) : Bool :=
  let mates := s.cohort tm
  match cause with
  | 0 => (mates.any fun o => match o.status with | .leaving _ | .out => true | _ => c.vacating.contains o.core)
      || ((mates.all fun o => o.status == .resident && o.waitsForRoom.isSome) && s.needsRoom c)
  | 1 => c.ckpt == 1
  | 2 => c.migrating.isSome
  | _ => false

/-- Whether what a switch waits for is over (R206, R287 steps 1 to 3): copies, drains, flag counts, replies on their way, an instruction
that issues. -/
def State.settledTeam (s : State) (tm : Team) : Bool :=
  !(s.copies.any fun o => o.who.any (·.1 == tm.uid) || o.receivers.contains tm.uid) && !(s.drains.any (·.team == tm.uid))
    && !(s.mmas.any (·.team == tm.uid)) && !(s.notes.any (·.team == tm.uid)) && tm.rounds.isEmpty
    && (tm.threads.all fun t => t.infl.isEmpty && t.flagsClear && t.reply.isNone)
    && (match s.issue with | some i => !(i.todo ++ i.done).any (·.1 == tm.uid) | none => true)

/-- Places for save slots, one after another, each at the first of some addresses that is free (R293). -/
def packSlots (starts : List Nat) (top : Nat) : List SaveSlot → List SaveSlot → Option (List SaveSlot)
  | [], taken => some taken
  | z :: zs, taken =>
    (starts.find? fun a => a + z.size ≤ top && taken.all fun t => a + z.size ≤ t.addr || t.addr + t.size ≤ a).bind fun a =>
      packSlots starts top zs ({ z with addr := a } :: taken)
/-- The save slots of a context laid anew so that another finds its place (R293): those that handlers use stay, and the images of teams that are
out move along. None when it must wait. -/
def State.packPool (s : State) (c : Context) (starts : List Nat) (new : SaveSlot) : Option (List SaveSlot) × State :=
  let st (z : SaveSlot) : Option TeamStatus := (s.team? z.team).map (·.status)
  let (stay, free) := c.slots.partition fun z => match st z with | some (.leaving _) | some .entering => true | _ => false
  match packSlots starts (c.poolAddr + c.poolSize) (free ++ [new]) stay with
  | none => (none, s)
  | some zs =>
    let m := feMaster c.die c.num
    let moved := free.filterMap fun z => if st z == some .out then (zs.find? (·.team == z.team)).map fun y => (z.addr, y.addr, z.size) else none
    let act : Eng Unit := do
      let images ← moved.mapM fun (a, _, n) => engLoadBlocks m 8 (n / 8) a
      for (bs, (_, b, n)) in images.zip moved do
        feStore m (n / 8) b bs
    match act s with
    | .ok (_, s) => (some zs, s)
    | .error (.hold va k r) => (none, if s.faultOn c.die c.num (va / 8192) then s else s.engineFault m 0 va k r)
    | .error (.wait s) => (none, s)
    | .error (.fail _ _) => (none, s)

/-- The save slot of a team (R293): the one it has, or one given now, its place of the firmware's choice; where the free bytes suffice but no
place does, the slots are laid anew. None without room. -/
def State.giveSlot (s : State) (tm : Team) (c : Context) : Option Nat × State :=
  match tm.slot with
  | some a => (some a, s)
  | none =>
    let size := (s.gridOf tm).lrec.slotBytes
    let room := (c.reserved.any fun (g, _, n) => g == tm.grid && n != 0) || size ≤ c.poolFree
    let starts := (List.range ((c.poolSize - c.poolStart) / 4096)).map fun i => c.poolAddr + c.poolStart + 4096 * i
    let free := starts.filter fun a => a + size ≤ c.poolAddr + c.poolSize && c.slots.all fun z => a + size ≤ z.addr || z.addr + z.size ≤ a
    if !room then (none, s)
    else
      let (slots, s) : Option (List SaveSlot) × State := match s.choose free with
        | (some a, s) => (some (({ addr := a, size := size, team := tm.uid } : SaveSlot) :: c.slots), s)
        | (none, s) => s.packPool c starts { addr := 0, size := size, team := tm.uid }
      match slots with
      | none => (none, s)
      | some zs =>
        let s := s.updCtx c.die c.num fun c =>
          { c with slots := zs, reserved := c.reserved.map fun (g, z, n) => if g == tm.grid then (g, z, n - 1) else (g, z, n) }
        let at' (uid : Nat) (old : Option Nat) : Option Nat := ((zs.find? (·.team == uid)).map (·.addr)).or old
        ((zs.find? (·.team == tm.uid)).map (·.addr),
          { s with teams := s.teams.map fun (t : Team) => if t.die == c.die && t.ctx == c.num then { t with slot := at' t.uid t.slot } else t })

/-- The frame of a thread between trap entry and TRET (R290). -/
def Thread.makeFrame (t : Thread) : Thread :=
  if t.handler == .trap then
    { t with frame := some { k := t.k, pc := t.trapPc, addr := t.trapAddr, cause := t.trapCause, info := t.trapInfo, seq := t.trapSeq } }
  else { t with frame := none }

/-- A switch that fails (R291): the team ends without a save, its context fails, and core 4 writes a record. -/
def State.saveFail (s : State) (uid code : Nat) : State :=
  let tm := s.team uid
  let s := (s.killTeam uid).report tm.die { kind := 10, ctx := tm.ctx, code := code, a := tm.slot.getD 0 }
  (s.raiseCtx tm.die tm.ctx (s.ctxOf tm).errVector).failCtx tm.die tm.ctx

/-- Threads dropped from the ready bundles of a core. -/
def CoreState.unbundle (k : CoreState) (uid : Nat) : CoreState :=
  let bs := k.bundles.map fun (b : Bundle) => { b with members := b.members.filter (·.1 != uid) }
  { k with bundles := bs.filter fun b => !b.members.isEmpty }

/-- The threads of a team enter the save entry (R287 step 4). -/
def State.enterSave (s : State) (uid cause code slot : Nat) (entry : DWord) (why : SwitchCause) : State :=
  let r : TrapRec := { cause := cause, code := code, addr := BitVec.ofNat 64 slot }
  let tm := s.team uid
  let s := s.setCore ((s.core tm.die tm.core).unbundle uid)
  let enter (t : Thread) : Thread :=
    if t.status == .ended then t else t.makeFrame.enterHandler .save r t.trapSeq.toNat entry s.steps
  s.updTeam uid fun tm => { tm with status := .leaving why, threads := tm.threads.map enter, regs := s.phaserNumbers tm, quotaQ := [] }

/-- A team is stopped and its save handlers begin (R287): cause 0 vacate, 1 checkpoint, 2 migration. A pending trap is delivered first. -/
def execSwitchOut (team cause : Nat) (s : State) : Host.Outcome State Fault Refusal :=
  match s.team? team with
  | none => .next s
  | some tm =>
    let c := s.ctxOf tm
    if tm.status != .resident || tm.prologue.isSome || !s.wantsOut c tm cause then .next s
    else if c.failed then .next (s.killTeam team)
    else if !s.settledTeam tm then .next s
    else
      let live := tm.threads.filter (·.status != .ended)
      let s := live.foldl (fun (s : State) t =>
        match t.status with
        | .stopping r time seq => s.enterTrap (team, t.tid) r time seq
        | _ => s.takePending (team, t.tid)) s
      if (s.ctxOf tm).failed then .next (s.killTeam team)
      else match s.giveSlot tm (s.ctxOf tm) with
        | (none, s) => .next s
        | (some slot, s) =>
          let s := s.updTeam team fun t => { t with gave := if cause == 0 && !(s.cohort tm).any (fun o => c.vacating.contains o.core) then tm.waitsForRoom else none }
          if c.saveEntry == 0 then .next (s.saveFail team codeSavetimeout)
          else
            let (why, cs, code) : SwitchCause × Nat × Nat := match cause with
              | 0 => (.vacate, causePreempt, 0)
              | 1 => (.checkpoint, causePreempt, 0x24)
              | _ => (.migrate, causeMigrate, 0)
            .next (s.enterSave team cs code slot (BitVec.ofNat 64 c.saveEntry) why)

/-- A save handler has run for 10 ms (R291). -/
def execSaveTimeout (team : Nat) (s : State) : Host.Outcome State Fault Refusal :=
  match s.team? team with
  | some tm =>
    (match tm.status with
    | .leaving _ => if tm.threads.any (·.handler == .save) then .next (s.saveFail team codeSavetimeout) else .next s
    | _ => .next s)
  | none => .next s

/-- A switch has waited 10 ms for an ordered peer-add round (R291): a residency-stall record; the switch waits on. -/
def execPeerRoundStall (team : Nat) (s : State) : Host.Outcome State Fault Refusal :=
  match s.team? team with
  | some tm =>
    let c := s.ctxOf tm
    let pending := !tm.rounds.isEmpty || s.drains.any fun d => d.team == team && (match d.dest with | .peer .. => true | _ => false)
    if tm.status == .resident && pending && [0, 1, 2].any (s.wantsOut c tm) then .next (s.report tm.die { kind := 2, ctx := tm.ctx }) else .next s
  | none => .next s

-- switching in (R292)

/-- Registers untagged, live, with free values (R292 step 2); the slots that back none hold the zeros of their block's allocation (R91). -/
def freshCells (quota free : Nat) : Vector XCell 64 := Vector.ofFn fun i =>
  if i.val < quota then { val := w32 (Config.freeNat (free + i.val)), dead := false } else {}

/-- The threads of a team enter the restore entry (R292 step 2). -/
def Team.enterRestore (tm : Team) (entry : DWord) (slot free step : Nat) : Team :=
  let a := words64 (BitVec.ofNat 64 slot)
  { tm with
    status := .entering
    gave := none
    threads := tm.threads.map fun t => if t.status == .ended then { t with x := Vector.replicate 64 {} } else
      { t with x := freshCells (tm.quotaOf t.tid) (free + 64 * t.tid), k := #v[0, 0, 0, 0, a[0]?.getD 0, a[1]?.getD 0, 0, 0], handler := .restore, frame := none, pc := entry
               clause := none, entry := none, status := .fold step, fmode := tm.fmode, mfmt := tm.mfmt, dissolve := none, reply := none
               unwatched := false, arrKind := 0, arrOp := 0, arrVal := 0, hstep := 0 } }

/-- How a switch-in of one team ends. -/
inductive Restored where
  | noRoom
  | held (s : State)
  | ok (s : State)

/-- One team switched in on a core (R292 steps 1 and 2), ordered as by a fence (R194); a header with a reserved value fails the restore (R299). -/
def State.restoreTeam (s : State) (tm : Team) (core : Nat) : Restored :=
  let c := s.ctxOf tm
  let slot := tm.slot.getD 0
  let m : Master := ⟨tm.die, core, tm.ctx, 0⟩
  let act : Eng (List Byte × List Byte) := do
    let h ← feBytes m slot 4096
    let r ← feBytes m (slot + 4096) (16 * tm.gangs.length * tm.recipeMax)
    return (h, r)
  match act s with
  | .error (.hold va k r) => .held (if s.faultOn tm.die tm.ctx (va / 8192) then s else s.engineFault m 0 va k r)
  | .error (.wait s) => .held s
  | .error (.fail _ _) => .ok (s.restoreFail tm.uid)
  | .ok ((h, r), s) =>
    if !headerOk h tm || !recipesOk r || c.restoreEntry == 0 then .ok (s.restoreFail tm.uid)
    else match s.allocTeam (tm.applyHeader h r) core with
      | none => .noRoom
      | some (tm', s) =>
        let tm' := tm'.enterRestore (BitVec.ofNat 64 c.restoreEntry) slot s.free s.steps
        let s : State := { s with free := s.free + 64 * tm'.threads.length }
        .ok ((s.setCore (s.core tm.die core).acquire).updTeam tm.uid fun _ => tm')

/-- Teams switched in one after another, each on its core. -/
def restoreTeams : List (Team × Nat) → State → Restored
  | [], s => .ok s
  | (tm, core) :: rest, s =>
    match s.restoreTeam tm core with
    | .ok s => restoreTeams rest s
    | r => r

/-- The order of saved teams for placement (R76, R79). -/
def State.savedBefore (s : State) (a b : Team) : Bool :=
  let ga := s.gridOf a
  let gb := s.gridOf b
  if ga.uid == gb.uid then decide (a.num ≤ b.num) else ga.before gb

/-- A switched-out team is placed on a core (R79, R292), and with it the members of its cohort that are out, each on a core of the
partition that has room (R43). -/
def execSwitchIn (team core : Nat) (s : State) : Host.Outcome State Fault Refusal :=
  match s.team? team with
  | none => .next s
  | some tm =>
    let c := s.ctxOf tm
    let saved := s.teams.filter fun t => t.die == tm.die && t.ctx == tm.ctx && s.wantsIn t
    if !s.wantsIn tm || c.migrating.isSome || c.ckpt != 0 || !c.takes core || !saved.all (s.savedBefore tm ·) then .next s
    else
      let mates := (s.cohort tm).filter fun o => o.uid != team && o.status == .out
      let (d, s) := s.draw
      let cs := c.part.filter c.takes
      let plan := (tm, core) :: (mates.zip (List.range mates.length)).map fun (o, i) => (o, cs[d / 256 ^ i % max 1 cs.length]?.getD core)
      match restoreTeams plan s with
      | .ok s => .next s
      | .held s' => .next { s with dies := s'.dies, dirs := s'.dirs }
      | .noRoom => .next s

-- checkpoints (R304 to R307)

/-- The checkpoint interval of a context expires (R304). -/
def execCheckpointInterval (die ctx : Nat) (s : State) : Host.Outcome State Fault Refusal :=
  .next (s.updCtx die ctx fun c => if c.checkpoint && die != 0 && !c.failed then { c with ckptWanted := true } else c)

/-- A free place of the granary of n bytes at an alignment, beside those taken, of the firmware's choice. -/
def State.granaryPlace (s : State) (base size : Nat) (taken : List (Nat × Nat)) (n align : Nat) : Option Nat × State :=
  let start := (base + align - 1) / align * align
  s.choose (((List.range (size / align)).map fun i => start + align * i).filter fun a =>
    a + n ≤ base + size && taken.all fun (b, m) => a + n ≤ b || b + m ≤ a)

/-- Pages mirrored into free frames of the granary (R304 step 2); none without room. -/
def State.mirror (s : State) (base size : Nat) : List Mirror → List (Nat × Nat) → Option (List Mirror × List (Nat × Nat) × State)
  | [], taken => some ([], taken, s)
  | m :: ms, taken =>
    let n := pageBytes m.level
    match s.granaryPlace base size taken n n with
    | (none, _) => none
    | (some a, s) =>
      let k := physKey (Pte.home ⟨m.d0, m.d1⟩) (Pte.addr ⟨m.d0, m.d1⟩)
      let s := s.recall k n
      let s : State := { s with mem := Memory.write (Memory.clear s.mem (physKey 0 a) n) (physKey 0 a) (Memory.read s.mem k n) }
      match s.mirror base size ms ((a, n) :: taken) with
      | none => none
      | some (out, taken, s) => some ({ m with frame := a } :: out, taken, s)

/-- What a commit keeps of a queue: a CHECKPOINT in progress has completed with it (R298, R307). -/
def Queue.atCommit (q : Queue) : Queue :=
  { q with cmds := q.cmds.map fun c => if c.st == some .checkpointing then { c with st := some .done } else c }

/-- The image of a context as a commit keeps it (R297), its code versions with frames in the granary. -/
def State.image (s : State) (c kept : Context) (seq recordVa : Nat) (pages leaves : List Mirror) : Commit :=
  let mine (d n : Nat) : Bool := d == c.die && n == c.num
  let ids (l : LockId) : Bool := mine l.ctxDie l.ctx
  { die := c.die, num := c.num, seq := seq, time := s.dieTime 0, recordVa := recordVa, ctx := kept
    queues := (s.queues.filter fun q => mine q.die q.ctx).map Queue.atCommit
    grids := s.grids.filter fun g => mine g.die g.ctx
    teams := s.teams.filter fun t => mine t.die t.ctx
    phasers := s.phasers.filter fun p => p.die == c.die && c.phBase ≤ p.num && p.num < c.phBase + c.phCount
    locks := s.locks.filter fun l => l.holder.any ids || l.fifo.any ids
    rays := s.rays.filter fun r => mine r.die r.ctx
    scenes := s.scenes.filter fun x => mine x.die x.ctx
    gfx := s.gfx.filter fun g => mine g.die g.ctx
    pages := pages, leaves := leaves }

/-- The commands of a context in a state complete with a status code; the code may depend on the queue. -/
def State.finishAll (s : State) (die ctx : Nat) (st : CmdState) (code : Queue → Option Nat) : State :=
  (s.queues.filter fun q => q.die == die && q.ctx == ctx).foldl (fun (s : State) q =>
    (q.cmds.filter (·.st == some st)).foldl (fun (s : State) k => s.finishCmd q.uid k.idx (code q)) s) s

/-- The commit sequence number of a checkpoint reaches P (R304, R306, R307): pages, page map and records stand in the granary, the frames it
supersedes are free, the held effects are released, and the CHECKPOINT commands complete. -/
def execCommitRecord (die ctx : Nat) (s : State) : Host.Outcome State Fault Refusal :=
  match s.ctx? die ctx, (s.die? 0).bind (·.granary) with
  | some c, some (base, size) =>
    if c.ckpt != 1 || c.failed || die == 0 || !s.present 0 || !s.quiet c then .next s
    else match s.closeTiles die ctx with
      | (false, s) => .next s
      | (true, s) =>
        match s.spillHeads die ctx with
        | (false, s) => .next s
        | (true, s) =>
        let old := s.commits.find? fun k => k.die == die && k.num == ctx
        let taken := (s.commits.flatMap fun k => (k.recordVa, 64) :: ((k.pages.map fun m => (m.frame, pageBytes m.level)) ++ k.ctx.frameList.map fun f => (f.2.2, 8192)))
          ++ ((s.die? 0).map (·.given)).getD []
        let all := s.leaves c
        let here := all.filter fun m => isDie (Pte.home ⟨m.d0, m.d1⟩) && Pte.home ⟨m.d0, m.d1⟩ != 3
        let (fresh, same) := here.partition fun m => Pte.ckd ⟨m.d0, m.d1⟩
        let own := (c.frameList.filter fun f => f.2.1 != 0 && f.2.1 != 3).map fun f => ({ va := f.1, level := 0, frame := f.2.2, d0 := f.2.2 + f.2.1 * 1024, d1 := 0 } : Mirror)
        let made := (s.mirror base size own taken).bind fun (own', taken, s) => (s.mirror base size fresh taken).map fun r => (own', r)
        match made with
        | none => .next s
        | some (own', pages, taken, s) =>
          let there (f : Nat × Nat × Nat) : Nat × Nat × Nat :=
            (((own.zip own').find? fun (a, _) => (a.va, a.frame) == (f.1, f.2.2)).map fun (_, b) => (f.1, 0, b.frame)).getD f
          let kept' : Context := { c with versions := c.versions.map fun v => { v with frames := v.frames.map there } }
          let kept := same.filterMap fun m => (old.bind fun k => k.pages.find? (·.va == m.va)).map fun o => { m with frame := o.frame }
          let pages := pages ++ kept
          let leaves := all.filter fun m => !pages.any (·.va == m.va)
          let body := s.contextRecord c ++ (s.queues.filter fun q => q.die == die && q.ctx == ctx).flatMap Queue.record
            ++ (s.grids.filter fun g => g.die == die && g.ctx == ctx).flatMap s.gridRecord
          let map := pages.flatMap Mirror.bytes
          let (a, s) := s.granaryPlace base size taken body.length 64
          let (b, s) := s.granaryPlace base size ((a.getD 0, body.length) :: taken) map.length 64
          let (r, s) := match old with
            | some k => (some k.recordVa, s)
            | none => s.granaryPlace base size ((a.getD 0, body.length) :: (b.getD 0, map.length) :: taken) 64 64
          match a, b, r with
          | some a, some b, some r =>
            let seq := c.ckptSeq + 1
            let put (s : State) (pa : Nat) (bs : List Byte) : State := { s with mem := Memory.write s.mem (physKey 0 pa) bs }
            let s := put (put (put s a body) b map) r (commitBytes seq (s.dieTime 0) a b pages.length die ctx)
            let k := s.image c kept' seq r pages leaves
            let s : State := { s with commits := k :: s.commits.filter fun k => !(k.die == die && k.num == ctx) }
            let s := (s.releaseHeld c c.held).updCtx die ctx fun c => { c with ckpt := 2, ckptSeq := seq }
            .next (s.finishAll die ctx .checkpointing fun _ => some 0)
          | _, _, _ => .next s
  | _, _ => .next s

/-- P acknowledges a checkpoint (R304 step 5): CKD is cleared on the mirrored entries, the commit buffer is emptied, and the teams may be
switched in again. -/
def execCheckpointAck (die ctx : Nat) (s : State) : Host.Outcome State Fault Refusal :=
  match s.ctx? die ctx, s.commits.find? fun k => k.die == die && k.num == ctx with
  | some c, some k =>
    if c.ckpt != 2 then .next s
    else
      let s := (leavesOf s.mem die 4 c.root).foldl (fun (s : State) (key, _, e) =>
        if e.ckd && e.home != 0 && e.home != 3 then { s with mem := Memory.write s.mem key (bytesLE 8 (e.d0 - 512)) } else s) s
      .next ((s.dropTlb die ctx 0 0).updCtx die ctx fun c => { c with ckpt := 0, held := c.held.drop k.ctx.held.length })
  | _, _ => .next s

-- migration (R300 to R302)

/-- Whether the die a context moves to, or leaves for, takes it without cores: an undock is in progress (R303). -/
def State.undocking (s : State) (die : Nat) : Bool := s.dies.any fun d => d.dock == .undocking && (beyond d.code).contains die

/-- The target die has the image of a context and grants it cores (R300 step 4); without a partition the context stays (R301). -/
def execMigrationImage (die ctx : Nat) (cores : List Nat) (s : State) : Host.Outcome State Fault Refusal :=
  match s.ctx? die ctx with
  | none => .next s
  | some c =>
    match c.migrating with
    | none => .next s
    | some t =>
      if c.failed then
        .next (((s.dropFailed die ctx).updCtx die ctx fun c => { c with migrating := none, sent := none }).finishAll die ctx .migrating fun _ => some 6)
      else if c.sent.isSome || !s.quiet c || c.ckpt != 0 then .next s
      else
        let got := cores.eraseDups.filter (s.idleCore t ·)
        let room := (s.freeContext t).isSome && ((List.range (4097 - c.phCount)).any fun b => s.phasersFree t b c.phCount)
        if s.undocking die && !room then .next s
        else if !s.present t || !room || (got.isEmpty && !s.undocking die) then
          .next ((s.updCtx die ctx fun c => { c with migrating := none }).finishAll die ctx .migrating fun _ => some 5)
        else match s.closeTiles die ctx with
          | (false, s) => .next s
          | (true, s) =>
            match s.spillHeads die ctx with
            | (false, s) => .next s
            | (true, s) => .next (s.updCtx die ctx fun c => { c with sent := some got })

/-- The addresses of a context's hot page list (R300, R323), as far as the list can be read. -/
def State.hotPages (s : State) (c : Context) : List Nat :=
  match c.hot with
  | [a, n] => (List.range n).filterMap fun i =>
      match engLoad (feMaster c.die c.num) (a + 8 * i) 8 s with | .ok (bs, _) => some (natLE bs) | .error _ => none
  | _ => []
/-- The hot pages sent ahead to the die a context has moved to, into frames of the firmware's choice (R300). -/
def State.sendHot (s : State) (die ctx : Nat) (hot : List Nat) : State :=
  hot.foldl (fun (s : State) va =>
    match s.ctx? die ctx with
    | none => s
    | some c =>
      let (d, s) := s.draw
      let n := match walkFrom s.mem die va 4 c.root with | .ok lf => pageBytes lf.level | .error _ => 8192
      (s.movePage c va die (d % (Config.memoryBytes (isDie die) / n) * n)).getD s) s

/-- The target acknowledges the image (R300 step 5): the source's copy is freed, and the context goes on there with a queue number of its own
for each queue; the MIGRATE completes with 0x10 (R301). -/
def execMigrationAck (die ctx : Nat) (s : State) : Host.Outcome State Fault Refusal :=
  match s.ctx? die ctx with
  | none => .next s
  | some c =>
    match c.migrating, c.sent with
    | some t, some cores =>
      match s.freeContext t with
      | none => .next s
      | some (num, s) =>
        let asked := s.queues.any fun q => q.die == die && q.ctx == ctx && q.cmds.any (·.st == some .migrating)
        let (base, s) := s.freePhasers t c.phCount
        let (qmap, s) := s.queueNumbers t (s.queues.filter fun q => q.die == die && q.ctx == ctx) []
        let hot := s.hotPages c
        let (root, s) := s.buildTables t (s.leaves c)
        let s := if t == 0 then s.releaseHeld c (c.held ++ c.heldMore) else s
        let off := match s.die? t with | some d => d.coresOff | none => []
        let s := s.moveCtx c { die := t, num := num, root := root, phBase := base.getD 0, part := cores.filter (!off.contains ·), queues := qmap }
        let s := s.sendHot t num hot
        let s := s.finishAll t num .migrating fun q => some (0x10 + q.num * 256)
        let s : State := { s with queues := s.queues.map fun (q : Queue) => if q.die == t && q.ctx == num then q.restored else q }
        .next (if asked then s else (s.queues.filter fun q => q.die == t && q.ctx == num).foldl (fun (s : State) q => s.queueStatus q 0x10) s)
    | _, _ => .next s

end Sys2Proof.Machine
end

