-- ==== Sys2Proof/Machine/Texture.lean ====
section
/-! DEFINITION. TEX and TEXN (R457 to R460): the texture record, exact sampling, and the perceptron of R276. -/
namespace Sys2Proof.Machine

/-- A texture record within its limits (R458). -/
structure TexRec where
  base : Nat
  w : Nat
  h : Nat
  layers : Nat
  levels : Nat
  fmt : Nat
  bilinear : Bool
  linear : Bool
  modeU : Nat
  modeV : Nat
  border : List Nat
  weights : Nat
  ni : Nat
  hid : Nat
  deriving DecidableEq, Repr

/-- Bytes of a texel (R458). -/
def texelBytes (fmt : Nat) : Nat := match fmt with | 1 => 8 | 2 | 5 => 16 | _ => 4

def TexRec.parse (bs : List Byte) (neural : Bool) : Option TexRec :=
  let r : TexRec :=
    { base := natAt bs 0 8, w := natAt bs 8 2, h := natAt bs 10 2, layers := natAt bs 12 2, levels := natAt bs 14 1, fmt := natAt bs 15 1
      bilinear := flagAt (natAt bs 16 1) 0, linear := flagAt (natAt bs 16 1) 1, modeU := natAt bs 17 1 % 4, modeV := natAt bs 17 1 / 4 % 4
      border := (List.range 4).map fun i => natAt bs (20 + 4 * i) 4, weights := natAt bs 40 8, ni := natAt bs 48 1, hid := natAt bs 49 1 }
  let common := r.base % 256 == 0 && 1 ≤ r.w && r.w ≤ 16384 && 1 ≤ r.h && r.h ≤ 16384 && 1 ≤ r.layers && r.layers ≤ 2048 && 1 ≤ r.levels
    && r.levels ≤ 15 && r.levels ≤ Nat.log2 (max r.w r.h) + 1 && r.fmt ≤ 5 && natAt bs 16 1 < 4 && natAt bs 17 1 < 16 && zeroAt bs 18 2
    && zeroAt bs 36 4 && r.weights % 64 == 0 && zeroAt bs 50 14
  let own := if neural then r.weights != 0 && 1 ≤ r.ni && r.ni ≤ 8 && (r.hid == 16 || r.hid == 32) && (r.fmt == 5 || (r.fmt == 1 && r.ni ≤ 4))
    else r.ni == 0 && r.hid == 0
  if common && own then some r else none

/-- A level's width and height (R458). -/
def TexRec.size (r : TexRec) (l : Nat) : Nat × Nat := (max 1 (r.w / 2 ^ l), max 1 (r.h / 2 ^ l))
/-- A level's padded bytes (R458). -/
def TexRec.levelBytes (r : TexRec) (l : Nat) : Nat :=
  let (w, h) := r.size l
  (w * h * texelBytes r.fmt + 255) / 256 * 256
/-- Where a level of a layer starts (R458). -/
def TexRec.levelVa (r : TexRec) (layer l : Nat) : Nat :=
  r.base + layer * ((List.range r.levels).map r.levelBytes).sum + ((List.range l).map r.levelBytes).sum

/-- One texel of a sample: its weight, and its address; none for the border colour (R459). -/
structure Tap where
  weight : Num.Val
  va : Option Nat

/-- A coordinate through its address mode; none outside a border (R459). -/
def texCoord (mode : Nat) (i : Int) (n : Nat) : Option Nat :=
  match mode with
  | 0 => some (i % n).toNat
  | 1 => some (min (max i 0) ((n : Int) - 1)).toNat
  | 2 => let m := (i % (2 * n : Nat)).toNat; some (if m < n then m else 2 * n - 1 - m)
  | _ => if 0 ≤ i && i < n then some i.toNat else none

/-- The levels a sample uses, with their weights (R459). -/
def TexRec.useLevels (r : TexRec) (lod : Nat) : List (Nat × Num.Val) :=
  let one : Int := Num.unit32
  let top : Int := (r.levels - 1 : Nat) * one
  let x : Int := if lod / 2 ^ 23 % 256 == 255 && lod % 2 ^ 23 != 0 then 0 else max 0 (min (Num.fixed32 lod) top)
  if r.linear then
    let l0 := (x / one).toNat
    let f := (x % one).toNat
    [(l0, .fin false (2 ^ 149 - f) (-149)), (min (l0 + 1) (r.levels - 1), .fin false f (-149))]
  else [(((2 * x + one) / (2 * one)).toNat, .fin false 1 0)]

/-- The texels of one level of a sample (R459). -/
def TexRec.taps (r : TexRec) (layer u v : Nat) (lw : Nat × Num.Val) : List Tap :=
  let (l, weight) := lw
  let (w, h) := r.size l
  let fin (c : Nat) : Int := if Num.finite32 c then Num.fixed32 c else 0
  let va (i j : Int) : Option Nat :=
    match texCoord r.modeU i w, texCoord r.modeV j h with
    | some x, some y => some (r.levelVa layer l + (y * w + x) * texelBytes r.fmt)
    | _, _ => none
  let half : Int := 2 ^ 150
  let mul (x : Num.Val) : Num.Val := (Num.mulVal weight x).1
  if r.bilinear then
    let s := 2 * fin u * w - Num.unit32
    let t := 2 * fin v * h - Num.unit32
    let i := s / half
    let j := t / half
    let a := (s % half).toNat
    let b := (t % half).toNat
    let one := 2 ^ 150
    [⟨mul (.fin false ((one - a) * (one - b)) (-300)), va i j⟩, ⟨mul (.fin false (a * (one - b)) (-300)), va (i + 1) j⟩,
     ⟨mul (.fin false ((one - a) * b) (-300)), va i (j + 1)⟩, ⟨mul (.fin false (a * b) (-300)), va (i + 1) (j + 1)⟩]
  else [⟨weight, va (fin u * w / Num.unit32) (fin v * h / Num.unit32)⟩]

/-- The channels of a texel; those of format 0 times 255 (R458). -/
def texelChannels (fmt : Nat) (bs : List Byte) : List Num.Val :=
  let half (i : Nat) : Num.Val := Num.decodeVal Num.fp16 (natAt bs (2 * i) 2)
  let word (i : Nat) : Num.Val := Num.decodeVal Num.fp32 (natAt bs (4 * i) 4)
  let zero : Num.Val := .fin false 0 0
  let one : Num.Val := .fin false 1 0
  match fmt with
  | 0 => (List.range 4).map fun i => .fin false (natAt bs i 1) 0
  | 1 => (List.range 4).map half
  | 2 => (List.range 4).map word
  | 3 => [word 0, zero, zero, one]
  | 4 => [half 0, half 1, zero, one]
  | _ => (List.range 8).map half

/-- The exact sum of some products rounded once into FP32; a format 0 sum over 255 (R459). -/
def texRound (fmt : Nat) (v : Num.Val) : Nat :=
  match fmt, v with
  | 0, .fin neg m e =>
    if m == 0 then (Num.finish Num.fp32 {} v).1
    else Num.ratioTo Num.fp32 ((if neg then -1 else 1) * (m * 2 ^ e.toNat : Nat)) (255 * 2 ^ (-e).toNat : Nat)
  | _, v => (Num.finish Num.fp32 {} v).1

/-- Products summed exactly. -/
def sumVals : List Num.Val → Num.Val
  | [] => .fin false 0 0
  | v :: vs => vs.foldl (fun a x => (Num.addVal .rne a x).1) v

/-- The perceptron of R276 on latents, from the weight block's FP16 values. -/
def perceptron (ni hid : Nat) (w : List Num.Val) (latents : List Nat) : List Nat :=
  let narrow (x : Nat) : Num.Val := Num.decodeVal Num.fp16 (Num.toFmt Num.fp16 .rne false true (Num.decodeVal Num.fp32 x)).1
  let at_ (i : Nat) : Num.Val := w[i]?.getD (.fin false 0 0)
  let layer (n k wo bo : Nat) (ins : List Num.Val) : List Nat :=
    (List.range n).map fun j =>
      (Num.finish Num.fp32 {} (sumVals (at_ (bo + j) :: (ins.zip (List.range k)).map fun (x, i) => (Num.mulVal (at_ (wo + j * k + i)) x).1))).1
  let relu (x : Nat) : Nat :=
    match Num.decodeVal Num.fp32 x with
    | .nan _ => 0
    | .inf neg => if neg then 0 else x
    | .fin neg m _ => if neg || m == 0 then 0 else x
  let h := (layer hid ni 0 (hid * ni) ((latents.take ni).map narrow)).map relu
  layer 4 hid (hid * ni + hid) (hid * ni + hid + 4 * hid) (h.map narrow)

/-- The locations of a sample's texels, each page translated (R459). -/
def tapLocs (n : Nat) : List Tap → Op (List (Num.Val × Option (Nat × Loc)))
  | [] => return []
  | t :: ts => do
    let l ← (match t.va with
      | some va => do let (l, _) ← locateOp va n 1 .read false true false fun _ => none; pure (some (va, l))
      | none => pure none : Op (Option (Nat × Loc)))
    let rest ← tapLocs n ts
    return (t.weight, l) :: rest

/-- The texels read: weight and channels of each, and the poisoned address met, if any (R459). -/
def readTaps (fmt : Nat) (border : List Num.Val) : List (Num.Val × Option (Nat × Loc)) → Op (List (Num.Val × List Num.Val) × Option (Nat × Nat))
  | [] => return ([], none)
  | (w, none) :: ts => do
    let (rest, bad) ← readTaps fmt border ts
    return ((w, border) :: rest, bad)
  | (w, some (va, l)) :: ts => do
    let (bs, err) ← readBytes l (texelBytes fmt) false
    let (rest, bad) ← readTaps fmt border ts
    return ((w, texelChannels fmt bs) :: rest, if err != 0 then some (err, va) else bad)

/-- TEX and TEXN (R457 to R460): their quad is written by a reply. -/
def texBody (i : Instr) (neural : Bool) (d a : XReg) (b : YReg) : Op Unit := do
  checkFlagRoom false
  let x ← readList (quadR a.val)
  let sd := (← readSPair b.val).toNat
  let dsts := quadR d.val
  tryPrepare dsts none
  let finish (vals : List Nat) (bad : Option (Nat × Nat)) : Op Unit := do
    prepareDsts dsts none
    startFlight false (dsts.zip (vals.map fun v => w32 v)) []
      (bad.map fun (code, va) => { cause := causePoison, code := code, addr := BitVec.ofNat 64 va }) none
    retire i none
  let (l, _) ← locateOp sd 64 64 .read false true false fun _ => none
  let (bs, err) ← readBytes l 64 false
  if err != 0 then finish [0, 0, 0, 0] (some (err, sd))
  else
    match TexRec.parse bs neural with
    | none => illegal 0
    | some r => do
      let xi (i : Nat) : Nat := (x[i]?.getD 0).toNat
      let layer := min (xi 2) (r.layers - 1)
      let taps := (r.useLevels (xi 3)).flatMap (r.taps layer (xi 0) (xi 1))
      let locs ← tapLocs (texelBytes r.fmt) taps
      let wbytes := if neural then 2 * (r.hid * r.ni + r.hid + 4 * r.hid + 4) else 0
      checkPages true 2 r.weights wbytes
      let col : List Num.Val := r.border.map (Num.decodeVal Num.fp32)
      let border ← (if r.fmt == 0 then pure (col.map fun c => (Num.mulVal (.fin false 255 0) c).1)
        else if r.fmt == 5 then do
          let f ← drawFree
          return col ++ (List.range 4).map fun j => Num.decodeVal Num.fp32 (bitsAt f (32 * j) 32)
        else pure col : Op (List Num.Val))
      let (texels, bad) ← readTaps r.fmt border locs
      let chan (k : Nat) : Nat :=
        texRound r.fmt (sumVals (texels.map fun (w, cs) => (Num.mulVal w (cs[k]?.getD (.fin false 0 0))).1))
      if !neural then finish ((List.range 4).map chan) bad
      else do
        let (wb, ok) ← readRange 20 r.weights wbytes
        let w := (List.range (wbytes / 2)).map fun j => Num.decodeVal Num.fp16 (natAt wb (2 * j) 2)
        finish (perceptron r.ni r.hid w ((List.range r.ni).map chan)) (if ok then bad else some (codeUncorrectable, r.weights))

/-- `tex xD, xA, sB:sB+1` (R459). -/
def execTex (p : PReg) (d a : XReg) (b : YReg) (l : Bool) (s : State) : Host.Outcome State Fault Refusal :=
  runThread (.tex p d a b l) (texBody (.tex p d a b l) false d a b) s

/-- `texn xD, xA, sB:sB+1` (R460). -/
def execTexn (p : PReg) (d a : XReg) (b : YReg) (l : Bool) (s : State) : Host.Outcome State Fault Refusal :=
  runThread (.texn p d a b l) (texBody (.texn p d a b l) true d a b) s

end Sys2Proof.Machine
end

