-- ==== Sys2Proof/Machine/Dispatch.lean ====
section
/-! DEFINITION. The one dispatch of every constructor to its meaning. -/
namespace Sys2Proof.Machine

/-- The effect of an instruction word for the issuing thread, or of an operation or event of the part. -/
def exec (i : Instr) (s : State) : Host.Outcome State Fault Refusal :=
  match i with
  | .add16 a0 a1 a2 => Sys2Proof.Machine.execAdd16 a0 a1 a2 s
  | .sub16 a0 a1 a2 => Sys2Proof.Machine.execSub16 a0 a1 a2 s
  | .mul16 a0 a1 a2 => Sys2Proof.Machine.execMul16 a0 a1 a2 s
  | .and16 a0 a1 a2 => Sys2Proof.Machine.execAnd16 a0 a1 a2 s
  | .or16 a0 a1 a2 => Sys2Proof.Machine.execOr16 a0 a1 a2 s
  | .xor16 a0 a1 a2 => Sys2Proof.Machine.execXor16 a0 a1 a2 s
  | .shl16 a0 a1 => Sys2Proof.Machine.execShl16 a0 a1 s
  | .shrN16 a0 a1 => Sys2Proof.Machine.execShrN16 a0 a1 s
  | .mov16 a0 a1 a2 => Sys2Proof.Machine.execMov16 a0 a1 a2 s
  | .ldi16 a0 a1 => Sys2Proof.Machine.execLdi16 a0 a1 s
  | .addi16 a0 a1 => Sys2Proof.Machine.execAddi16 a0 a1 s
  | .fadd16 a0 a1 a2 => Sys2Proof.Machine.execFadd16 a0 a1 a2 s
  | .fsub16 a0 a1 a2 => Sys2Proof.Machine.execFsub16 a0 a1 a2 s
  | .fmul16 a0 a1 a2 => Sys2Proof.Machine.execFmul16 a0 a1 a2 s
  | .ld16 a0 a1 a2 => Sys2Proof.Machine.execLd16 a0 a1 a2 s
  | .st16 a0 a1 a2 => Sys2Proof.Machine.execSt16 a0 a1 a2 s
  | .clause a0 a1 a2 a3 => Sys2Proof.Machine.execClause a0 a1 a2 a3 s
  | .pfx a0 => Sys2Proof.Machine.execPfx a0 s
  | .add a0 a1 a2 a3 a4 a5 => Sys2Proof.Machine.execAdd a0 a1 a2 a3 a4 a5 s
  | .addc a0 a1 a2 a3 a4 a5 => Sys2Proof.Machine.execAddc a0 a1 a2 a3 a4 a5 s
  | .sub a0 a1 a2 a3 a4 a5 => Sys2Proof.Machine.execSub a0 a1 a2 a3 a4 a5 s
  | .subb a0 a1 a2 a3 a4 a5 => Sys2Proof.Machine.execSubb a0 a1 a2 a3 a4 a5 s
  | .addImm a0 a1 a2 a3 a4 => Sys2Proof.Machine.execAddImm a0 a1 a2 a3 a4 s
  | .mul a0 a1 a2 a3 a4 a5 => Sys2Proof.Machine.execMul a0 a1 a2 a3 a4 a5 s
  | .mulhSS a0 a1 a2 a3 a4 a5 => Sys2Proof.Machine.execMulhSS a0 a1 a2 a3 a4 a5 s
  | .mulhNN a0 a1 a2 a3 a4 a5 => Sys2Proof.Machine.execMulhNN a0 a1 a2 a3 a4 a5 s
  | .mulhSN a0 a1 a2 a3 a4 a5 => Sys2Proof.Machine.execMulhSN a0 a1 a2 a3 a4 a5 s
  | .mad a0 a1 a2 a3 a4 a5 a6 => Sys2Proof.Machine.execMad a0 a1 a2 a3 a4 a5 a6 s
  | .madw a0 a1 a2 a3 a4 a5 a6 => Sys2Proof.Machine.execMadw a0 a1 a2 a3 a4 a5 a6 s
  | .div a0 a1 a2 a3 a4 a5 => Sys2Proof.Machine.execDiv a0 a1 a2 a3 a4 a5 s
  | .and a0 a1 a2 a3 a4 a5 => Sys2Proof.Machine.execAnd a0 a1 a2 a3 a4 a5 s
  | .or a0 a1 a2 a3 a4 a5 => Sys2Proof.Machine.execOr a0 a1 a2 a3 a4 a5 s
  | .xor a0 a1 a2 a3 a4 a5 => Sys2Proof.Machine.execXor a0 a1 a2 a3 a4 a5 s
  | .andn a0 a1 a2 a3 a4 a5 => Sys2Proof.Machine.execAndn a0 a1 a2 a3 a4 a5 s
  | .shl a0 a1 a2 a3 a4 a5 => Sys2Proof.Machine.execShl a0 a1 a2 a3 a4 a5 s
  | .shrN a0 a1 a2 a3 a4 a5 => Sys2Proof.Machine.execShrN a0 a1 a2 a3 a4 a5 s
  | .shrS a0 a1 a2 a3 a4 a5 => Sys2Proof.Machine.execShrS a0 a1 a2 a3 a4 a5 s
  | .rot a0 a1 a2 a3 a4 a5 => Sys2Proof.Machine.execRot a0 a1 a2 a3 a4 a5 s
  | .shf a0 a1 a2 a3 a4 a5 a6 => Sys2Proof.Machine.execShf a0 a1 a2 a3 a4 a5 a6 s
  | .imin a0 a1 a2 a3 a4 a5 a6 => Sys2Proof.Machine.execImin a0 a1 a2 a3 a4 a5 a6 s
  | .imax a0 a1 a2 a3 a4 a5 a6 => Sys2Proof.Machine.execImax a0 a1 a2 a3 a4 a5 a6 s
  | .popc a0 a1 a2 a3 a4 => Sys2Proof.Machine.execPopc a0 a1 a2 a3 a4 s
  | .clz a0 a1 a2 a3 a4 => Sys2Proof.Machine.execClz a0 a1 a2 a3 a4 s
  | .brev a0 a1 a2 a3 a4 => Sys2Proof.Machine.execBrev a0 a1 a2 a3 a4 s
  | .iabs a0 a1 a2 a3 a4 => Sys2Proof.Machine.execIabs a0 a1 a2 a3 a4 s
  | .bfe a0 a1 a2 a3 a4 a5 a6 => Sys2Proof.Machine.execBfe a0 a1 a2 a3 a4 a5 a6 s
  | .bfi a0 a1 a2 a3 a4 a5 => Sys2Proof.Machine.execBfi a0 a1 a2 a3 a4 a5 s
  | .lea a0 a1 a2 a3 a4 a5 a6 => Sys2Proof.Machine.execLea a0 a1 a2 a3 a4 a5 a6 s
  | .icmp a0 a1 a2 a3 a4 a5 a6 => Sys2Proof.Machine.execIcmp a0 a1 a2 a3 a4 a5 a6 s
  | .fcmp a0 a1 a2 a3 a4 a5 a6 => Sys2Proof.Machine.execFcmp a0 a1 a2 a3 a4 a5 a6 s
  | .plop a0 a1 a2 a3 a4 => Sys2Proof.Machine.execPlop a0 a1 a2 a3 a4 s
  | .mov a0 a1 a2 a3 a4 => Sys2Proof.Machine.execMov a0 a1 a2 a3 a4 s
  | .movs a0 a1 a2 a3 => Sys2Proof.Machine.execMovs a0 a1 a2 a3 s
  | .smov a0 a1 a2 a3 => Sys2Proof.Machine.execSmov a0 a1 a2 a3 s
  | .movpToReg a0 a1 => Sys2Proof.Machine.execMovpToReg a0 a1 s
  | .movpToPreds a0 a1 a2 => Sys2Proof.Machine.execMovpToPreds a0 a1 a2 s
  | .sel a0 a1 a2 a3 a4 a5 => Sys2Proof.Machine.execSel a0 a1 a2 a3 a4 a5 s
  | .ldi a0 a1 a2 => Sys2Proof.Machine.execLdi a0 a1 a2 s
  | .ldhi a0 a1 a2 => Sys2Proof.Machine.execLdhi a0 a1 a2 s
  | .fadd a0 a1 a2 a3 a4 a5 => Sys2Proof.Machine.execFadd a0 a1 a2 a3 a4 a5 s
  | .fsub a0 a1 a2 a3 a4 a5 => Sys2Proof.Machine.execFsub a0 a1 a2 a3 a4 a5 s
  | .fmul a0 a1 a2 a3 a4 a5 => Sys2Proof.Machine.execFmul a0 a1 a2 a3 a4 a5 s
  | .ffma a0 a1 a2 a3 a4 a5 a6 => Sys2Proof.Machine.execFfma a0 a1 a2 a3 a4 a5 a6 s
  | .fmin a0 a1 a2 a3 a4 a5 a6 => Sys2Proof.Machine.execFmin a0 a1 a2 a3 a4 a5 a6 s
  | .fmax a0 a1 a2 a3 a4 a5 a6 => Sys2Proof.Machine.execFmax a0 a1 a2 a3 a4 a5 a6 s
  | .fsfu a0 a1 a2 a3 a4 a5 => Sys2Proof.Machine.execFsfu a0 a1 a2 a3 a4 a5 s
  | .fcvt a0 a1 a2 a3 a4 a5 a6 => Sys2Proof.Machine.execFcvt a0 a1 a2 a3 a4 a5 a6 s
  | .frnd a0 a1 a2 a3 a4 a5 => Sys2Proof.Machine.execFrnd a0 a1 a2 a3 a4 a5 s
  | .fadd2 a0 a1 a2 a3 a4 a5 a6 => Sys2Proof.Machine.execFadd2 a0 a1 a2 a3 a4 a5 a6 s
  | .fmul2 a0 a1 a2 a3 a4 a5 a6 => Sys2Proof.Machine.execFmul2 a0 a1 a2 a3 a4 a5 a6 s
  | .ffma2H a0 a1 a2 a3 a4 a5 a6 => Sys2Proof.Machine.execFfma2H a0 a1 a2 a3 a4 a5 a6 s
  | .ffma2B a0 a1 a2 a3 a4 a5 a6 => Sys2Proof.Machine.execFfma2B a0 a1 a2 a3 a4 a5 a6 s
  | .fdot a0 a1 a2 a3 a4 a5 a6 => Sys2Proof.Machine.execFdot a0 a1 a2 a3 a4 a5 a6 s
  | .idot a0 a1 a2 a3 a4 a5 a6 => Sys2Proof.Machine.execIdot a0 a1 a2 a3 a4 a5 a6 s
  | .shfl a0 a1 a2 a3 a4 a5 => Sys2Proof.Machine.execShfl a0 a1 a2 a3 a4 a5 s
  | .vote a0 a1 a2 a3 a4 => Sys2Proof.Machine.execVote a0 a1 a2 a3 a4 s
  | .matchAny a0 a1 a2 a3 => Sys2Proof.Machine.execMatchAny a0 a1 a2 a3 s
  | .matchAll a0 a1 a2 a3 a4 => Sys2Proof.Machine.execMatchAll a0 a1 a2 a3 a4 s
  | .gred a0 a1 a2 a3 a4 => Sys2Proof.Machine.execGred a0 a1 a2 a3 a4 s
  | .gscan a0 a1 a2 a3 a4 a5 => Sys2Proof.Machine.execGscan a0 a1 a2 a3 a4 a5 s
  | .ddx a0 a1 a2 a3 a4 => Sys2Proof.Machine.execDdx a0 a1 a2 a3 a4 s
  | .ddy a0 a1 a2 a3 a4 => Sys2Proof.Machine.execDdy a0 a1 a2 a3 a4 s
  | .bfly a0 a1 a2 a3 a4 => Sys2Proof.Machine.execBfly a0 a1 a2 a3 a4 s
  | .dotp4 a0 a1 a2 a3 a4 => Sys2Proof.Machine.execDotp4 a0 a1 a2 a3 a4 s
  | .ld a0 a1 a2 a3 a4 a5 => Sys2Proof.Machine.execLd a0 a1 a2 a3 a4 a5 s
  | .st a0 a1 a2 a3 a4 a5 => Sys2Proof.Machine.execSt a0 a1 a2 a3 a4 a5 s
  | .atom a0 a1 a2 a3 a4 => Sys2Proof.Machine.execAtom a0 a1 a2 a3 a4 s
  | .red a0 a1 a2 a3 a4 => Sys2Proof.Machine.execRed a0 a1 a2 a3 a4 s
  | .fence a0 a1 a2 a3 => Sys2Proof.Machine.execFence a0 a1 a2 a3 s
  | .pfetch a0 a1 a2 a3 => Sys2Proof.Machine.execPfetch a0 a1 a2 a3 s
  | .cflush a0 a1 a2 a3 => Sys2Proof.Machine.execCflush a0 a1 a2 a3 s
  | .cinv a0 a1 a2 a3 => Sys2Proof.Machine.execCinv a0 a1 a2 a3 s
  | .cwb a0 a1 a2 a3 => Sys2Proof.Machine.execCwb a0 a1 a2 a3 s
  | .ldc a0 a1 a2 a3 => Sys2Proof.Machine.execLdc a0 a1 a2 a3 s
  | .cpy a0 a1 a2 a3 a4 a5 => Sys2Proof.Machine.execCpy a0 a1 a2 a3 a4 a5 s
  | .wtag a0 a1 a2 a3 => Sys2Proof.Machine.execWtag a0 a1 a2 a3 s
  | .ftag a0 a1 a2 a3 => Sys2Proof.Machine.execFtag a0 a1 a2 a3 s
  | .tagclr a0 a1 a2 => Sys2Proof.Machine.execTagclr a0 a1 a2 s
  | .tlwait a0 a1 a2 a3 => Sys2Proof.Machine.execTlwait a0 a1 a2 a3 s
  | .tlread a0 a1 a2 a3 => Sys2Proof.Machine.execTlread a0 a1 a2 a3 s
  | .tlnote a0 a1 => Sys2Proof.Machine.execTlnote a0 a1 s
  | .cvset a0 a1 a2 => Sys2Proof.Machine.execCvset a0 a1 a2 s
  | .mma a0 a1 a2 a3 a4 a5 a6 a7 => Sys2Proof.Machine.execMma a0 a1 a2 a3 a4 a5 a6 a7 s
  | .mzero a0 a1 a2 => Sys2Proof.Machine.execMzero a0 a1 a2 s
  | .mld a0 a1 a2 a3 a4 a5 => Sys2Proof.Machine.execMld a0 a1 a2 a3 a4 a5 s
  | .mdrain a0 a1 a2 a3 a4 a5 => Sys2Proof.Machine.execMdrain a0 a1 a2 a3 a4 a5 s
  | .mtile a0 a1 => Sys2Proof.Machine.execMtile a0 a1 s
  | .bar a0 => Sys2Proof.Machine.execBar a0 s
  | .gbar a0 => Sys2Proof.Machine.execGbar a0 s
  | .lock a0 a1 a2 => Sys2Proof.Machine.execLock a0 a1 a2 s
  | .unlock a0 a1 a2 => Sys2Proof.Machine.execUnlock a0 a1 a2 s
  | .phreg a0 a1 a2 a3 a4 => Sys2Proof.Machine.execPhreg a0 a1 a2 a3 a4 s
  | .phsig a0 a1 a2 a3 => Sys2Proof.Machine.execPhsig a0 a1 a2 a3 s
  | .phwait a0 a1 a2 a3 => Sys2Proof.Machine.execPhwait a0 a1 a2 a3 s
  | .phdrop a0 a1 a2 => Sys2Proof.Machine.execPhdrop a0 a1 a2 s
  | .trace a0 a1 a2 a3 => Sys2Proof.Machine.execTrace a0 a1 a2 a3 s
  | .traceWait a0 a1 a2 a3 a4 => Sys2Proof.Machine.execTraceWait a0 a1 a2 a3 a4 s
  | .rayld a0 a1 a2 a3 a4 => Sys2Proof.Machine.execRayld a0 a1 a2 a3 a4 s
  | .hitrpt a0 a1 a2 a3 => Sys2Proof.Machine.execHitrpt a0 a1 a2 a3 s
  | .tex a0 a1 a2 a3 a4 => Sys2Proof.Machine.execTex a0 a1 a2 a3 a4 s
  | .texn a0 a1 a2 a3 a4 => Sys2Proof.Machine.execTexn a0 a1 a2 a3 a4 s
  | .pxld a0 a1 a2 => Sys2Proof.Machine.execPxld a0 a1 a2 s
  | .pxst a0 a1 a2 a3 => Sys2Proof.Machine.execPxst a0 a1 a2 a3 s
  | .pxout a0 a1 a2 a3 => Sys2Proof.Machine.execPxout a0 a1 a2 a3 s
  | .pxoutDiscard a0 => Sys2Proof.Machine.execPxoutDiscard a0 s
  | .ipa a0 a1 a2 a3 => Sys2Proof.Machine.execIpa a0 a1 a2 a3 s
  | .emit a0 a1 a2 a3 => Sys2Proof.Machine.execEmit a0 a1 a2 a3 s
  | .next a0 => Sys2Proof.Machine.execNext a0 s
  | .nextp a0 a1 => Sys2Proof.Machine.execNextp a0 a1 s
  | .nextpN a0 a1 => Sys2Proof.Machine.execNextpN a0 a1 s
  | .call a0 => Sys2Proof.Machine.execCall a0 s
  | .nop a0 => Sys2Proof.Machine.execNop a0 s
  | .bkpt => Sys2Proof.Machine.execBkpt s
  | .trap a0 a1 => Sys2Proof.Machine.execTrap a0 a1 s
  | .tret => Sys2Proof.Machine.execTret s
  | .srd a0 a1 a2 => Sys2Proof.Machine.execSrd a0 a1 a2 s
  | .swr a0 a1 a2 => Sys2Proof.Machine.execSwr a0 a1 a2 s
  | .tstamp a0 a1 => Sys2Proof.Machine.execTstamp a0 a1 s
  | .sleep a0 a1 => Sys2Proof.Machine.execSleep a0 a1 s
  | .yield => Sys2Proof.Machine.execYield s
  | .exit a0 => Sys2Proof.Machine.execExit a0 s
  | .ret => Sys2Proof.Machine.execRet s
  | .nextx a0 => Sys2Proof.Machine.execNextx a0 s
  | .callx a0 => Sys2Proof.Machine.execCallx a0 s
  | .launch a0 a1 a2 => Sys2Proof.Machine.execLaunch a0 a1 a2 s
  | .joinc a0 => Sys2Proof.Machine.execJoinc a0 s
  | .quota a0 => Sys2Proof.Machine.execQuota a0 s
  | .setpri a0 a1 => Sys2Proof.Machine.execSetpri a0 a1 s
  | .rmat a0 a1 => Sys2Proof.Machine.execRmat a0 a1 s
  | .rdrop a0 a1 => Sys2Proof.Machine.execRdrop a0 a1 s
  | .callk a0 a1 => Sys2Proof.Machine.execCallk a0 a1 s
  | .queueNotify a0 a1 a2 a3 => Sys2Proof.Machine.execQueueNotify a0 a1 a2 a3 s
  | .slotRead a0 => Sys2Proof.Machine.execSlotRead a0 s
  | .sealReread a0 a1 => Sys2Proof.Machine.execSealReread a0 a1 s
  | .queueStarvation a0 a1 => Sys2Proof.Machine.execQueueStarvation a0 a1 s
  | .errCode a0 a1 a2 => Sys2Proof.Machine.execErrCode a0 a1 a2 s
  | .launchCmd a0 a1 a2 => Sys2Proof.Machine.execLaunchCmd a0 a1 a2 s
  | .graph a0 a1 a2 => Sys2Proof.Machine.execGraph a0 a1 a2 s
  | .copy a0 a1 a2 => Sys2Proof.Machine.execCopy a0 a1 a2 s
  | .wait a0 a1 a2 => Sys2Proof.Machine.execWait a0 a1 a2 s
  | .waitComplete a0 a1 a2 => Sys2Proof.Machine.execWaitComplete a0 a1 a2 s
  | .signal a0 a1 a2 => Sys2Proof.Machine.execSignal a0 a1 a2 s
  | .mapsync a0 a1 a2 => Sys2Proof.Machine.execMapsync a0 a1 a2 s
  | .checkpoint a0 a1 a2 => Sys2Proof.Machine.execCheckpoint a0 a1 a2 s
  | .migrate a0 a1 a2 => Sys2Proof.Machine.execMigrate a0 a1 a2 s
  | .qcreate a0 => Sys2Proof.Machine.execQcreate a0 s
  | .qdestroy a0 => Sys2Proof.Machine.execQdestroy a0 s
  | .qrestart a0 => Sys2Proof.Machine.execQrestart a0 s
  | .ctxcreate a0 => Sys2Proof.Machine.execCtxcreate a0 s
  | .ctxdestroy a0 => Sys2Proof.Machine.execCtxdestroy a0 s
  | .vacate a0 => Sys2Proof.Machine.execVacate a0 s
  | .coreoff a0 => Sys2Proof.Machine.execCoreoff a0 s
  | .coreon a0 => Sys2Proof.Machine.execCoreon a0 s
  | .tilemem a0 => Sys2Proof.Machine.execTilemem a0 s
  | .errring a0 => Sys2Proof.Machine.execErrring a0 s
  | .reclaim a0 => Sys2Proof.Machine.execReclaim a0 s
  | .granary a0 => Sys2Proof.Machine.execGranary a0 s
  | .undock a0 => Sys2Proof.Machine.execUndock a0 s
  | .linkretrain a0 => Sys2Proof.Machine.execLinkretrain a0 s
  | .clockcap a0 => Sys2Proof.Machine.execClockcap a0 s
  | .chanretrain a0 => Sys2Proof.Machine.execChanretrain a0 s
  | .powercap a0 => Sys2Proof.Machine.execPowercap a0 s
  | .attest a0 => Sys2Proof.Machine.execAttest a0 s
  | .reload a0 => Sys2Proof.Machine.execReload a0 s
  | .mbUnknownFunction a0 a1 => Sys2Proof.Machine.execMbUnknownFunction a0 a1 s
  | .mbstatWrite a0 a1 a2 => Sys2Proof.Machine.execMbstatWrite a0 a1 a2 s
  | .fwlock a0 a1 => Sys2Proof.Machine.execFwlock a0 a1 s
  | .firmwareVerify a0 => Sys2Proof.Machine.execFirmwareVerify a0 s
  | .deviceReset a0 => Sys2Proof.Machine.execDeviceReset a0 s
  | .dockstatClear a0 a1 => Sys2Proof.Machine.execDockstatClear a0 a1 s
  | .hctlWrite a0 a1 => Sys2Proof.Machine.execHctlWrite a0 a1 s
  | .ringtailWrite a0 a1 => Sys2Proof.Machine.execRingtailWrite a0 a1 s
  | .registerWrite a0 a1 a2 a3 => Sys2Proof.Machine.execRegisterWrite a0 a1 a2 a3 s
  | .bar0BadAccess a0 a1 a2 a3 => Sys2Proof.Machine.execBar0BadAccess a0 a1 a2 a3 s
  | .dockPresence a0 => Sys2Proof.Machine.execDockPresence a0 s
  | .linkTrained a0 a1 => Sys2Proof.Machine.execLinkTrained a0 a1 s
  | .farDieRunning a0 => Sys2Proof.Machine.execFarDieRunning a0 s
  | .dockSync a0 a1 => Sys2Proof.Machine.execDockSync a0 a1 s
  | .undockComplete a0 => Sys2Proof.Machine.execUndockComplete a0 s
  | .linkLoss a0 => Sys2Proof.Machine.execLinkLoss a0 s
  | .clockChange a0 a1 => Sys2Proof.Machine.execClockChange a0 a1 s
  | .telemetryUpdate a0 a1 a2 a3 => Sys2Proof.Machine.execTelemetryUpdate a0 a1 a2 a3 s
  | .thermalTrip a0 => Sys2Proof.Machine.execThermalTrip a0 s
  | .d3hotEntry a0 => Sys2Proof.Machine.execD3hotEntry a0 s
  | .teamPlace a0 a1 a2 => Sys2Proof.Machine.execTeamPlace a0 a1 a2 s
  | .partitionGrant a0 a1 a2 => Sys2Proof.Machine.execPartitionGrant a0 a1 a2 s
  | .nodeBatchLaunch a0 a1 a2 a3 a4 => Sys2Proof.Machine.execNodeBatchLaunch a0 a1 a2 a3 a4 s
  | .foldFormationStep a0 a1 => Sys2Proof.Machine.execFoldFormationStep a0 a1 s
  | .bundleAged a0 a1 a2 => Sys2Proof.Machine.execBundleAged a0 a1 a2 s
  | .sleepEnd a0 a1 => Sys2Proof.Machine.execSleepEnd a0 a1 s
  | .lockRetry a0 a1 => Sys2Proof.Machine.execLockRetry a0 a1 s
  | .quotaGrant a0 a1 => Sys2Proof.Machine.execQuotaGrant a0 a1 s
  | .registerDrop a0 a1 a2 => Sys2Proof.Machine.execRegisterDrop a0 a1 a2 s
  | .loadReply a0 a1 => Sys2Proof.Machine.execLoadReply a0 a1 s
  | .writeAccept a0 a1 => Sys2Proof.Machine.execWriteAccept a0 a1 s
  | .lateReply a0 a1 => Sys2Proof.Machine.execLateReply a0 a1 s
  | .translationWalk a0 a1 a2 a3 => Sys2Proof.Machine.execTranslationWalk a0 a1 a2 a3 s
  | .faultResolve a0 a1 a2 => Sys2Proof.Machine.execFaultResolve a0 a1 a2 s
  | .faultUnresolvable a0 => Sys2Proof.Machine.execFaultUnresolvable a0 s
  | .homeMigration a0 a1 a2 a3 a4 => Sys2Proof.Machine.execHomeMigration a0 a1 a2 a3 a4 s
  | .remoteMap a0 a1 a2 => Sys2Proof.Machine.execRemoteMap a0 a1 a2 s
  | .lineExpiry a0 a1 a2 => Sys2Proof.Machine.execLineExpiry a0 a1 a2 s
  | .ownerTimeout a0 => Sys2Proof.Machine.execOwnerTimeout a0 s
  | .lateOwnerAnswer a0 => Sys2Proof.Machine.execLateOwnerAnswer a0 s
  | .snoopAnswer a0 => Sys2Proof.Machine.execSnoopAnswer a0 s
  | .hostRequest a0 a1 a2 a3 a4 => Sys2Proof.Machine.execHostRequest a0 a1 a2 a3 a4 s
  | .trapEntry a0 a1 => Sys2Proof.Machine.execTrapEntry a0 a1 s
  | .trapLogCopy a0 => Sys2Proof.Machine.execTrapLogCopy a0 s
  | .switchOut a0 a1 => Sys2Proof.Machine.execSwitchOut a0 a1 s
  | .saveTimeout a0 => Sys2Proof.Machine.execSaveTimeout a0 s
  | .peerRoundStall a0 => Sys2Proof.Machine.execPeerRoundStall a0 s
  | .switchIn a0 a1 => Sys2Proof.Machine.execSwitchIn a0 a1 s
  | .copyComplete a0 => Sys2Proof.Machine.execCopyComplete a0 s
  | .mmaApply a0 => Sys2Proof.Machine.execMmaApply a0 s
  | .drainComplete a0 => Sys2Proof.Machine.execDrainComplete a0 s
  | .peerAddApply a0 => Sys2Proof.Machine.execPeerAddApply a0 s
  | .mtileStep a0 a1 => Sys2Proof.Machine.execMtileStep a0 a1 s
  | .emitAppend a0 => Sys2Proof.Machine.execEmitAppend a0 s
  | .tlnoteComplete a0 => Sys2Proof.Machine.execTlnoteComplete a0 s
  | .traceAccept a0 => Sys2Proof.Machine.execTraceAccept a0 s
  | .millDispatch a0 a1 a2 => Sys2Proof.Machine.execMillDispatch a0 a1 a2 s
  | .hitrptApply a0 => Sys2Proof.Machine.execHitrptApply a0 s
  | .passRecord a0 a1 => Sys2Proof.Machine.execPassRecord a0 a1 s
  | .primitiveRecord a0 a1 => Sys2Proof.Machine.execPrimitiveRecord a0 a1 s
  | .rasterise a0 a1 a2 => Sys2Proof.Machine.execRasterise a0 a1 a2 s
  | .blendApply a0 => Sys2Proof.Machine.execBlendApply a0 s
  | .refreshCheck a0 => Sys2Proof.Machine.execRefreshCheck a0 s
  | .checkpointInterval a0 a1 => Sys2Proof.Machine.execCheckpointInterval a0 a1 s
  | .commitRecord a0 a1 => Sys2Proof.Machine.execCommitRecord a0 a1 s
  | .checkpointAck a0 a1 => Sys2Proof.Machine.execCheckpointAck a0 a1 s
  | .migrationImage a0 a1 a2 => Sys2Proof.Machine.execMigrationImage a0 a1 a2 s
  | .migrationAck a0 a1 => Sys2Proof.Machine.execMigrationAck a0 a1 s
  | .doorbellOverrun a0 a1 => Sys2Proof.Machine.execDoorbellOverrun a0 a1 s

end Sys2Proof.Machine
end

