-- ==== Sys2Proof/Machine/Issue.lean ====
section
/-! DEFINITION. Fetch and issue (R25, R27, R30, R31, R54, R81, R342 to R347, R360): the unit at a thread's pc, the checks before it
executes, the choice of a bundle, and the instruction of a bundle carried through its threads. -/
namespace Sys2Proof.Machine

-- fetch (R143, R360)

/-- A halfword of code fetched by the issuing thread (R163, R334, R360): bound code translates with the execute kind through the bound
version; elsewhere the commons window stands before the tables (R143). A poisoned fetch raises POISON. -/
def fetchHalf (va : Nat) : Op Nat := do
  let s ← get
  let tm := s.curTeam
  let bad (cause code : Nat) : TrapRec := { cause := cause, code := code, addr := BitVec.ofNat 64 va }
  if !s.inCode tm va && inWindow va then
    match s.window tm.die tm.ctx va with
    | .error (.trap cause code) => trap (bad cause code)
    | .error (.park r) => stop (.park va .execute r none)
    | .ok (core, off, r) =>
      match r.kind with
      | .block .. => trap (bad causeAccess codeWindowKind)
      | _ => return natLE (Memory.read s.mem (commonsKey tm.die core off) 2)
  else
    match s.locate tm.die tm.core (s.ctxOf tm) tm.version va 2 .execute false with
    | (.error (.trap cause code), _) => trap (bad cause code)
    | (.error (.park r), _) => stop (.park va .execute r none)
    | (.ok l, s') => do
      set s'
      let (bs, err) ← readBytes l 2 false
      if err != 0 then trap (bad causePoison err)
      return natLE bs

/-- A word of code: one halfword or two by bit 0 (R334). -/
def fetchWord (va : Nat) : Op Nat := do
  let lo ← fetchHalf va
  if !bitAt lo 0 then return lo
  let hi ← fetchHalf (va + 2)
  return lo + 65536 * hi

/-- The unit at a pc (R347): a word, and after a PFX word the next one. -/
def fetchUnit : Op (Nat × Option Nat) := do
  let pc := (← get).curThread.pc.toNat
  let w ← fetchWord pc
  match decode w with
  | .ok (.pfx _) => do
    let n ← fetchWord (pc + 4)
    return (w, some n)
  | _ => return (w, none)

-- the checks of a unit (R27, R74, R343, R347, R364)

/-- What a fetched unit is: an instruction with the payload of its prefix, or the info code of its ILLEGAL (R347, R348, R364). -/
def unitOf (w : Nat) (next : Option Nat) : Except Nat (Option (Fin 33554432) × Instr) :=
  match decode w, next with
  | .error e, _ => .error e.code
  | .ok (.pfx payload), some n =>
    match decode n with
    | .error e => .error e.code
    | .ok i => match pfxCode payload.val i with
      | some c => .error c
      | none => .ok (some payload, i)
  | .ok i, _ => .ok (none, i)
/-- The bytes of a unit. -/
def unitSize (w : Nat) (next : Option Nat) : Nat := unitBytes w + (next.map unitBytes).getD 0

/-- Whether a word is a CLAUSE word (R342). -/
def isClause (w : Nat) : Bool := match decode w with | .ok (.clause ..) => true | _ => false
/-- Whether a unit breaks its clause (R27, R343): anything but a CLAUSE word outside a clause, or a unit that runs past the clause. -/
def Thread.clauseBad (t : Thread) (w size : Nat) : Bool :=
  !isClause w && (match t.clause with
    | none => true
    | some c => match c.left with | some n => decide (n < size / 2) | none => false)
/-- Whether a unit passes 4,096 bytes from the segment's entry (R27). -/
def Thread.pastLimit (t : Thread) (size : Nat) : Bool :=
  match t.entry with | some e => decide (4096 < (t.pc - e).toNat + size) | none => false
/-- Whether the WAIT mask of a fresh clause holds the thread (R345). -/
def Thread.waitHolds (t : Thread) : Bool :=
  match t.clause with
  | some c => c.fresh && (List.range 12).any fun n => flagAt c.wait n && (t.f[n]?.getD 0) != 0
  | none => false

/-- The instructions a prologue may use (R74); a 16-bit form stands with the instruction it is a form of (R337). -/
def prologueMay : Instr → Bool
  | .clause .. | .pfx _ | .nop _ | .add16 .. | .sub16 .. | .mul16 .. | .and16 .. | .or16 .. | .xor16 .. | .shl16 .. | .shrN16 .. | .mov16 ..
  | .ldi16 .. | .addi16 .. | .ld16 .. | .st16 .. | .add .. | .addc .. | .sub .. | .subb .. | .addImm .. | .mul .. | .mulhSS .. | .mulhNN ..
  | .mulhSN .. | .mad .. | .madw .. | .div .. | .and .. | .or .. | .xor .. | .andn .. | .shl .. | .shrN .. | .shrS .. | .rot .. | .shf ..
  | .imin .. | .imax .. | .popc .. | .clz .. | .brev .. | .iabs .. | .bfe .. | .bfi .. | .lea .. | .icmp .. | .plop .. | .mov .. | .sel ..
  | .ldi .. | .ldhi .. | .atom .. | .next _ | .nextp .. | .nextpN .. | .call _ | .ret | .exit _ => true
  | .ld _ size _ _ _ _ | .st _ size _ _ _ _ => size.val ≤ 5
  | _ => false

-- one unit of one thread

/-- The issuing thread's unit is executed: its prefix is latched, and the instruction has its meaning. -/
def State.execUnit (s : State) (pfx : Option (Fin 33554432)) (i : Instr) : Host.Outcome State Fault Refusal :=
  match pfx with
  | none => exec i s
  | some p => match exec (.pfx p) s with
    | .next s => exec i s
    | r => r

/-- The first check of R279 that stops a fetched unit before its decode checks: a late reply's trap, or WATCH on the fetch; a CLAUSE word
is the stopping point of neither (R342). The trap of a failed first read stops the thread at its entry (R481). -/
def State.preUnit (s : State) (w size : Nat) : Option State :=
  if isClause w && s.curThread.firstTrap.isNone then none
  else if s.curThread.pendingTrap.isSome then some (s.takePending s.cur).leaveIssue
  else match watchOp s.curThread.pc.toNat size .execute s with
    | .error r => some (s.onStop r)
    | .ok _ => none

/-- The issuing thread issues the unit at its pc (R27, R279, R343 to R347); a late reply stands before a fetch that fails. -/
def State.issueUnit (s : State) : Host.Outcome State Fault Refusal :=
  let s : State := { s with issue := s.issue.map fun (i : Issue) => { i with pfx := none } }
  match fetchUnit s with
  | .error r => .next (if s.curThread.pendingTrap.isSome then (s.takePending s.cur).leaveIssue else s.onStop r)
  | .ok ((w, next), s') =>
    let size := unitSize w next
    match s'.preUnit w size with
    | some s => .next s
    | none =>
      let t := s.curThread
      let illegalAt (c : Nat) : Host.Outcome State Fault Refusal := .next (s'.onStop (.trap { cause := causeIllegal, code := c }))
      if t.clauseBad w size || t.pastLimit size then illegalAt 0
      else match unitOf w next with
        | .error c => illegalAt c
        | .ok (pfx, i) =>
          if s.curTeam.prologue.isSome && !prologueMay i then illegalAt 0
          else if t.waitHolds && !isClause w then .next (s'.onStop .hold)
          else s'.execUnit pfx i

-- bundles (R30, R31, R81)

/-- A bundle's priority (R81): the highest of its threads' gangs; a save handler outranks every SETPRI value (R78). -/
def State.bundlePrio (s : State) (b : Bundle) : Nat :=
  (b.members.map fun id =>
    let tm := s.team id.1
    if (s.thread id).handler == .save then 8 else (tm.gang (tm.gangNo id.2)).prio).foldl max 0
/-- Of two bundles, the later-standing one goes first only when this holds (R81). -/
def State.bundleBefore (s : State) (a b : Bundle) : Bool :=
  if a.aged || b.aged then a.aged && (!b.aged || decide (a.since < b.since))
  else if s.bundlePrio a != s.bundlePrio b then decide (s.bundlePrio b < s.bundlePrio a)
  else decide (a.since < b.since)
/-- Whether a thread still stands in its bundle. -/
def State.inBundle (s : State) (id : ThreadId) : Bool := match s.thread? id with | some t => t.status == .bundled | none => false

/-- The group whose flag an instruction counts in: SETA false, SETB true (R344). -/
def flagGroup : Instr → Option Bool
  | .ld .. | .ld16 .. | .ldc .. | .atom .. | .div .. | .fsfu .. | .tex .. | .texn .. | .pxld .. | .rayld .. | .tlread .. | .mld .. => some false
  | .st .. | .st16 .. | .red .. | .pxst .. | .cpy .. | .trace .. | .traceWait .. | .mdrain .. | .emit .. | .pxout .. | .pxoutDiscard .. => some true
  | _ => none
/-- The s registers an instruction word names beside those of a pair it checks itself (R345, R424, R434). -/
def sNames : Instr → List Nat
  | .movs _ _ a _ => [a.val]
  | .smov _ d _ _ => [d.val]
  | .ldc _ d a w => pairR a.val ++ (List.range (2 ^ w.val)).map (d.val + ·)
  | _ => []
/-- Whether the backstop, or a full flag count, holds a thread at an instruction (R344, R345). -/
def Thread.backstop (t : Thread) (i : Instr) : Bool :=
  guardHolds t i
    && ((i.srcX ++ i.dstX).any (fun n => t.pending (t.home n)) || t.infl.any (fun f => f.sdsts.any fun d => (sNames i).contains d.1)
      || (match (flagGroup i).bind t.clauseFlag with | some n => 255 ≤ t.f[n] | none => false))
/-- Whether a thread is held at the unit at its pc (R81, R345): by the WAIT mask of its clause, or the backstop. A thread with a late trap to
take is not (R174). -/
def State.heldAt (s : State) (id : ThreadId) : Bool :=
  let t := s.thread id
  let tm := s.team id.1
  let s1 : State := { s with issue := some { die := tm.die, core := tm.core, quarter := 0, pc := t.pc, todo := [id] } }
  if t.pendingTrap.isSome || (t.infl.isEmpty && t.flagsClear) then false
  else match fetchUnit s1 with
    | .error _ => false
    | .ok ((w, next), _) =>
      !isClause w && (t.waitHolds || (match unitOf w next with | .ok (_, i) => t.backstop i | .error _ => false))
/-- Whether a bundle is ready: nothing holds any thread that stands in it (R81). -/
def State.bundleReady (s : State) (b : Bundle) : Bool := b.members.all fun id => !(s.inBundle id && s.heldAt id)

/-- The ready bundle of a quarter that issues next, by its place in the core's list (R81). -/
def State.pickBundle (s : State) (cs : CoreState) (q : Nat) : Option (Nat × Bundle) :=
  ((List.range cs.bundles.length).filterMap fun i => (cs.bundles[i]?).bind fun b =>
      if b.quarter == q && s.bundleReady b then some (i, b) else none).foldl
    (fun (m : Option (Nat × Bundle)) x => match m with | some y => if s.bundleBefore x.2 y.2 then some x else m | none => some x) none

/-- A selection round of a quarter is over: the threads it passed over by a YIELD return to the fold (R82, log 81). -/
def State.endYields (s : State) (die core q : Nat) : State :=
  let lq := Config.lanesPerQuarter (isDie die)
  { s with teams := s.teams.map fun tm => if tm.die == die && tm.core == core then
      { tm with threads := tm.threads.map fun t => if t.status == .yielding && t.lane / lq == q then { t with status := .fold s.steps } else t }
      else tm }

/-- A quarter makes a selection round and issues its next bundle (R81, R82): its threads run the instruction in ascending rank, then TID. -/
def State.beginIssue (s : State) (die core q : Nat) : State :=
  let cs := s.core die core
  let picked := s.pickBundle cs q
  let s := s.endYields die core q
  match picked with
  | none => s
  | some (i, b) =>
    let rank (id : ThreadId) : Nat := id.2 % (s.team id.1).width * 2 ^ 20 + id.2
    let ms := (b.members.filter s.inBundle).mergeSort fun x y => rank x ≤ rank y
    let s := s.setCore { cs with bundles := cs.bundles.eraseIdx i }
    match ms.head? with
    | none => s
    | some id =>
      { s with nextId := s.nextId + 1
               issue := some { die := die, core := core, quarter := q, pc := (s.thread id).pc, todo := ms, since := b.since, num := s.nextId, all := ms } }

/-- The issue is over: the threads that stay together are ready again (R81). -/
def State.endIssue (s : State) : State :=
  match s.issue with
  | none => s
  | some i =>
    let s : State := { s with issue := none }
    match i.done.filter s.inBundle with
    | [] => s
    | ms =>
      let cs := s.core i.die i.core
      s.setCore { cs with bundles := cs.bundles ++ [{ quarter := i.quarter, members := ms, since := s.steps }] }

/-- The next thread of the issue issues; one that has left the bundle meanwhile does not (R31). -/
def State.issueStep (s : State) : Host.Outcome State Fault Refusal :=
  match s.cur?.bind s.thread?, s.issue with
  | some t, some i => if t.status == .bundled && t.pc == i.pc then s.issueUnit else .next s.leaveIssue
  | _, _ => .next s.leaveIssue

-- threads that run alone

/-- A prologue that has retired more than 65,536 instructions stops its queue (R74). -/
def State.countPrologue (s : State) (id : ThreadId) (pc : DWord) : State :=
  match s.team? id.1 with
  | some tm =>
    match tm.prologue with
    | some (q, idx, n) =>
      if (s.thread id).pc == pc || tm.status == .ended || (s.thread id).clause.any (·.fresh) then s
      else if 65536 ≤ n then s.takeTrap id { cause := causeIllegal }
      else s.updTeam id.1 fun tm => { tm with prologue := some (q, idx, n + 1) }
    | none => s
  | none => s

/-- A thread executes alone: one that was blocked and tries its instruction again, or a prologue's (R55, R74). What it retires leaves it in
the fold at its next address (R29, R31). -/
def State.runSolo (s : State) (id : ThreadId) : Host.Outcome State Fault Refusal :=
  match s.thread? id with
  | none => .next s
  | some t =>
    let tm := s.team id.1
    let s1 := s.updThread id fun t => { t with status := .bundled }
    let s1 : State := { s1 with
      nextId := s.nextId + 1
      issue := some { die := tm.die, core := tm.core, quarter := 0, pc := t.pc, todo := [id], num := s.nextId } }
    match s1.issueUnit with
    | .next s2 =>
      let s2 := s2.updThread id fun t => if t.status == .bundled then { t with status := .fold s.steps } else t
      .next (({ s2 with issue := none } : State).countPrologue id t.pc)
    | r => r

end Sys2Proof.Machine
end

