-- ==== Sys2Proof/Machine/React.lean ====
section
/-! DEFINITION. What the machine does by itself between instructions (R56, R73, R77, R78, R172, R251, R256, R257, R267, R291, R304, R480), and what
may happen next: the operations of engines, front end and scheduler cores that stand open, of which a free value takes one. -/
namespace Sys2Proof.Machine

-- what follows at once

/-- The waits that one completion ends for every thread that stands in them (R470). -/
def Wait.shared : Wait → Bool
  | .coll .. | .bar | .gbar | .phsig | .phwait | .mma _ => true
  | _ => false
/-- A thread that waits for a completion goes on if it has come, else nothing happens (one that would stop otherwise tries by itself): a thread of the bundle that was issuing stays in it,
another enters the fold (R31, R470). -/
def State.releaseOne (s : State) (id : ThreadId) : State :=
  match s.runSolo id with
  | .next s' =>
    let t := s'.thread id
    if t.status == .fold s.steps && t.pc != (s.thread id).pc && t.handler == (s.thread id).handler then
      let stays : Bool := match s.issue with | some i => i.all.contains id | none => false
      { (if stays then s'.updThread id fun t => { t with status := .bundled } else s') with
        issue := s.issue.map fun i => if stays then { i with done := i.done ++ [id] } else i }
    else s
  | _ => s
/-- The threads that completions have released, all in one step (R470, log 15). -/
def State.releaseSync (s : State) : State :=
  (s.teams.flatMap fun tm => tm.threads.filterMap fun t => match t.status with
    | .blocked w => if w.shared then some (tm.uid, t.tid) else none
    | _ => none).foldl State.releaseOne s

/-- A save handler that has halted fails its switch (R291). -/
def State.failSwitches (s : State) : State :=
  s.teams.foldl (fun (s : State) tm =>
    match tm.status with
    | .leaving _ => match tm.threads.find? fun t => t.status == .halted && t.handler == .save with
      | some t => s.saveFail tm.uid t.trapCause.toNat
      | none => s
    | _ => s) s

/-- Core 1 vacates cores of a partition of its own accord, all but one at most (R59, R78). -/
def State.preempt (s : State) (die ctx : Nat) (cores : List Nat) : State :=
  s.updCtx die ctx fun c =>
    let named := (c.part.filter fun k => cores.contains k && !c.vacating.contains k).take ((c.part.filter fun k => !c.vacating.contains k).length - 1)
    { c with vacating := c.vacating ++ named }

/-- A vacated core leaves its partition once it holds no team and no dispatch (R78, R80, R264); a partition keeps a core until another is
granted (R59, log 84). -/
def State.finishVacate (s : State) : State :=
  s.ctxs.foldl (fun (s : State) c =>
    let free := c.vacating.filter fun k => (s.coreTeams c.die k).isEmpty && (s.millRays c.die c.num k 0 ++ s.millRays c.die c.num k 1).isEmpty
    let gone := if c.part.all free.contains then free.drop 1 else free
    if gone.isEmpty then s
    else
      let part := c.part.filter fun k => !gone.contains k
      match s.reassignTiles c part with
      | (true, s) => s.updCtx c.die c.num fun c => { c with part := part, vacating := c.vacating.filter fun k => !gone.contains k }
      | (false, s) => s) s

/-- Scheduler core 4 records once that a context's cohorts do not fit its partition (R77). -/
def State.noteStalls (s : State) : State :=
  s.ctxs.foldl (fun (s : State) c =>
    let stuck := s.grids.any fun g => g.die == c.die && g.ctx == c.num && (g.nextNum.isSome || s.teams.any fun t => t.grid == g.uid && s.wantsIn t)
      && decide (c.part.length * g.lrec.perCore (isDie c.die) < g.cohortSize)
    if stuck == c.stalled then s
    else
      let s := s.updCtx c.die c.num fun c => { c with stalled := stuck }
      if stuck then s.report c.die { kind := 2, ctx := c.num } else s) s

/-- Effects that found no room in a commit buffer take it as it empties (R305). -/
def State.refillHeld (s : State) : State :=
  { s with ctxs := s.ctxs.map fun (c : Context) => c.heldMore.foldl (fun (c : Context) h =>
      if { c with heldMore := [] : Context }.holds h && c.heldMore.head? == some h then { c with held := c.held ++ [h], heldMore := c.heldMore.drop 1 } else c) c }

/-- A checkpoint that is due begins once none is in progress (R304, R305): P must hold a granary. -/
def State.beginCheckpoints (s : State) : State :=
  let ready := s.present 0 && (match s.die? 0 with | some d => d.granary.isSome | none => false)
  { s with ctxs := s.ctxs.map fun (c : Context) =>
      if c.ckptWanted && c.ckpt == 0 && c.die != 0 && c.migrating.isNone && ready then { c with ckpt := 1, ckptWanted := false } else c }

/-- A checkpoint of a failed context ends its teams without a save, and its CHECKPOINT commands complete with status 6 (R282, R301). -/
def State.failCheckpoints (s : State) : State :=
  s.ctxs.foldl (fun (s : State) c =>
    if c.failed && c.ckpt == 1 then
      ((s.dropFailed c.die c.num).updCtx c.die c.num fun c => { c with ckpt := 0 }).finishAll c.die c.num .checkpointing fun _ => some 6
    else s) s

/-- Rays go on with what they wait for outside a mill (R257, R260). -/
def State.endRays (s : State) : State :=
  s.rays.foldl (fun (s : State) r => match s.ray? r.op with | some r => s.rayStep r | none => s) s

/-- The code versions that nothing is bound to and that are not current are freed (R360). -/
def State.freeVersions (s : State) : State :=
  { s with ctxs := s.ctxs.map fun (c : Context) =>
      let bound (v : Nat) : Bool := v == c.current
        || s.grids.any (fun g => g.die == c.die && g.ctx == c.num && g.version == v) || s.teams.any (fun t => t.die == c.die && t.ctx == c.num && t.version == v)
        || c.graph.any (·.version == v)
        || s.queues.any fun q => q.die == c.die && q.ctx == c.num && q.cmds.any fun d => match d.st with | some (.launching _ _ n _ _) => n == v | _ => false
      if c.versions.all fun v => bound v.num then c else { c with versions := c.versions.filter fun v => bound v.num } }

/-- Everything that follows at once from where the machine stands. -/
def State.react (s : State) : State :=
  let s := s.failSwitches.finishVacate.noteStalls.refillHeld.beginCheckpoints.failCheckpoints.sendHome.restartWaiting.ignoreCands.endRays.endTurns.appendPending.cleanDirs.dropScenes.dropOver.freeVersions
  (s.ctxs.foldl (fun (s : State) c => s.graphCheck c.die c.num) s).serveWaiting

-- what may happen next

/-- Something that may happen next: an operation, or one whose details a free value gives. -/
inductive Act where
  | op (i : Instr)
  /-- The blender and the rasteriser take a step, a head makes its check, and the steps of a checkpoint and of a migration (R266, R267, R273, R300, R304). -/
  | blend (n : Nat)
  | raster (die ctx tile : Nat)
  | refresh (head : Nat)
  /-- A head drives a pixel (R274). -/
  | scan (head : Nat)
  | interval (die ctx : Nat)
  | commit (die ctx : Nat)
  | acknowledge (die ctx : Nat)
  | arrive (die ctx : Nat)
  /-- A quarter issues its next bundle (R81). -/
  | issue (die core quarter : Nat)
  /-- A blocked thread tries its instruction again, or a prologue's thread goes on (R55, R74). -/
  | solo (id : ThreadId)
  /-- Placement on cores of the firmware's choice (R76, R52, R79). -/
  | place (die ctx : Nat)
  | batch (die ctx node : Nat)
  | moveIn (uid : Nat)
  /-- Grants of cores by core 1 (R59, R300). -/
  | grant (die ctx : Nat)
  | accept (die ctx : Nat)
  /-- The service of fault records by cores 3 and 5 (R164, R167). -/
  | resolve (die : Nat)
  | moveHome (die ctx va : Nat)
  /-- A held access is tried again when no fault record stands for its page (R168, R305, R480). -/
  | again (die ctx page : Nat)
  | relaunch (uid idx : Nat)
  /-- The directory evicts an entry for room; a host request that waits for an owner is tried again (R168). -/
  | evict (line : Nat)
  | host (op : Nat)
  /-- An uncorrectable error meets the bank of a multicast's receiver (R214). -/
  | bankError (op : Nat)
  /-- A timeline's write that waits is tried again (R205). -/
  | timeline (op : Nat)
  /-- Core 1 vacates cores of a partition of its own accord (R59, R78). -/
  | preempt (die ctx : Nat)
  /-- A soft error that is corrected, or one that is not (R172). -/
  | soft (die : Nat)
  | hard (die : Nat)
  /-- What core 6 does: a clock, and telemetry (R16, R332). -/
  | clock (die : Nat)
  | telemetry (die : Nat)
  /-- A message between scheduler cores is sent, or taken (R319); a reloaded core starts (R330); a function is put back into D0 (R313). -/
  | send (die sender receiver : Nat)
  | take (die sender receiver : Nat)
  | started (die : Nat)
  | wake (die : Nat)
  deriving DecidableEq, Repr

/-- Something for each thing that is so. -/
def optAct (b : Bool) (a : Act) : List Act := if b then [a] else []

/-- What may happen to a thread. -/
def threadActs (tm : Team) (t : Thread) : List Act :=
  let u := tm.uid
  (match t.status with
    | .blocked .exitHelper => []
    | .blocked .retry => [.op (.lockRetry u t.tid)]
    | .blocked (.mtile _) => [.op (.mtileStep u t.tid), .solo (u, t.tid)]
    | .blocked _ => [.solo (u, t.tid)]
    | .sleeping _ => [.op (.sleepEnd u t.tid)]
    | .yielding => [.issue tm.die tm.core (t.lane / Config.lanesPerQuarter (isDie tm.die))]
    | .stopping .. => [.op (.trapEntry u t.tid)]
    | .fold _ => optAct tm.prologue.isSome (.solo (u, t.tid))
    | _ => [])
  ++ optAct (t.infl.any fun f => !f.isWrite && f.op.isNone && f.late.isNone) (.op (.loadReply u t.tid))
  ++ optAct (t.infl.any fun f => f.isWrite && f.op.isNone && f.late.isNone) (.op (.writeAccept u t.tid))
  ++ optAct (t.infl.any fun f => f.op.isNone && f.late.isSome) (.op (.lateReply u t.tid))
  ++ (((List.range 64).filter fun n => regState (tm.quotaOf t.tid) n (t.cell n) == .kept).map fun n => .op (.registerDrop u t.tid n))

/-- What may happen to a team. -/
def State.teamActs (s : State) (tm : Team) : List Act :=
  let c := s.ctxOf tm
  tm.threads.flatMap (threadActs tm)
  ++ tm.quotaQ.map (fun g => .op (.quotaGrant tm.uid g))
  ++ ([0, 1, 2].filter (s.wantsOut c tm)).map (fun k => .op (.switchOut tm.uid k))
  ++ optAct (s.wantsIn tm) (.moveIn tm.uid)
  ++ optAct (tm.threads.any (·.handler == .save)) (.op (.saveTimeout tm.uid))
  ++ optAct (!tm.rounds.isEmpty) (.op (.peerRoundStall tm.uid))
  ++ optAct tm.prologue.isNone (.op (.foldFormationStep tm.die tm.core))

/-- What may happen on a core. -/
def coreActs (cs : CoreState) : List Act :=
  ((cs.bundles.map (·.quarter)).eraseDups.map fun q => .issue cs.die cs.num q)
  ++ ((List.range cs.bundles.length).map fun i => .op (.bundleAged cs.die cs.num i))
  ++ ((cs.l1.filter (!·.imm)).map fun l => .op (.lineExpiry cs.die cs.num l.key))

/-- What the engines may do. -/
def State.engineActs (s : State) : List Act :=
  (s.copies.map fun o => .op (.copyComplete o.op)) ++ ((s.copies.filter (·.mode == 3)).map fun o => .bankError o.op)
  ++ (s.hostReqs.map fun h => .host h.op) ++ (s.mmas.map fun o => .op (.mmaApply o.op))
  ++ (s.drains.map fun o => .op (match o.dest with | .chunks .. => .drainComplete o.op | .peer .. => .peerAddApply o.op))
  ++ (s.emits.map fun o => .op (.emitAppend o.op)) ++ (s.notes.map fun o => .op (.tlnoteComplete o.op))
  ++ (s.traces.map fun o => .op (.traceAccept o.op)) ++ (s.hits.map fun o => .op (.hitrptApply o.op))
  ++ (s.blends.map fun o => .blend o.op) ++ ((s.tlWrites.filter (·.held.isNone)).map fun o => .timeline o.op)
  ++ (s.gfx.flatMap fun g => g.tiles.map fun t => .raster g.die g.ctx (t.ty * ((g.pass.elim 0 (·.width) + 63) / 64) + t.tx))

/-- The operation that starts a command by its code (R65, R69). -/
def startOp (die q idx code : Nat) : Instr :=
  match code with
  | 1 => .launchCmd die q idx
  | 2 => .graph die q idx
  | 3 => .copy die q idx
  | 4 => .wait die q idx
  | 5 => .signal die q idx
  | 6 => .mapsync die q idx
  | 7 => .checkpoint die q idx
  | 8 => .migrate die q idx
  | _ => .errCode die q idx


/-- What may happen in a queue. -/
def State.queueActs (s : State) (q : Queue) : List Act :=
  let retry (a : Nat) : List Act := optAct (!s.faultOn q.die q.ctx (a / 8192)) (.again q.die q.ctx (a / 8192))
  (match q.held with | some (a, _) => retry a | none => []) ++ (match q.tlHeld with | some a => retry a | none => [])
  ++ optAct (s.canRead q) (.op (.sealReread q.die q.num)) ++ optAct (s.canRead q) (.op (.queueStarvation q.die q.num))
  ++ q.cmds.flatMap fun c =>
    match c.st with
    | none => [.op (startOp q.die q.num c.idx (natAt c.slot 0 1))]
    | some (.waiting ..) => [.op (.waitComplete q.die q.num c.idx)]
    | some (.finishing _ (some a)) => retry a
    | some (.launching _ _ _ none _) =>
      optAct (q.held.isNone && q.stopped.isNone && !s.teams.any fun t => match t.prologue with | some (u, i, _) => u == q.uid && i == c.idx | none => false)
        (.relaunch q.uid c.idx)
    | _ => []

/-- What may happen in a context. -/
def State.ctxActs (s : State) (c : Context) : List Act :=
  let d := c.die
  let n := c.num
  optAct (s.nextGrid d n).isSome (.place d n)
  ++ (match c.graph with
    | some g => ((List.range g.nodes.length).map fun k => .batch d n k) ++ [.op (.passRecord d n), .op (.primitiveRecord d n)]
    | none => [])
  ++ (if s.rays.any fun r => r.die == d && r.ctx == n then c.part.map fun k => .op (.millDispatch d n k) else [])
  ++ [.grant d n] ++ optAct c.migrating.isNone (.preempt d n) ++ optAct (c.ckpt == 1) (.commit d n) ++ optAct (c.ckpt == 2) (.acknowledge d n)
  ++ optAct c.checkpoint (.interval d n) ++ optAct c.migrating.isSome (.accept d n)
  ++ optAct c.sent.isSome (.arrive d n)

/-- The functions of a scheduler core that may answer its request (R321). -/
def mailOps (die core : Nat) : List Instr :=
  .mbUnknownFunction die core ::
    (match core with
    | 0 => [.qcreate die, .qdestroy die, .qrestart die]
    | 1 => [.ctxcreate die, .ctxdestroy die, .vacate die, .coreoff die, .coreon die]
    | 2 => [.tilemem die]
    | 4 => [.errring die, .reclaim die]
    | 5 => [.granary die, .undock die, .linkretrain die]
    | 6 => [.clockcap die, .chanretrain die, .powercap die]
    | 7 => [.attest die, .reload die]
    | _ => [])

/-- What may happen on a die. -/
def dieActs (d : Die) : List Act :=
  [.op (.slotRead d.code), .telemetry d.code, .clock d.code, .soft d.code, .hard d.code]
  ++ ((List.range 8).flatMap fun a => (List.range 8).map fun b => .send d.code a b) ++ (d.fifos.filter (!·.2.2.isEmpty)).map (fun f => .take d.code f.1 f.2.1)
  ++ optAct d.stopped.isSome (.started d.code) ++ optAct d.d3hot (.wake d.code)
  ++ ((List.range 8).flatMap fun k => if (d.mailbox k).busy && d.serves then (mailOps d.code k).map .op else [])
  ++ optAct (d.boot == .verifying) (.op (.firmwareVerify d.code))
  ++ (match d.dock with
    | .booting => [.op (.farDieRunning d.code)]
    | .syncing => [.op (.dockSync d.code (Config.generation ((downstream d.code).getD 0)))]
    | .undocking => [.op (.undockComplete d.code)]
    | _ => [])
  ++ optAct (!d.traps.isEmpty) (.op (.trapLogCopy d.code))
  ++ (match d.faults with
    | f :: _ => .op (.faultUnresolvable d.code) :: optAct (f.reason != reasonHome) (.resolve d.code)
      ++ (if f.reason == reasonHome then [.op (.remoteMap d.code f.ctx (BitVec.ofNat 64 f.va)), .moveHome d.code f.ctx f.va] else [])
    | [] => [])
  ++ ((List.range d.heads.length).flatMap fun h => [.refresh h, .scan h])

/-- What may happen to a pair-coherent line. -/
def dirActs (e : DirEntry) : List Act :=
  .evict e.key :: optAct e.snoop.isSome (.op (.snoopAnswer e.key)) ++ optAct e.snoop.isSome (.op (.ownerTimeout e.key))
  ++ optAct e.oldOwner.isSome (.op (.lateOwnerAnswer e.key))

/-- The scheduler core, with its die, that does something of its own accord (R319). -/
def Act.server : Act → Option (Nat × Nat)
  | .place die _ | .grant die _ | .preempt die _ => some (die, 1)
  | .batch die _ _ => some (die, 2)
  | .resolve die => some (die, 3)
  | .interval die _ | .commit die _ | .acknowledge die _ | .accept die _ | .arrive die _ | .moveHome die _ _ => some (die, 5)
  | .clock die | .telemetry die => some (die, 6)
  | .op i => (match i with
    | .slotRead die => some (die, 0)
    | .passRecord die _ | .primitiveRecord die _ => some (die, 2)
    | .faultUnresolvable die => some (die, 3)
    | .trapLogCopy die => some (die, 4)
    | .remoteMap die .. | .farDieRunning die | .dockSync die _ | .undockComplete die => some (die, 5)
    | _ => none)
  | _ => none
/-- Whether something may happen while a core is stopped for its new firmware: what that core does pauses (R330). -/
def State.unpaused (s : State) (a : Act) : Bool :=
  match a.server with
  | some (die, core) => (s.die? die).all (·.runs core)
  | none => true

/-- All that may happen next while every scheduler core runs. -/
def State.everyAct (s : State) : List Act :=
  s.teams.flatMap s.teamActs ++ s.cores.flatMap coreActs ++ s.engineActs ++ s.queues.flatMap s.queueActs ++ s.ctxs.flatMap s.ctxActs
  ++ (s.dies.filter fun (d : Die) => d.present && !d.tripped).flatMap dieActs ++ s.dirs.flatMap dirActs
  ++ ((s.dies.filter fun (d : Die) => !d.present && d.boot == .verifying).map fun (d : Die) => .op (.firmwareVerify d.code))
  ++ (s.grids.filterMap fun g => g.held.bind fun a =>
      if s.faultOn g.die g.ctx (a / 8192) then none else some (.again g.die g.ctx (a / 8192)))
/-- All that may happen next. -/
def State.acts (s : State) : List Act := s.everyAct.filter s.unpaused

-- one of them

/-- The k-th digit of a draw, below a bound. -/
def digit (d k n : Nat) : Nat := d / 2 ^ (64 * k) % 2 ^ 64 % max 1 n
/-- Cores of a partition, as a draw says. -/
def coreChoice (c : Context) (d n : Nat) : List Nat :=
  let cs := c.part.filter c.takes
  (List.range n).filterMap fun k => cs[digit d k cs.length]?
/-- Cores of a die, as a draw says. -/
def coreSubset (die d : Nat) : List Nat := (List.range (Config.cores (isDie die))).filter (flagAt d ·)

/-- A soft error corrected in a block of a die (R172, R324): every 65,536 a record of kind 6. -/
def State.softError (s : State) (die block : Nat) : State :=
  let n := (match s.die? die with | some d => ((d.soft.find? (·.1 == block)).map (·.2)).getD 0 | none => 0) + 1
  let s := s.updDie die fun d => { d with soft := (block, n % 65536) :: d.soft.filter (·.1 != block) }
  if n == 65536 then s.report die { kind := 6 } else s

/-- Something that may happen happens. -/
def State.act (s : State) (a : Act) : Host.Outcome State Fault Refusal :=
  let (d, s') := s.draw
  match a with
  | .op i => exec i s
  | .blend n => execBlendApply n s
  | .raster die ctx tile => execRasterise die ctx tile s
  | .refresh head => execRefreshCheck head s
  | .scan head => .next (s'.scanPixel head (digit d 0 65536) (digit d 1 65536))
  | .interval die ctx => execCheckpointInterval die ctx s
  | .commit die ctx => execCommitRecord die ctx s
  | .acknowledge die ctx => execCheckpointAck die ctx s
  | .arrive die ctx => execMigrationAck die ctx s
  | .issue die core q => .next (s.beginIssue die core q)
  | .solo id => s.runSolo id
  | .place die ctx =>
    (match s.ctx? die ctx, s.nextGrid die ctx with
    | some c, some g => execTeamPlace die ctx (if g.frags.isEmpty then coreChoice c d g.cohortSize else ((s.fragTile g).map (·.owner)).toList) s'
    | _, _ => .next s)
  | .batch die ctx node =>
    (match s.ctx? die ctx with
    | some c => execNodeBatchLaunch die ctx node (1 + digit d 1 1024) ((coreChoice c d 1).headD 0) s'
    | none => .next s)
  | .moveIn uid =>
    (match s.team? uid with
    | some tm => execSwitchIn uid ((coreChoice (s.ctxOf tm) d 1).headD 0) s'
    | none => .next s)
  | .grant die ctx => execPartitionGrant die ctx (coreSubset die d) s'
  | .accept die ctx =>
    (match (s.ctx? die ctx).bind (·.migrating) with
    | some t => execMigrationImage die ctx (coreSubset t d) s'
    | none => .next s)
  | .resolve die => execFaultResolve die (BitVec.ofNat 64 d) (BitVec.ofNat 64 (d / 2 ^ 64)) s'
  | .moveHome die ctx va =>
    execHomeMigration die ctx (BitVec.ofNat 64 va) (digit d 0 3) (digit d 1 (Config.memoryBytes (isDie (digit d 0 3)) / 8192) * 8192) s'
  | .again die ctx page => .next (s.release die ctx page)
  | .relaunch uid idx => .next (s.tryLaunch uid idx)
  | .evict line => .next (s.evictDir line)
  | .host op => .next ((s.hostReqs.find? (·.op == op)).elim s s.hostTry)
  | .bankError op =>
    .next (s'.updCopy op fun o => { o with bank := some (digit d 0 o.receivers.length, o.walk + digit d 1 (2 ^ 32)) })
  | .timeline op => .next ((s.tlWrites.find? (·.op == op)).elim s s.tlTry)
  | .preempt die ctx => .next (s'.preempt die ctx (coreSubset die d))
  | .soft die => .next (s'.softError die (digit d 0 4))
  | .hard die =>
    let isD := isDie die
    let k := if digit d 1 2 == 0 then physKey die (digit d 0 (Config.memoryBytes isD / 64) * 64)
      else commonsKey die (digit d 2 (Config.cores isD)) (digit d 0 (Config.sliceBytes isD / 64) * 64)
    .next { s' with poison := if s'.poison.contains k then s'.poison else k :: s'.poison }
  | .clock die => execClockChange die (((s.die? die).elim 400 (·.clock)) + (if digit d 0 2 == 0 then 50 else 0) - (if digit d 0 2 == 0 then 0 else 50)) s'
  | .send die a b => .next (s'.updDie die (·.sendMsg a b (bytesLE 64 d)))
  | .take die a b => .next (s.updDie die (·.takeMsg a b))
  | .started die => .next (s.reloadEnd die)
  | .wake die => .next (s.d0Entry die)
  | .telemetry die => execTelemetryUpdate die (digit d 0 (2 ^ 32)) (digit d 1 (2 ^ 16)) (digit d 2 8) s'

/-- One of all that may happen, as a free value says. -/
def State.actStep (s : State) : Host.Outcome State Fault Refusal :=
  let (d, s') := s.draw
  match s.acts[d % max 1 s.acts.length]? with
  | some a => s'.act a
  | none => .next s'

/-- Time passes (R286): a step takes a number of nanoseconds that the manual does not give. -/
def State.tick (s : State) : State := { s with time := s.time + Config.tick s.steps, steps := s.steps + 1 }
/-- Between instructions: the threads that completions release, the issue that is over, what follows at once, and one of all that may
happen. -/
def State.between (s : State) : Host.Outcome State Fault Refusal := s.releaseSync.endIssue.react.actStep
/-- An input or operation to come, taken before anything else; a word of code is none, for code comes from memory. -/
def State.input (s : State) (i : Instr) : Host.Outcome State Fault Refusal := if (encode i).isSome then .next s else exec i s

end Sys2Proof.Machine
end

