-- ==== Sys2Proof/Machine/Load.lean ====
section
/-! DEFINITION. How an instruction is put where the machine fetches next (log 7): a program reaches the machine through the host's load of
memory, a context, a queue and a LAUNCH; `placed` stands for all of that. -/
namespace Sys2Proof.Machine

/-- The virtual and physical address where a placed instruction stands. -/
def placedAt : Nat := 0x10000
/-- The context of a placed instruction: its code version holds one page. -/
def placedCtx : Context :=
  { die := 0, num := 1, root := 0x40000, trapEntry := placedAt + 2048, part := [0], nextGrid := 1
    versions := [{ num := 1, ranges := [(placedAt, 4096)], entries := [{ addr := placedAt, kind := .kernel }] }], codeBase := placedAt }
/-- The leaf through which it is fetched: valid, R, X, accessed, on die 0. -/
def placedLeaf : TlbEntry :=
  { ctx := 1, version := 1, page := placedAt / 8192, level := 0, d0 := BitVec.ofNat 64 (1 + 2 + 4 + 16 + 64 + placedAt), d1 := 0 }
/-- The grid of one team of one thread. -/
def placedGrid (uid : Nat) : Grid :=
  { uid := uid, die := 0, ctx := 1, num := 0, depth := 1, nextTeam := 1, version := 1
    lrec := { entry := placedAt, widthCode := 4, gridsync := true, quads := true, recipes := 31, tiles := 8 } }
/-- Its thread: every register holds 0; at a word that is no CLAUSE, it stands in an open clause. -/
def placedThread (clause : Bool) : Thread :=
  { tid := 0, pc := BitVec.ofNat 64 placedAt, status := .bundled
    x := Vector.replicate 64 { dead := false }
    clause := if clause then none else some { left := none, fresh := false } }
/-- Its team. -/
def placedTeam (uid grid : Nat) (clause : Bool) : Team :=
  { uid := uid, die := 0, ctx := 1, core := 0, grid := grid, num := 0, declared := 64, quads := true, threads := [placedThread clause]
    gangs := [{ quota := 64 }], tiles := List.replicate 8 {}, quota0 := 64, recipeMax := 31, version := 1 }

/-- The machine with an instruction's bits at the pc of a thread whose bundle is issuing (log 7). -/
def State.placed (s : State) (w : Nat) : State :=
  let uid := s.nextId
  let cs := s.core 0 0
  let s := s.setCore { cs with tlb := placedLeaf :: cs.tlb }
  { s with
    ctxs := placedCtx :: s.ctxs.filter fun c => !(c.die == 0 && c.num == 1)
    grids := s.grids ++ [placedGrid (uid + 1)]
    teams := s.teams ++ [placedTeam uid (uid + 1) (isClause w)]
    mem := Memory.write s.mem (physKey 0 placedAt) (bytesLE 8 w)
    nextId := uid + 3
    agenda := []
    issue := some { die := 0, core := 0, quarter := 0, pc := BitVec.ofNat 64 placedAt, todo := [(uid, 0)], num := uid + 2 } }

end Sys2Proof.Machine
end

