-- ==== Sys2Proof/Machine/Step.lean ====
section
/-! DEFINITION. One step of the machine. -/
namespace Sys2Proof.Machine

/-- One step: the next input or operation to come; else one unit of the instruction that is issuing, for its next thread; else one of all
that may happen. -/
def step (s : State) : Host.Outcome State Fault Refusal :=
  match s.agenda with
  | i :: rest => ({ s.tick with agenda := rest } : State).input i
  | [] => if s.cur?.isSome then s.tick.issueStep else s.tick.between

/-- The state with an instruction placed where `step` fetches next; its bits above `nbits` are 0. -/
def State.withFetchWord (s : State) (nbits w : Nat) : State := s.placed (w % 2 ^ nbits)

end Sys2Proof.Machine
end

