-- ==== Sys2Proof/Safety.lean ====
section
/-! DEFINITION. What counts as a safe machine: a step that does not stop, and the invariant that every step keeps; and the words in which
the statements speak of the issuing thread: which registers it can read and write, and what retiring an instruction leaves. -/
namespace Sys2Proof.Machine

/-- A step answers a next state. -/
def goesOn : Host.Outcome State Fault Refusal → Bool
  | .next _ => true
  | _ => false

/-- Memory keeps its canonical form: keys strictly rising, no byte that an unlisted address reads as. -/
def State.MemOk (s : State) : Prop := Memory.wf s.mem = true

/-- No register of the thread carries a recipe's tag (R97). -/
def Thread.Plain (t : Thread) : Prop := t.x.toList.all (·.tag == 0) = true

/-- The thread `t` of team `tm` is the one that issues; it uses its team's mode registers, and no macro instruction of the code it runs, a
handler or not, is stopped half-way. -/
structure Issuing (s : State) (id : ThreadId) (tm : Team) (t : Thread) : Prop where
  cur : s.cur? = some id
  team : s.team? id.1 = some tm
  thread : tm.threads[id.2]? = some t
  tid : t.tid = id.2
  fmode : t.fmode = tm.fmode
  mfmt : t.mfmt = tm.mfmt
  mstep : t.progress.msb = false

/-- The same, and none of its registers is tagged. -/
structure Ready (s : State) (id : ThreadId) (tm : Team) (t : Thread) : Prop extends Issuing s id tm t where
  plain : t.Plain

/-- Register number n names a k register of the thread (R105). -/
def Thread.isK (t : Thread) (n : Nat) : Bool := t.inHandler && decide (56 ≤ n)
/-- The value of register n as the thread reads it (R96, R105). -/
def Thread.reg (t : Thread) (n : Nat) : Word := if t.isK n then t.kreg (n - 56) else (t.cell n).val
/-- Register n can be read under a quota: a k register, or one that is live (R96); no write of it is pending (R345). -/
def Thread.Reads (t : Thread) (quota n : Nat) : Prop :=
  n < 64 ∧ t.pending (t.home n) = false ∧ (t.isK n = true ∨ (n < quota ∧ (t.cell n).dead = false))
/-- Register n can be read and carries no recipe, whatever the other registers do. -/
def Thread.ReadsPlain (t : Thread) (quota n : Nat) : Prop := t.Reads quota n ∧ (t.cell n).tag = 0
/-- Register n can be written under a quota: a k register, or one with backing (R96); no write of it is pending (R345). -/
def Thread.Writes (t : Thread) (quota n : Nat) : Prop :=
  n < 64 ∧ t.pending (t.home n) = false ∧ (t.isK n = true ∨ n < quota)

/-- Registers written, in order: each holds its value and is live, without a recipe (R96). -/
def Thread.gets (t : Thread) : List (Nat × Word) → Thread
  | [] => t
  | (n, w) :: r => (if t.isK n then t.setK (n - 56) w else t.setCell n { val := w, dead := false }).gets r
/-- Registers marked as read for the last time: each is dead and keeps its slot's value (R103). -/
def Thread.killed (t : Thread) : List Nat → Thread
  | [] => t
  | n :: r => (t.setCell n { t.cell n with dead := true, tag := 0, stored := false }).killed r
/-- The registers of a mark that it touches: no destination, and no k register (R103, R105). -/
def Thread.marked (t : Thread) (ms dsts : List Nat) : List Nat := ms.filter fun n => !dsts.contains n && !t.isK n

/-- Registers awaiting the values of an access: live and untagged, their slots as they were (R96, R344). -/
def Thread.readied (t : Thread) (homes : List Nat) : Thread :=
  homes.foldl (fun (t : Thread) n => t.setCell n { t.cell n with dead := false, tag := 0, stored := false }) t
/-- The homes of registers in the backing store: k registers have none there (R105). -/
def Thread.homes (t : Thread) (ns : List Nat) : List Nat := (ns.map t.home).filter (· < 64)
/-- An access begun: counted by the flag of the clause for its group, its values to come (R344). -/
def Thread.flies (t : Thread) (isWrite : Bool) (vals : List (Nat × Word)) (late : Option TrapRec) (op : Option Nat) (step : Nat) : Thread :=
  { t.addFlag (t.clauseFlag isWrite) true with
    infl := t.infl ++ [{ isWrite := isWrite, flag := t.clauseFlag isWrite, dsts := vals.map fun (n, w) => (t.home n, w), late := late
                         issued := step, op := op }] }
/-- The flag of the clause for a group counts below 255, so that one more access may begin (R344). -/
def Thread.FlagRoom (t : Thread) (isWrite : Bool) : Prop := ∀ n, t.clauseFlag isWrite = some n → t.f[n] < 255

/-- FSTAT bits set, none cleared (R116). -/
def Thread.raises (t : Thread) (fl : Nat) : Thread := { t with fstat := stickyFlags t.fstat fl }

/-- The issuing thread changes as `F` says, passes its instruction of `n` bytes, and stays in its bundle (R29, R344). -/
def State.passes (s : State) (id : ThreadId) (n : Nat) (F : Thread → Thread) : State :=
  (s.updThread id fun t => (F t).advance n).stayIssue

/-- The issuing thread changes as `F` says and enters the fold at an address (R29). -/
def State.jumps (s : State) (id : ThreadId) (pc : DWord) (F : Thread → Thread) : State :=
  (s.updThread id fun t => (F t).toFold pc s.steps).leaveIssue

end Sys2Proof.Machine
end

