-- ==== Sys2Proof/Certificates/Slice0/Obligations.lean ====
section
/-! DEFINITION. The statements for the provers, and the tables they speak through: for each lane instruction the registers it reads, marks and
writes, and the arithmetic of its result, written from the entries of 15_ref_a_f.md to 17_ref_q_y.md. -/
namespace Sys2Proof.Machine

-- the tables of lane instructions

/-- What an entry of the instruction reference says of a lane instruction: its guard, the registers it reads in order (R379), those its L
bit marks (R103), those it writes, its K bit (R97), whether it takes a float prefix (R348), and the words and FSTAT bits it gives, from the
registers' values, the s registers, and FTZ with the modifiers of its prefix. -/
structure LaneRow where
  guard : Nat := 0
  srcs : List Nat
  marks : List Nat := []
  dsts : List Nat
  k : Bool := false
  float : Bool := false
  out : (Nat → Word) → Vector Word 32 → Num.FMods → List Word × Nat

/-- A natural number as a word, modulo 2^32. -/
def wd (n : Nat) : Word := BitVec.ofNat 32 n
/-- An integer as a word, modulo 2^32. -/
def iw (n : Int) : Word := BitVec.ofInt 32 n
/-- A natural number as a pair of words, low first, modulo 2^64 (R6). -/
def pairWd (n : Nat) : List Word := [wd n, wd (n / 2 ^ 32)]
/-- An integer as a pair of words, low first, modulo 2^64 (R6). -/
def pairIw (n : Int) : List Word := [iw n, iw (n / 2 ^ 32)]
/-- The natural value of a pair of registers (R6). -/
def pairNat (R : Nat → Word) (n : Nat) : Nat := (R n).toNat + 2 ^ 32 * (R (n + 1)).toNat
/-- One word that no flag goes with. -/
def gives (w : Word) : List Word × Nat := ([w], 0)
/-- A mark on one register by the L bit. -/
def lastRead (l : Bool) (n : XReg) : List Nat := if l then [n.val] else []
/-- A mark on a pair. -/
def lastPair (l : Bool) (n : Nat) : List Nat := if l then [n, n + 1] else []

/-- A three-register row with one result (R339). -/
def row3 (p : PReg) (d a b : XReg) (l k : Bool) (f : Word → Word → Word) : LaneRow :=
  { guard := p.val, srcs := [a.val, b.val], marks := lastRead l a, dsts := [d.val], k := k, out := fun R _ _ => gives (f (R a.val) (R b.val)) }
/-- A row with one source (R388). -/
def row2 (p : PReg) (d a : XReg) (l k : Bool) (f : Word → Word) : LaneRow :=
  { guard := p.val, srcs := [a.val], marks := lastRead l a, dsts := [d.val], k := k, out := fun R _ _ => gives (f (R a.val)) }
/-- A row of a 16-bit form: xd and xs, the mark on s, no guard (R103, R337). -/
def row16 (l : Bool) (s d : YReg) (f : Word → Word → Word) : LaneRow :=
  { srcs := [d.val, s.val], marks := if l then [s.val] else [], dsts := [d.val], out := fun R _ _ => gives (f (R d.val) (R s.val)) }
/-- A row of a 16-bit form with an immediate (R337). -/
def rowImm16 (d : YReg) (f : Word → Word) : LaneRow :=
  { srcs := [d.val], dsts := [d.val], out := fun R _ _ => gives (f (R d.val)) }
/-- A 5-bit immediate as a signed number (R337). -/
def imm5 (i : Fin 32) : Int := if i.val < 16 then i.val else (i.val : Int) - 32

/-- The 16-bit forms that are no memory access and no float operation (R337). -/
def shortRow : Instr → Option LaneRow
  | .add16 l s d => some (row16 l s d fun a b => wd (a.toNat + b.toNat))
  | .sub16 l s d => some (row16 l s d fun a b => iw (a.toNat - b.toNat))
  | .mul16 l s d => some (row16 l s d fun a b => wd (a.toNat * b.toNat))
  | .and16 l s d => some (row16 l s d fun a b => wd (a.toNat &&& b.toNat))
  | .or16 l s d => some (row16 l s d fun a b => wd (a.toNat ||| b.toNat))
  | .xor16 l s d => some (row16 l s d fun a b => wd (a.toNat ^^^ b.toNat))
  | .shl16 i d => some (rowImm16 d fun a => wd (a.toNat * 2 ^ i.val))
  | .shrN16 i d => some (rowImm16 d fun a => wd (a.toNat / 2 ^ i.val))
  | .mov16 l s d => some { srcs := [s.val], marks := if l then [s.val] else [], dsts := [d.val], out := fun R _ _ => gives (R s.val) }
  | .ldi16 i d => some { srcs := [], dsts := [d.val], out := fun _ _ _ => gives (iw (imm5 i)) }
  | .addi16 i d => some (rowImm16 d fun a => iw (a.toNat + imm5 i))
  | _ => none

/-- A 9-bit immediate as a signed number (R339). -/
def imm9 (i : Fin 512) : Int := if i.val < 256 then i.val else (i.val : Int) - 512

/-- The additions, subtractions and multiplications (R381, R428, R436). -/
def arithRow : Instr → Option LaneRow
  | .add p d a b l k => some (row3 p d a b l k fun x y => wd (x.toNat + y.toNat))
  | .sub p d a b l k => some (row3 p d a b l k fun x y => iw (x.toNat - y.toNat))
  | .addc p d a b l k => some { guard := p.val, srcs := [a.val, a.val + 1, b.val, b.val + 1], marks := lastPair l a.val
                                dsts := [d.val, d.val + 1], k := k, out := fun R _ _ => (pairWd (pairNat R a.val + pairNat R b.val), 0) }
  | .subb p d a b l k => some { guard := p.val, srcs := [a.val, a.val + 1, b.val, b.val + 1], marks := lastPair l a.val
                                dsts := [d.val, d.val + 1], k := k, out := fun R _ _ => (pairIw (pairNat R a.val - pairNat R b.val), 0) }
  | .addImm p d a imm k => some (row2 p d a false k fun x => iw (x.toNat + imm9 imm))
  | .mul p d a b l k => some (row3 p d a b l k fun x y => wd (x.toNat * y.toNat))
  | .mulhSS p d a b l k => some (row3 p d a b l k fun x y => iw (x.toInt * y.toInt / 2 ^ 32))
  | .mulhNN p d a b l k => some (row3 p d a b l k fun x y => wd (x.toNat * y.toNat / 2 ^ 32))
  | .mulhSN p d a b l k => some (row3 p d a b l k fun x y => iw (x.toInt * y.toNat / 2 ^ 32))
  | .mad p d a b c l k => some { guard := p.val, srcs := [a.val, b.val, c.val], marks := if l then [c.val] else [], dsts := [d.val], k := k
                                 out := fun R _ _ => gives (wd ((R a.val).toNat * (R b.val).toNat + (R c.val).toNat)) }
  | .madw p d a b c l k => some { guard := p.val, srcs := [a.val, b.val, c.val, c.val + 1], marks := lastPair l c.val
                                  dsts := [d.val, d.val + 1], k := k
                                  out := fun R _ _ => (pairWd ((R a.val).toNat * (R b.val).toNat + pairNat R c.val), 0) }
  | _ => none

/-- The number of one bits among the lowest n. -/
def onesBelow (a : Word) : Nat → Nat
  | 0 => 0
  | n + 1 => onesBelow a n + (if a.getLsbD n then 1 else 0)
/-- The number of zero bits from bit n - 1 down to the first one bit. -/
def zerosFrom (a : Word) : Nat → Nat
  | 0 => 0
  | n + 1 => if a.getLsbD n then 0 else 1 + zerosFrom a n
/-- The word whose bit i is bit 31 - i. -/
def mirrored (a : Word) : Word := wd ((List.range 32).foldl (fun v i => if a.getLsbD (31 - i) then v + 2 ^ i else v) 0)
/-- The lowest bit of a field, and its length (R385). -/
def bfLow (b : Word) : Nat := b.toNat % 256
def bfLen (b : Word) : Nat := min (b.toNat / 256 % 256) 32
/-- A field sign-extended from its length (R385). -/
def signedOf (f n : Nat) : Int := if 0 < n ∧ f.testBit (n - 1) then (f : Int) - 2 ^ n else f
/-- The mask of a field (R385). -/
def bfMask (b : Word) : Word := wd ((2 ^ bfLen b - 1) * 2 ^ bfLow b)

/-- Logic, shifts, bit counts, bit fields, minimum and maximum, and LEA (R382, R385, R388, R416, R426, R446, R449). -/
def bitRow : Instr → Option LaneRow
  | .and p d a b l k => some (row3 p d a b l k fun x y => wd (x.toNat &&& y.toNat))
  | .or p d a b l k => some (row3 p d a b l k fun x y => wd (x.toNat ||| y.toNat))
  | .xor p d a b l k => some (row3 p d a b l k fun x y => wd (x.toNat ^^^ y.toNat))
  | .andn p d a b l k => some (row3 p d a b l k fun x y => wd (x.toNat &&& (2 ^ 32 - 1 - y.toNat)))
  | .shl p d a b l k => some (row3 p d a b l k fun x y => if 32 ≤ y.toNat then 0 else wd (x.toNat * 2 ^ y.toNat))
  | .shrN p d a b l k => some (row3 p d a b l k fun x y => if 32 ≤ y.toNat then 0 else wd (x.toNat / 2 ^ y.toNat))
  | .shrS p d a b l k => some (row3 p d a b l k fun x y => if 32 ≤ y.toNat then (if x.getLsbD 31 then 0xFFFFFFFF else 0) else iw (x.toInt / 2 ^ y.toNat))
  | .rot p d a b l k => some (row3 p d a b l k fun x y => wd (x.toNat * 2 ^ (y.toNat % 32) + x.toNat / 2 ^ (32 - y.toNat % 32)))
  | .shf p d a b c l k => some { guard := p.val, srcs := [a.val, b.val, c.val], marks := if l then [c.val] else [], dsts := [d.val], k := k
                                 out := fun R _ _ => gives (wd (((R b.val).toNat * 2 ^ 32 + (R a.val).toNat) / 2 ^ ((R c.val).toNat % 64))) }
  | .imin p d a b n l k => some (row3 p d a b l k fun x y => if n then wd (min x.toNat y.toNat) else iw (min x.toInt y.toInt))
  | .imax p d a b n l k => some (row3 p d a b l k fun x y => if n then wd (max x.toNat y.toNat) else iw (max x.toInt y.toInt))
  | .popc p d a l k => some (row2 p d a l k fun x => wd (onesBelow x 32))
  | .clz p d a l k => some (row2 p d a l k fun x => wd (zerosFrom x 32))
  | .brev p d a l k => some (row2 p d a l k mirrored)
  | .iabs p d a l k => some (row2 p d a l k fun x => wd x.toInt.natAbs)
  | .bfe p d a b sg l k => some (row3 p d a b l k fun x y =>
      let f := ((if sg then x.toInt else (x.toNat : Int)) / 2 ^ bfLow y % 2 ^ bfLen y).toNat
      if sg then iw (signedOf f (bfLen y)) else wd f)
  | .bfi p d a b l k => some { guard := p.val, srcs := [a.val, b.val, d.val], marks := lastRead l a, dsts := [d.val], k := k
                               out := fun R _ _ =>
                                 let m := bfMask (R b.val)
                                 gives ((R d.val &&& ~~~m) ||| (wd ((R a.val).toNat * 2 ^ bfLow (R b.val)) &&& m)) }
  | .lea p d a b sh l k => some { guard := p.val, srcs := [a.val, a.val + 1, b.val], marks := lastPair l a.val
                                  dsts := [d.val, d.val + 1], k := k
                                  out := fun R _ _ => (pairIw (pairNat R a.val + (R b.val).toInt * 2 ^ sh.val), 0) }
  | _ => none

/-- MOV (R434). -/
def moveRow : Instr → Option LaneRow
  | .mov p d a l k => some (row2 p d a l k id)
  | _ => none

/-- Registers written with a recipe under an index: one with backing is kept and holds its value, one without is virtual (R96, R97). -/
def Thread.keeps (t : Thread) (quota j : Nat) : List (Nat × Word) → Thread
  | [] => t
  | (n, w) :: r =>
    (t.setCell n { val := if n < quota then w else (t.cell n).val, dead := false, tag := j, stored := decide (n < quota) }).keeps quota j r

/-- A float result with its flags. -/
def floats (r : Nat × Nat) : List Word × Nat := ([wd r.1], r.2)
/-- A three-register float row. -/
def rowF3 (p : PReg) (d a b : XReg) (l k : Bool) (f : Num.FMods → Nat → Nat → Nat × Nat) : LaneRow :=
  { guard := p.val, srcs := [a.val, b.val], marks := lastRead l a, dsts := [d.val], k := k, float := true
    out := fun R _ m => floats (f m (R a.val).toNat (R b.val).toNat) }
/-- A four-register float row: the mark on C. -/
def rowF4 (p : PReg) (d a b c : YReg) (l k : Bool) (f : Num.FMods → Nat → Nat → Nat → Nat × Nat) : LaneRow :=
  { guard := p.val, srcs := [a.val, b.val, c.val], marks := if l then [c.val] else [], dsts := [d.val], k := k, float := true
    out := fun R _ m => floats (f m (R a.val).toNat (R b.val).toNat (R c.val).toNat) }
/-- An operation on each half, the flags united (R401). -/
def halves (f : Nat → Nat → Nat → Nat × Nat) (a b c : Nat) : Nat × Nat :=
  let lo := f (a % 2 ^ 16) (b % 2 ^ 16) (c % 2 ^ 16)
  let hi := f (a / 2 ^ 16) (b / 2 ^ 16) (c / 2 ^ 16)
  (hi.1 * 2 ^ 16 + lo.1, lo.2 ||| hi.2)
/-- The format of a packed half (R401). -/
def halfFmt (t : Bool) : Num.Fmt := if t then Num.bf16 else Num.fp16

/-- The FP32 and packed operations (R400, R401, R406, R407, R408). -/
def floatRow : Instr → Option LaneRow
  | .fadd16 l s d => some { row16 l s d (fun a _ => a) with out := fun R _ m => floats (Num.fadd Num.fp32 { ftz := m.ftz } (R d.val).toNat (R s.val).toNat) }
  | .fsub16 l s d => some { row16 l s d (fun a _ => a) with out := fun R _ m => floats (Num.fsub Num.fp32 { ftz := m.ftz } (R d.val).toNat (R s.val).toNat) }
  | .fmul16 l s d => some { row16 l s d (fun a _ => a) with out := fun R _ m => floats (Num.fmul Num.fp32 { ftz := m.ftz } (R d.val).toNat (R s.val).toNat) }
  | .fadd p d a b l k => some (rowF3 p d a b l k (Num.fadd Num.fp32))
  | .fsub p d a b l k => some (rowF3 p d a b l k (Num.fsub Num.fp32))
  | .fmul p d a b l k => some (rowF3 p d a b l k (Num.fmul Num.fp32))
  | .ffma p d a b c l k => some (rowF4 p d a b c l k (Num.ffma Num.fp32))
  | .fmin p d a b u l k => some (rowF3 p d a b l k fun m => Num.fminmax Num.fp32 m false u)
  | .fmax p d a b u l k => some (rowF3 p d a b l k fun m => Num.fminmax Num.fp32 m true u)
  | .frnd p d a r l k => some { row2 p d a l k id with float := true, out := fun R _ m => floats (Num.frnd (.ofField r.val) m.ftz (R a.val).toNat) }
  | .fadd2 p d a b t l k => some (rowF3 p d a b l k fun m x y => halves (fun u v _ => Num.fadd (halfFmt t) m u v) x y 0)
  | .fmul2 p d a b t l k => some (rowF3 p d a b l k fun m x y => halves (fun u v _ => Num.fmul (halfFmt t) m u v) x y 0)
  | .ffma2H p d a b c l k => some (rowF4 p d a b c l k fun m => halves (Num.ffma Num.fp16 m))
  | .ffma2B p d a b c l k => some (rowF4 p d a b c l k fun m => halves (Num.ffma Num.bf16 m))
  | _ => none

/-- Every lane instruction of the tables above. -/
def laneRow (i : Instr) : Option LaneRow := shortRow i <|> arithRow i <|> bitRow i <|> moveRow i <|> floatRow i

/-- Its operands can be read and its destinations written, and it stands without a prefix where it takes none (R345, R348, R96). -/
structure LaneRow.Runs (r : LaneRow) (s : State) (tm : Team) (t : Thread) : Prop where
  pfx : r.float = false → s.pfx = none
  reads : ∀ n ∈ r.srcs, t.Reads (tm.quotaOf t.tid) n
  writes : ∀ n ∈ r.dsts, t.Writes (tm.quotaOf t.tid) n
  guard : t.pred r.guard = true

/-- The result of a row at a thread. -/
def LaneRow.result (r : LaneRow) (s : State) (tm : Team) (t : Thread) : List Word × Nat :=
  r.out t.reg tm.s (floatMods s.pfx (ftzOf t.fmode))

/-- Every instruction of a table completes with the table's result: the destinations hold it and are live, FSTAT gains its flags, marked
registers are dead, the pc passes the instruction; nothing else of the machine changes. The table may depend on the prefix. -/
def ComputesWith (table : Option Nat → Instr → Option LaneRow) : Prop :=
  ∀ (s : State) (id : ThreadId) (tm : Team) (t : Thread), Ready s id tm t → ∀ (i : Instr) (r : LaneRow), table s.pfx i = some r →
    r.k = false → r.Runs s tm t →
    exec i s = .next (s.passes id (unitLen i s.pfx) fun u =>
      ((u.gets (r.dsts.zip (r.result s tm t).1)).raises (r.result s tm t).2).killed (t.marked r.marks r.dsts))

/-- The same of a table that no prefix enters but by its modifiers. -/
def Computes (table : Instr → Option LaneRow) : Prop := ComputesWith fun _ => table

end Sys2Proof.Machine

open Sys2Proof Sys2Proof.Machine

-- arithmetic, logic, moves and floating point

/-- R337, R381, R382, R385, R388, R416, R426, R428, R434, R436, R446, R449: the 16-bit forms, additions, subtractions and multiplications, logic,
shifts, counts, bit fields, minimum, maximum, LEA and MOV. -/
def Obligations.IntegerOperationsCompute : Prop := Computes shortRow ∧ Computes arithRow ∧ Computes bitRow ∧ Computes moveRow

/-- R400, R401, R406, R407, R408: the FP32 operations and their packed forms. -/
def Obligations.FloatOperationsCompute : Prop := Computes floatRow

/-- R403, R368, R404, R140: FCVT without stochastic rounding, its result a pair where the conversion has a 64-bit one; FDOT's exact sum of products, rounded
once; IDOT's sum modulo 2^32 or saturated. Formats, signs and saturation stand in the prefix. -/
def Sys2Proof.Machine.convRow (pfx : Option Nat) : Instr → Option LaneRow
  | .fcvt p d a c r l k =>
    let wideIn := c = 5 ∨ c = 11
    let wideOut := c = 4 ∨ c = 10
    if (pfx.map fun w => (floatPfx w).sr) = some true then none
    else some { guard := p.val, srcs := if wideIn then [a.val, a.val + 1] else [a.val], marks := if wideIn then lastPair l a.val else lastRead l a
                dsts := if wideOut then [d.val, d.val + 1] else [d.val], k := k, float := true
                out := fun R _ m =>
                  let res := Num.fcvt c.val (.ofField r.val) m.ftz m.sat (if wideIn then pairNat R a.val else (R a.val).toNat)
                  (if wideOut then pairWd res.1 else [wd res.1], res.2) }
  | .fdot p d a b c l k =>
    let f : FloatPfx := (pfx.map floatPfx).getD {}
    let fmt := match f.dfmt with | 0 => (Num.fp16, 2) | 1 => (Num.bf16, 2) | 2 => (Num.e4m3, 4) | _ => (Num.e5m2, 4)
    some (rowF4 p d a b c l k (Num.fdot fmt.1 fmt.2))
  | .idot p d a b c l k =>
    let f : FloatPfx := (pfx.map floatPfx).getD {}
    let byte (nat : Bool) (v : Word) (i : Nat) : Int := if nat then ((v.extractLsb' (8 * i) 8).toNat : Int) else (v.extractLsb' (8 * i) 8).toInt
    some { rowF4 p d a b c l k (fun _ _ _ _ => (0, 0)) with
           out := fun R _ _ =>
             let pr (i : Nat) : Int := byte f.na (R a.val) i * byte f.nb (R b.val) i
             let sum : Int := (R c.val).toInt + pr 0 + pr 1 + pr 2 + pr 3
             gives (if f.sat then iw (max (-2 ^ 31) (min (2 ^ 31 - 1) sum)) else iw sum) }
  | _ => none

/-- R97, R99: the state in which a thread's gang holds a recipe under an index. -/
def Sys2Proof.Machine.State.recorded (s : State) (id : ThreadId) (tm : Team) (t : Thread) (j : Nat) (rcp : Recipe) : State :=
  s.updTeam id.1 fun x => x.updGang (tm.gangNo t.tid) (·.record j rcp)

/-- R96, R97: registers awaiting their values under a recipe's index: kept with backing, else virtual. -/
def Sys2Proof.Machine.Thread.awaits (t : Thread) (quota j : Nat) (ns : List Nat) : Thread :=
  ns.foldl (fun (u : Thread) n => u.setCell n { u.cell n with dead := false, tag := j, stored := decide (n < quota) }) t

/-- R97, R100, R96: a lane instruction with K set, whose recipe can be recorded under index j, writes its destinations as kept (or virtual, without
backing) registers and enters its word, prefix and FTZ in the gang's table; when it cannot be recorded, it writes plainly, and traps with REGQUOTA at its
first destination without backing. -/
def Sys2Proof.Machine.RecipesAreRecorded : Prop :=
  ∀ (s : State) (id : ThreadId) (tm : Team) (t : Thread), Ready s id tm t → ∀ (i : Instr) (r : LaneRow) (w : Nat),
    (laneRow i <|> convRow s.pfx i) = some r → r.k = true → r.marks = [] → encode i = some w → (r.float = false → s.pfx = none) → t.pred r.guard = true →
    (∀ n ∈ r.srcs, t.Reads (tm.quotaOf t.tid) n) → (∀ n ∈ r.dsts, n < 64 ∧ t.pending n = false ∧ t.isK n = false) →
    let q := tm.quotaOf t.tid
    let rcp : Recipe := { word := w, payload := s.pfx, ftz := ftzOf t.fmode }
    let vals := r.dsts.zip (r.result s tm t).1
    (∀ j, recordable tm t r.dsts rcp = some j →
      exec i s = .next ((s.recorded id tm t j rcp).passes id (unitLen i s.pfx) fun u => (u.keeps q j vals).raises (r.result s tm t).2)) ∧
    (recordable tm t r.dsts rcp = none →
      ((∀ n ∈ r.dsts, n < q) → exec i s = .next (s.passes id (unitLen i s.pfx) fun u => (u.gets vals).raises (r.result s tm t).2)) ∧
      (∀ n, r.dsts.find? (fun n => decide (q ≤ n)) = some n → exec i s = .next (s.takeTrap id { cause := 0x08, reg := n }).leaveIssue))

/-- R97, R98, R99, R434, R447: MOVS of s0 to s15 and SEL with K set; SEL records the word of MOV from the operand it selects. -/
def Sys2Proof.Machine.MovesAreKept : Prop :=
  ∀ (s : State) (id : ThreadId) (tm : Team) (t : Thread), Ready s id tm t → s.pfx = none → ∀ (d : XReg) (w j : Nat),
    t.pending d.val = false → t.isK d.val = false →
    let q := tm.quotaOf t.tid
    let rcp : Recipe := { word := w, payload := none, ftz := ftzOf t.fmode }
    recordable tm t [d.val] rcp = some j →
    (∀ (p : PReg) (a : YReg), t.pred p.val = true → a.val < 16 → (t.infl.all fun f => f.sdsts.all (·.1 != a.val)) = true → encode (.movs p d a true) = some w →
      exec (.movs p d a true) s = .next ((s.recorded id tm t j rcp).passes id 4 fun u => (u.keeps q j [(d.val, tm.s[a])]).raises 0)) ∧
    (∀ (n : PReg) (a b c : XReg), c = (if t.pred n.val then a else b) → t.Reads q c.val → encode (.mov 0 d c false true) = some w →
      exec (.sel n d a b false true) s = .next ((s.recorded id tm t j rcp).passes id 4 fun u => u.keeps q j [(d.val, t.reg c.val)]))

/-- R97, R425: LDI gives its immediate sign-extended, LDHI its immediate in the high half; each records its recipe when it can, and else writes
plainly. -/
def Sys2Proof.Machine.ConstantsLoad : Prop :=
  ∀ (s : State) (id : ThreadId) (tm : Team) (t : Thread), Ready s id tm t → s.pfx = none →
  ∀ (p : PReg) (d : XReg) (imm : Fin 65536) (i : Instr) (v : Word) (w : Nat),
    (i = .ldi p d imm ∧ v = iw (if imm.val < 32768 then imm.val else (imm.val : Int) - 65536)) ∨
      (i = .ldhi p d imm ∧ v = wd (imm.val * 65536)) →
    encode i = some w → t.pred p.val = true → t.pending d.val = false → t.isK d.val = false →
    let rcp : Recipe := { word := w, payload := none, ftz := ftzOf t.fmode }
    (∀ j, recordable tm t [d.val] rcp = some j →
      exec i s = .next ((s.recorded id tm t j rcp).passes id 4 fun u => (u.keeps (tm.quotaOf t.tid) j [(d.val, v)]).raises 0)) ∧
    (recordable tm t [d.val] rcp = none → d.val < tm.quotaOf t.tid →
      exec i s = .next (s.passes id 4 fun u => (u.gets [(d.val, v)]).raises 0))

/-- R97, R100, R425: K records the recipe of an instruction, and LDI and LDHI record theirs when they can; those that cannot write plainly. -/
def Obligations.RecipesAreKept : Prop := RecipesAreRecorded ∧ MovesAreKept ∧ ConstantsLoad

/-- The gang and quad collectives: a false guard arrives at them too (R34, R40), so they do not just pass. -/
def arrives : Instr → Bool
  | .shfl .. | .vote .. | .matchAny .. | .matchAll .. | .gred .. | .gscan .. | .ddx .. | .ddy .. | .bfly .. | .quota _ => true
  | _ => false

/-- R379, R103: an instruction other than a collective whose guard is false reads and writes nothing and retires; its last-read marks take effect. A helper passes a
store or an atomic in the same way (R38). SWR of a handler or firmware register out of place is left out: it raises PRIV (R106). -/
def Obligations.FalseGuardOnlyPasses : Prop :=
  ∀ (s : State) (id : ThreadId) (tm : Team) (t : Thread), Ready s id tm t → ∀ (i : Instr) (p : PReg), Instr.guard? i = some p → arrives i = false →
    (t.pred p.val = false ∨ (t.quad = .helper ∧ helperFalse i = true)) →
    (∀ q d n, i = .swr q d n → swrPrivileged s n.val = false) →
    lateDecode tm (s.gridOf tm).lrec.gridsync t i s.pfx = none →
    (∀ n ∈ marksOf i s.pfx, n < 64 ∧ (t.isK n = true ∨ n < tm.quotaOf t.tid)) →
    exec i s = .next (s.passes id (unitLen i s.pfx) fun u => u.killed (t.marked (marksOf i s.pfx) i.dstX))

/-- R96, R345: the first operand, in order, that is dead raises DEADREAD, one without backing REGQUOTA, with its number in TRAPINFO.REG; an
operand with a pending write holds the instruction, which then has no effect: the thread's oldest reply lands, or, when an engine has it, the thread waits. -/
def Obligations.UnreadableOperandsStop : Prop :=
  ∀ (s : State) (id : ThreadId) (tm : Team) (t : Thread), Ready s id tm t → ∀ (i : Instr) (r : LaneRow) (pre post : List Nat) (n : Nat),
    laneRow i = some r → r.k = false → (r.float = false → s.pfx = none) → t.pred r.guard = true →
    r.srcs = pre ++ n :: post → (∀ m ∈ pre, t.Reads (tm.quotaOf t.tid) m) → n < 64 → t.isK n = false →
    (t.pending n = false → n < tm.quotaOf t.tid → (t.cell n).dead = true →
      exec i s = .next (s.takeTrap id { cause := 0x09, reg := n }).leaveIssue) ∧
    (t.pending n = false → tm.quotaOf t.tid ≤ n → exec i s = .next (s.takeTrap id { cause := 0x08, reg := n }).leaveIssue) ∧
    (t.pending n = true → exec i s = .next (if t.infl.any (·.op.isNone) then s.landFirst id (·.op.isNone)
      else (s.updThread id fun u => { u with status := .blocked .engine }).leaveIssue))

-- predicates, moves and comparisons

/-- R366: the condition of a comparison of two words. -/
def wordCond (c : Fin 8) (a b : Word) : Prop :=
  match c with
  | 0 => a = b | 1 => a ≠ b | 2 => a.toInt < b.toInt | 3 => b.toInt ≤ a.toInt
  | 4 => a.toNat < b.toNat | 5 => b.toNat ≤ a.toNat | 6 => a &&& b ≠ 0 | 7 => a &&& b = 0

/-- R339: how a comparison's outcome joins the old predicate. -/
def joined (comb : Fin 4) (old c : Bool) : Bool :=
  match comb with
  | 0 => c | 1 => old && c | 2 => old || c | 3 => xor old c

/-- R402, R366: ICMP compares two words and joins the outcome with the predicate; PD 0 is not written. -/
def Sys2Proof.Machine.IntegerCompareSetsPredicate : Prop :=
  ∀ (s : State) (id : ThreadId) (tm : Team) (t : Thread), Ready s id tm t → s.pfx = none →
  ∀ (p : PReg) (q : Fin 8) (a b : XReg) (cond : Fin 8) (comb : Fin 4) (l c : Bool),
    t.pred p.val = true → t.Reads (tm.quotaOf t.tid) a.val → t.Reads (tm.quotaOf t.tid) b.val →
    (c = true ↔ wordCond cond (t.reg a.val) (t.reg b.val)) →
    exec (.icmp p q a b cond comb l) s = .next (s.passes id 4 fun u =>
      ((if q = 0 then u else { u with p := u.p.set q (joined comb (u.p[q]) c) }).killed (t.marked (lastRead l a) [])))

/-- R402, R366, R114: FCMP by the float comparison, with FTZ from FMODE or its prefix; its flags are set. -/
def Sys2Proof.Machine.FloatCompareSetsPredicate : Prop :=
  ∀ (s : State) (id : ThreadId) (tm : Team) (t : Thread), Ready s id tm t →
  ∀ (p : PReg) (q : Fin 8) (a b : XReg) (cond : Fin 8) (comb : Fin 4) (l : Bool),
    t.pred p.val = true → t.Reads (tm.quotaOf t.tid) a.val → t.Reads (tm.quotaOf t.tid) b.val →
    let c := Num.fcmp cond.val (floatMods s.pfx (ftzOf t.fmode)).ftz (t.reg a.val).toNat (t.reg b.val).toNat
    exec (.fcmp p q a b cond comb l) s = .next (s.passes id (unitLen (.fcmp p q a b cond comb l) s.pfx) fun u =>
      ((if q = 0 then u else { u with p := u.p.set q (joined comb (u.p[q]) c.1) }).raises c.2).killed (t.marked (lastRead l a) []))

/-- R402, R366, R114, R339: ICMP and FCMP set their predicate. -/
def Obligations.ComparisonsSetPredicates : Prop := IntegerCompareSetsPredicate ∧ FloatCompareSetsPredicate

/-- R443: the operations of PLOP. -/
def plopResult (op : Fin 4) (a b : Bool) : Bool := match op with | 0 => a && b | 1 => a || b | 2 => xor a b | 3 => a && !b

/-- R434, R443, R447: PLOP, MOVP both ways, MOVS, SMOV and SEL. p0 reads as true and is never written; SEL reads its selected operand alone. -/
def Obligations.PredicatesAndMoves : Prop :=
  ∀ (s : State) (id : ThreadId) (tm : Team) (t : Thread), Ready s id tm t → s.pfx = none →
    let q := tm.quotaOf t.tid
    (∀ (p d a b : PReg) (op : Fin 4), t.pred p.val = true →
      exec (.plop p d a b op) s = .next (s.passes id 4 fun u =>
        if d = 0 then u else { u with p := u.p.set d (plopResult op (t.pred a.val) (t.pred b.val)) })) ∧
    (∀ (p : PReg) (d : XReg) (v : Word), t.pred p.val = true → t.Writes q d.val → v.toNat < 256 →
      (∀ i : Fin 8, v.getLsbD i.val = t.pred i.val) →
      exec (.movpToReg p d) s = .next (s.passes id 4 fun u => u.gets [(d.val, v)])) ∧
    (∀ (p : PReg) (a : XReg) (l : Bool), t.pred p.val = true → t.Reads q a.val →
      exec (.movpToPreds p a l) s = .next (s.passes id 4 fun u =>
        ({ u with p := Vector.ofFn fun i => if i = 0 then u.p[0] else (t.reg a.val).getLsbD i.val }).killed (t.marked (lastRead l a) []))) ∧
    (∀ (p : PReg) (d : XReg) (a : YReg), t.pred p.val = true → t.Writes q d.val → (t.infl.all fun f => f.sdsts.all (·.1 != a.val)) = true →
      exec (.movs p d a false) s = .next (s.passes id 4 fun u => (u.gets [(d.val, tm.s[a])]).raises 0)) ∧
    (∀ (p : PReg) (d : YReg) (a : XReg) (l : Bool), t.pred p.val = true → t.Reads q a.val →
      (t.infl.all fun f => f.sdsts.all (·.1 != d.val)) = true →
      let later : Bool := match s.issue with | some i => i.done.any fun o => o.1 == id.1 && id.2 < o.2 && (s.thread o).pred p.val | none => false
      exec (.smov p d a l) s = .next ((s.updTeam id.1 fun x => if later then x else { x with s := x.s.set d (t.reg a.val) }).passes id 4 fun u =>
        u.killed (t.marked (lastRead l a) []))) ∧
    (∀ (n : PReg) (d a b c : XReg) (l : Bool), c = (if t.pred n.val then a else b) → t.Reads q c.val → t.Writes q d.val →
      (l = true → a.val < 64 ∧ (t.isK a.val = true ∨ a.val < q)) →
      exec (.sel n d a b l false) s = .next (s.passes id 4 fun u =>
        (u.gets [(d.val, t.reg c.val)]).killed (t.marked (lastRead l a) [d.val])))

/-- R403, R368, R404, R140: FCVT without stochastic rounding, FDOT and IDOT give their results and flags. -/
def Obligations.ConversionsAndDotProducts : Prop := ComputesWith convRow


-- encodings, the step, reset

/-- Words of the manual's own examples, one for each of several majors, decode to the instruction beside which they stand (R381, R382, R385, R425,
R426, R428, R443, R446, R402, R399, R437, R467). -/
def Obligations.ManualWordsDecode : Prop :=
  decode 0xFD821807 = .ok (.addImm 0 3 1 507 false) ∧ decode 0x20611005 = .ok (.addc 0 4 6 8 false false) ∧
  decode 0x1030B011 = .ok (.andn 0 2 3 4 false false) ∧ decode 0x0C20501B = .ok (.bfe 0 1 2 3 true false false) ∧
  decode 0xABCD0829 = .ok (.ldi 0 2 0xABCD) ∧ decode 0xEDCB042B = .ok (.ldhi 0 1 0xEDCB) ∧ decode 0x1842301D = .ok (.lea 0 8 4 6 3 false false) ∧
  decode 0x1062080B = .ok (.mad 0 1 2 3 4 false false) ∧ decode 0x0430B023 = .ok (.plop 0 2 3 1 3) ∧ decode 0x0C207013 = .ok (.rot 0 1 2 3 false false) ∧
  decode 0x0C14801F = .ok (.icmp 0 2 1 3 2 0 false) ∧ decode 0x2000247F = .ok (.exit 2) ∧ decode 0x0006187F = .ok (.tstamp 0 6) ∧
  decode 0x0000007F = .ok (.nop 0)

/-- R334, R336 to R342, R347, R348, R364, R365, R370 to R375: every well-formed instruction that has a word is decoded from that word, every operand at every value. -/
def Obligations.DecodeInvertsEncode : Prop := ∀ (i : Instr) (w : Nat), encode i = some w → i.wf = true → decode w = .ok i

/-- R334, R364: whatever decodes is well-formed and encodes to the word it came from, so that no bit of a word goes unread. -/
def Obligations.EncodeInvertsDecode : Prop :=
  ∀ (w : Nat) (i : Instr), w < 2 ^ (8 * unitBytes w) → decode w = .ok i → i.wf = true ∧ encode i = some w

/-- R334, R347: a unit is read halfword by halfword from the pc: one halfword when its bit 0 is 0, else two, the second the higher; a PFX word brings
the next word with it. -/
def Obligations.FetchReadsUnit : Prop :=
  ∀ (s s1 s2 : State) (lo hi : Nat), let pc := s.curThread.pc.toNat
    (lo % 2 = 0 → fetchHalf pc s = .ok (lo, s1) → fetchUnit s = .ok ((lo, none), s1)) ∧
    (lo % 2 = 1 → lo < 65536 → fetchHalf pc s = .ok (lo, s1) → fetchHalf (pc + 2) s1 = .ok (hi, s2) →
      (∀ p, decode (lo + 65536 * hi) ≠ .ok (.pfx p)) → fetchUnit s = .ok ((lo + 65536 * hi, none), s2)) ∧
    (∀ p w s3, lo % 2 = 1 → lo < 65536 → fetchHalf pc s = .ok (lo, s1) → fetchHalf (pc + 2) s1 = .ok (hi, s2) →
      decode (lo + 65536 * hi) = .ok (.pfx p) → fetchWord (pc + 4) s2 = .ok (w, s3) →
      fetchUnit s = .ok ((lo + 65536 * hi, some w), s3))

/-- R25, R27, R343, R345, R347, R348, R364: when a thread of the issuing bundle stands at a unit that is fetched, no late trap waits for it and no watch covers
the fetch, then: a unit that breaks its clause or passes the segment's limit raises ILLEGAL at the thread's pc; else a unit that does not decode raises
ILLEGAL with its info code; else, where no WAIT holds it, the step is the instruction's meaning, after its prefix's, at the state the fetch leaves;
time has passed. -/
def Obligations.StepRunsTheDecodedInstruction : Prop :=
  ∀ (s s1 s2 : State) (is : Issue) (id : ThreadId) (t : Thread) (w : Nat) (next : Option Nat),
    s.agenda = [] → s.issue = some is → is.todo.head? = some id → s.thread? id = some t → t.status = .bundled → t.pc = is.pc →
    s1 = { s.tick with issue := some { is with pfx := none } } → fetchUnit s1 = .ok ((w, next), s2) →
    s2.thread? id = some t → s2.cur? = some id → t.late = [] → t.firstTrap = none →
    watchOp t.pc.toNat (unitSize w next) .execute s2 = .ok ((), s2) →
    (t.clauseBad w (unitSize w next) = true ∨ t.pastLimit (unitSize w next) = true →
      step s = .next (s2.takeTrap id { cause := 0x01 }).leaveIssue) ∧
    (t.clauseBad w (unitSize w next) = false → t.pastLimit (unitSize w next) = false →
      (∀ c, unitOf w next = .error c → step s = .next (s2.takeTrap id { cause := 0x01, code := c }).leaveIssue) ∧
      (∀ (pf : Option (Fin 33554432)) (i : Instr), unitOf w next = .ok (pf, i) → s1.curTeam.prologue = none → (t.waitHolds = false ∨ isClause w = true) →
        step s = match pf with
          | none => exec i s2
          | some p => exec i { s2 with issue := s2.issue.map fun x => { x with pfx := some p.val } }))

/-- R315, R316, R325, R285, R286: after reset every die present awaits its firmware image, undocked, with no fault and no trap record queued; there is no
context, queue, grid, team or thread, and memory lists nothing. By the model's choice, P alone is present, hand-held (log entry 2), the timestamp is 0
(log entry 3), and the model's own agenda and issue are empty (log entry 4). -/
def Obligations.ResetStartsEmpty : Prop :=
  let s := State.reset
  s.ctxs = [] ∧ s.queues = [] ∧ s.grids = [] ∧ s.teams = [] ∧ s.cores = [] ∧ s.phasers = [] ∧ s.locks = [] ∧ s.dirs = [] ∧ s.mem = [] ∧
  s.poison = [] ∧ s.time = 0 ∧ s.issue = none ∧ s.agenda = [] ∧ s.conf = .handheld ∧
  (s.dies.all fun d => d.boot == .awaiting && d.dock == .undocked && !d.lost0 && !d.lost1 && d.faults.isEmpty && d.traps.isEmpty && !d.locked
    && (d.present == (d.code == 0))) = true

/-- Reset memory has its canonical form. -/
def Obligations.ResetMemoryIsCanonical : Prop := State.MemOk State.reset

/-- The canonical form of memory is kept by every step, from every state that has it. -/
def Obligations.StepKeepsMemoryCanonical : Prop := ∀ s s' : State, s.MemOk → step s = .next s' → s'.MemOk

/-- No step stops, from any state at all: every unit that is fetched executes, parks, blocks or traps, and every operation of the machine has an effect
or none. -/
def Obligations.EveryStepGoesOn : Prop := ∀ s : State, goesOn (step s) = true

-- traps and handlers

/-- R104, R107, R279, R280: a thread that takes a trap with every flag count zero, in a context with a trap entry, enters the handler: k0 to k7 and the
trap registers hold the trap, TRAPPC the pc of the instruction, TRAPSEQ the core's number, the pc is the trap entry; registers, predicates, modes
and memory are unchanged, and the trap record is queued on the die. -/
def Obligations.TrapEntersTheHandler : Prop :=
  ∀ (s : State) (id : ThreadId) (tm : Team) (t : Thread) (c : Context) (r : TrapRec),
    s.team? id.1 = some tm → tm.threads[id.2]? = some t → tm.prologue = none → s.ctx? tm.die tm.ctx = some c → c.trapEntry ≠ 0 →
    t.handler = .none → t.flagsClear = true → t.infl = [] →
    ∃ t', (s.takeTrap id r).thread? id = some t' ∧
      t'.k = #v[w32 r.cause, r.info, t.pc.extractLsb' 0 32, t.pc.extractLsb' 32 32, r.addr.extractLsb' 0 32, r.addr.extractLsb' 32 32, 0, 0] ∧
      t'.trapCause = w32 r.cause ∧ t'.trapInfo = r.info ∧ t'.trapPc = t.pc ∧ t'.trapAddr = r.addr ∧
      t'.trapSeq = w32 (s.core tm.die tm.core).trapSeq ∧ t'.handler = .trap ∧ t'.pc = BitVec.ofNat 64 c.trapEntry ∧
      t'.status = .fold s.steps ∧ t'.x = t.x ∧ t'.p = t.p ∧ t'.fstat = t.fstat ∧ t'.fmode = t.fmode ∧ t'.mstep = t.mstep ∧ t'.f = t.f ∧
      (s.takeTrap id r).mem = s.mem ∧ (s.takeTrap id r).core tm.die tm.core = { s.core tm.die tm.core with trapSeq := ((s.core tm.die tm.core).trapSeq + 1) % 2 ^ 32 } ∧
      (∀ d, s.die? tm.die = some d → d.traps.length < 1024 → d.trapDropped = 0 →
        ∃ d', (s.takeTrap id r).die? tm.die = some d' ∧
          d'.traps = d.traps ++ [trapBytes (s.coreTime tm.die tm.core) t.pc r.addr (s.core tm.die tm.core).trapSeq r.info tm.num id.2 tm.ctx tm.die
            tm.core r.cause false (s.gridOf tm).num])

/-- R280: a thread that traps while a flag counts stops at its instruction. TRAP_ENTRY completes once its counts are zero and its replies have come: the
thread enters the handler, k0 to k7 and the trap registers holding the trap with the number taken when it stopped, and its trap record is queued. -/
def Sys2Proof.Machine.TrapWaitsForItsFlags : Prop :=
  ∀ (s : State) (id : ThreadId) (tm : Team) (t : Thread) (c : Context) (r : TrapRec),
    s.team? id.1 = some tm → tm.threads[id.2]? = some t → tm.prologue = none → s.ctx? tm.die tm.ctx = some c → c.trapEntry ≠ 0 →
    t.handler = .none →
    (t.flagsClear = false ∨ t.infl ≠ [] → s.takeTrap id r =
      (s.setCore { s.core tm.die tm.core with trapSeq := ((s.core tm.die tm.core).trapSeq + 1) % 2 ^ 32 }).updThread id fun u =>
        { u with status := .stopping r (s.coreTime tm.die tm.core) (s.core tm.die tm.core).trapSeq }) ∧
    (∀ time seq, t.status = .stopping r time seq →
      (t.flagsClear = true → t.infl = [] → exec (.trapEntry id.1 id.2) s = .next (s.enterTrap id r time seq) ∧
        ∃ t', (s.enterTrap id r time seq).thread? id = some t' ∧
          t'.k = #v[w32 r.cause, r.info, t.pc.extractLsb' 0 32, t.pc.extractLsb' 32 32, r.addr.extractLsb' 0 32, r.addr.extractLsb' 32 32, 0, 0] ∧
          t'.trapCause = w32 r.cause ∧ t'.trapInfo = r.info ∧ t'.trapPc = t.pc ∧ t'.trapAddr = r.addr ∧ t'.trapSeq = w32 seq ∧
          t'.handler = .trap ∧ t'.pc = BitVec.ofNat 64 c.trapEntry ∧ t'.status = .fold s.steps ∧ t'.x = t.x ∧ t'.p = t.p ∧ t'.mstep = t.mstep ∧
          (∀ d, s.die? tm.die = some d → d.traps.length < 1024 → d.trapDropped = 0 →
            ∃ d', (s.enterTrap id r time seq).die? tm.die = some d' ∧
              d'.traps = d.traps ++ [trapBytes time t.pc r.addr seq r.info tm.num id.2 tm.ctx tm.die tm.core r.cause false (s.gridOf tm).num])) ∧
      (t.flagsClear = false ∨ t.infl ≠ [] → exec (.trapEntry id.1 id.2) s = .next s))

/-- R282: a thread that traps inside a handler, or while the trap entry is 0, halts: it never issues again, its trap registers hold the trap, and its
context is failed. -/
def Sys2Proof.Machine.DoubleTrapHalts : Prop :=
  ∀ (s : State) (id : ThreadId) (tm : Team) (t : Thread) (c : Context) (r : TrapRec),
    s.team? id.1 = some tm → tm.threads[id.2]? = some t → tm.prologue = none → s.ctx? tm.die tm.ctx = some c →
    (c.trapEntry = 0 ∨ t.handler ≠ .none) →
    ∃ t' c', (s.takeTrap id r).thread? id = some t' ∧ t'.status = .halted ∧ t'.trapCause = w32 r.cause ∧ t'.trapPc = t.pc ∧ t'.trapAddr = r.addr ∧
      t'.x = t.x ∧ t'.pc = t.pc ∧ (s.takeTrap id r).ctx? tm.die tm.ctx = some c' ∧ c'.failed = true

/-- R280, R282: a trap with accesses in flight waits for them, and TRAP_ENTRY completes when they have; a trap in a handler, or without a trap entry, halts
the thread. -/
def Obligations.TrapsWaitOrHalt : Prop := TrapWaitsForItsFlags ∧ DoubleTrapHalts

/-- R387, R465: BKPT is the word 0x0000047F, and any other value of its fields is ILLEGAL; TRAP is SYS FUNC 2 with its number in IMM4, a guard in PRED, and
A and D zero. Both stop the thread before they retire, TRAPPC being the pc of the instruction, with TRAPADDR 0 and TRAPINFO 0 but for TRAP's number in
STEP; a helper executes TRAP as any thread does, and neither takes a PFX. With the trap entry 0, or inside a handler, the thread halts. -/
def Obligations.SoftwareTraps : Prop :=
  (∀ (p : PReg) (a d : Fin 64) (n : Fin 16), let fields := p.val * 2 ^ 7 + d.val * 2 ^ 16 + a.val * 2 ^ 22 + n.val * 2 ^ 28
    decode (0x0000047F + fields) = (if p.val = 0 ∧ a.val = 0 ∧ d.val = 0 ∧ n.val = 0 then .ok .bkpt else .error ⟨0⟩) ∧
    decode (0x0000087F + fields) = (if a.val = 0 ∧ d.val = 0 then .ok (.trap p n) else .error ⟨0⟩)) ∧
  (∀ (payload : Nat) (p : PReg) (n : Fin 16), (pfxCode payload .bkpt).isSome = true ∧ (pfxCode payload (.trap p n)).isSome = true) ∧
  (∀ (s : State) (id : ThreadId) (tm : Team) (t : Thread), Ready s id tm t →
    exec .bkpt s = .next (s.takeTrap id { cause := 0x0C }).leaveIssue ∧
    (∀ (p : PReg) (n : Fin 16), t.pred p.val = true → exec (.trap p n) s = .next (s.takeTrap id { cause := 0x0D, step := n.val }).leaveIssue) ∧
    (∀ (p : PReg) (n : Fin 16), t.pred p.val = false → s.pfx = none → exec (.trap p n) s = .next (s.passes id 4 fun u => u))) ∧
  (TrapRec.info { cause := 0x0C } = 0) ∧ (∀ n : Fin 16, TrapRec.info { cause := 0x0D, step := n.val } = BitVec.ofNat 32 (n.val * 65536)) ∧
  (∀ (s : State) (id : ThreadId) (tm : Team) (t : Thread) (c : Context) (r : TrapRec), s.team? id.1 = some tm → tm.threads[id.2]? = some t →
    tm.prologue = none → s.ctx? tm.die tm.ctx = some c → (r = { cause := 0x0C } ∨ ∃ n : Fin 16, r = { cause := 0x0D, step := n.val }) →
    ∃ t', (s.takeTrap id r).thread? id = some t' ∧
      (c.trapEntry = 0 ∨ t.handler ≠ .none → t'.status = .halted ∧ t'.trapPc = t.pc ∧ t'.trapAddr = 0 ∧ t'.trapInfo = r.info ∧ t'.trapCause = w32 r.cause) ∧
      (c.trapEntry ≠ 0 → t.handler = .none → t.flagsClear = true → t.infl = [] →
        t'.trapPc = t.pc ∧ t'.trapAddr = 0 ∧ t'.trapInfo = r.info ∧ t'.trapCause = w32 r.cause ∧ t'.pc = BitVec.ofNat 64 c.trapEntry))

/-- R281, R105: TRET of a trap handler resumes at TRAPPC through the fold: the k registers are gone, numbers 56 to 63 name x56 to x63, MSTEP is as the
handler left it. By the model's choice (log entries 11, 74 and 79) the thread is in what is left of the clause and in the segment the trap stopped while TRAPPC lies within them, the progress of
a macro instruction of an interrupted handler is back, and its arrival state too when it resumes where it was stopped (R289). Outside a handler it is ILLEGAL with NOTHANDLER; a TRAPPC that is odd raises ALIGN, one outside the bound code XLATE with CODERANGE. -/
def Obligations.TrapReturns : Prop :=
  ∀ (s : State) (id : ThreadId) (tm : Team) (t : Thread), Ready s id tm t →
    (t.handler = .none → exec .tret s = .next (s.takeTrap id { cause := 0x01, code := 0x27 }).leaveIssue) ∧
    (t.handler = .trap → t.infl = [] → t.trapPc.toNat % 2 = 1 →
      exec .tret s = .next (s.takeTrap id { cause := 0x03, addr := t.trapPc }).leaveIssue) ∧
    (t.handler = .trap → t.infl = [] → t.trapPc.toNat % 2 = 0 → s.inCode tm t.trapPc.toNat = false →
      exec .tret s = .next (s.takeTrap id { cause := 0x05, code := 0x2E, addr := t.trapPc }).leaveIssue) ∧
    (t.handler = .trap → t.infl = [] → t.trapPc.toNat % 2 = 0 → s.inCode tm t.trapPc.toNat = true →
      let v := t.levels.head?.getD {}
      let there := v.pc == some t.trapPc
      exec .tret s = .next (s.updThread id fun u =>
        { u.settle with pc := t.trapPc, handler := .none, k := Vector.replicate 8 0, clause := v.clauseAt t.trapPc, entry := v.entryAt t.trapPc
                        levels := t.levels.drop 1, hstep := v.hstep, arrKind := if there then v.arrKind else 0
                        arrOp := if there then v.arrOp else 0, arrVal := if there then v.arrVal else 0
                        unwatched := t.watchPc == some t.trapPc, watchPc := none, status := .fold s.steps }).leaveIssue)

-- segment enders, clauses and the rest of control

/-- R25: the following segment of an ender of 4 bytes: the first 4-byte-aligned address after it. -/
def afterEnder (pc : DWord) : DWord := BitVec.ofNat 64 ((pc.toNat + 4 + 3) / 4 * 4)
/-- R341: the target of format J: the pc rounded down to 4, and OFF20 words from there. -/
def branchTarget (pc : DWord) (off : Fin 1048576) : DWord :=
  BitVec.ofInt 64 ((pc.toNat / 4 * 4 : Nat) + 4 * (if off.val < 524288 then (off.val : Int) else (off.val : Int) - 1048576))

/-- R25, R26, R29, R82, R341, R437, R469: NEXT, NEXTP, NEXTP.n and YIELD end the segment; the thread enters the fold at the target or at the following
segment, with nothing else changed; after YIELD it is out of selection first, for one selection round of its quarter (log entry 81). -/
def Sys2Proof.Machine.EndersEnterTheFold : Prop :=
  ∀ (s : State) (id : ThreadId) (tm : Team) (t : Thread), Ready s id tm t → ∀ (off : Fin 1048576) (q : PReg),
    exec (.next off) s = .next (s.jumps id (branchTarget t.pc off) fun u => u) ∧
    exec (.nextp off q) s = .next (s.jumps id (if t.pred q.val then branchTarget t.pc off else afterEnder t.pc) fun u => u) ∧
    exec (.nextpN off q) s = .next (s.jumps id (if t.pred q.val then afterEnder t.pc else branchTarget t.pc off) fun u => u) ∧
    exec .yield s = .next ((s.updThread id fun u => { u.toFold (afterEnder t.pc) s.steps with status := .yielding }).leaveIssue)

/-- R27, R390, R437: NEXTX goes to its pair; CALL and CALLX write the low half of the following segment's address into the link register, x63 or k7;
RET takes the high half of its target from CODEBASE; CALLK goes to a dissolve entry with its key. A target that is not 4-byte aligned raises ALIGN,
one outside the bound code XLATE with CODERANGE, a CALLK target that is no dissolve entry ILLEGAL; nothing is written then. -/
def Sys2Proof.Machine.CallsAndReturns : Prop :=
  ∀ (s : State) (id : ThreadId) (tm : Team) (t : Thread), Ready s id tm t → ∀ (a d : XReg) (off : Fin 1048576),
    let q := tm.quotaOf t.tid
    let v := pair64 (t.reg a.val) (t.reg (a.val + 1))
    let link : Nat × Word := (63, (afterEnder t.pc).extractLsb' 0 32)
    let pairOk := t.Reads q a.val ∧ t.Reads q (a.val + 1)
    (t.Writes q 63 → exec (.call off) s = .next (s.jumps id (branchTarget t.pc off) fun u => u.gets [link])) ∧
    (t.isK 63 = false → t.pending 63 = false → q ≤ 63 → exec (.call off) s = .next (s.takeTrap id { cause := 0x08, reg := 63 }).leaveIssue) ∧
    (pairOk → v.toNat % 4 = 0 → s.inCode tm v.toNat = true →
      exec (.nextx a) s = .next (s.jumps id v fun u => u) ∧
      (t.Writes q 63 → exec (.callx a) s = .next (s.jumps id v fun u => u.gets [link])) ∧
      (∀ cv, (s.ctxOf tm).version? tm.version = some cv → t.Reads q d.val → t.Writes q 63 →
        (v.toNat ∈ cv.dissolve → exec (.callk d a) s = .next (s.jumps id v fun u => { u.gets [link] with dissolve := some (t.reg d.val) })) ∧
        (v.toNat ∉ cv.dissolve → exec (.callk d a) s = .next (s.takeTrap id { cause := 0x01 }).leaveIssue))) ∧
    (pairOk → v.toNat % 4 ≠ 0 →
      exec (.nextx a) s = .next (s.takeTrap id { cause := 0x03, addr := v }).leaveIssue ∧
      exec (.callx a) s = .next (s.takeTrap id { cause := 0x03, addr := v }).leaveIssue) ∧
    (pairOk → v.toNat % 4 = 0 → s.inCode tm v.toNat = false →
      exec (.nextx a) s = .next (s.takeTrap id { cause := 0x05, code := 0x2E, addr := v }).leaveIssue ∧
      exec (.callx a) s = .next (s.takeTrap id { cause := 0x05, code := 0x2E, addr := v }).leaveIssue) ∧
    (let r := BitVec.append (BitVec.ofNat 32 ((s.ctxOf tm).codeBase / 2 ^ 32)) (t.reg 63)
     t.Reads q 63 → r.toNat % 4 = 0 → s.inCode tm r.toNat = true → exec .ret s = .next (s.jumps id r fun u => u))

/-- R341: the target is 4-byte aligned and lies from 2,097,152 bytes before to 2,097,148 bytes after the word of the ender; p0 is true. -/
def Sys2Proof.Machine.BranchTargets : Prop :=
  (∀ (pc : DWord) (off : Fin 1048576), (branchTarget pc off).toNat % 4 = 0 ∧
    ∃ k : Int, -2097152 ≤ k ∧ k ≤ 2097148 ∧ branchTarget pc off = BitVec.ofInt 64 ((pc.toNat / 4 * 4 : Nat) + k)) ∧
  (∀ t : Thread, t.pred 0 = true)

/-- R25 to R27, R29, R341, R390, R437, R469: the segment enders NEXT, NEXTP, NEXTP.n, YIELD, NEXTX, CALL, CALLX, CALLK and RET. -/
def Obligations.EndersTransferControl : Prop := BranchTargets ∧ EndersEnterTheFold ∧ CallsAndReturns

/-- R342, R343, R347, R439: CLAUSE opens a clause with its fields, where none is open, a sized one has ended or an open one holds an instruction, and is
ILLEGAL elsewhere; PFX latches its payload for the instruction it stands before; NOP, the word 0x0000007F with a guard in PRED, only retires, and a
non-zero A, D or IMM4 in it is ILLEGAL. -/
def Obligations.ClausesPrefixesAndNop : Prop :=
  (∀ (p : PReg) (a d : Fin 64) (n : Fin 16), decode (0x0000007F + p.val * 2 ^ 7 + d.val * 2 ^ 16 + a.val * 2 ^ 22 + n.val * 2 ^ 28) =
    if a.val = 0 ∧ d.val = 0 ∧ n.val = 0 then .ok (.nop p) else .error ⟨0⟩) ∧
  (∀ (s : State) (id : ThreadId) (tm : Team) (t : Thread), Ready s id tm t →
    (∀ (len : Fin 32) (b a : Fin 16) (wait : Fin 4096),
      (t.clause.all fun c => (c.left == some 0) || (c.left.isNone && !c.fresh)) = true →
      exec (.clause len b a wait) s = .next (s.updThread id fun u =>
        { u with pc := u.pc + 4, entry := if t.clause.isNone then some t.pc else u.entry,
                 clause := some { left := if len = 0 then none else some len.val, setA := a.val, setB := b.val, wait := wait.val } }).stayIssue) ∧
    (∀ (len : Fin 32) (b a : Fin 16) (wait : Fin 4096) (c : Clause), t.clause = some c → (c.left.getD 0 ≠ 0 ∨ (c.left = none ∧ c.fresh = true)) →
      exec (.clause len b a wait) s = .next (s.takeTrap id { cause := 0x01 }).leaveIssue) ∧
    (∀ payload : Fin 33554432, exec (.pfx payload) s = .next { s with issue := s.issue.map fun x => { x with pfx := some payload.val } }) ∧
    (∀ p : PReg, s.pfx = none → exec (.nop p) s = .next (s.passes id 4 fun u => u)))

/-- R39, R288, R399: EXIT of a thread with nothing in flight ends it, with every thread of its quad once no other member of the quad is left; in a quad
whose other members live on it becomes a helper that waits at the EXIT and leaves its barriers (R229, R230); in a save or restore handler it is ILLEGAL. -/
def Sys2Proof.Machine.ExitEndsTheThread : Prop :=
  ∀ (s : State) (id : ThreadId) (tm : Team) (t : Thread) (n : Fin 16), Ready s id tm t → tm.uid = id.1 → tm.prologue = none → t.late = [] → t.infl = [] →
    (t.handler = .save ∨ t.handler = .restore → exec (.exit n) s = .next (s.takeTrap id { cause := 0x01 }).leaveIssue) ∧
    (t.handler = .none ∨ t.handler = .trap → tm.quads = false → t.status ≠ .ended → exec (.exit n) s = .next (s.leaveIssue.endThread id)) ∧
    (t.handler = .none ∨ t.handler = .trap → tm.quads = true → (quadOthers tm t.tid).isEmpty = true →
      (∀ o ∈ tm.threads, tm.threads[o.tid]? = some o) →
      exec (.exit n) s = .next (((tm.threads.filter fun o => o.tid / 4 == t.tid / 4 && o.status != .ended).map (·.tid)).foldl
        (fun (v : State) k => v.endThread (id.1, k)) s.leaveIssue)) ∧
    (t.handler = .none ∨ t.handler = .trap → tm.quads = true → (quadOthers tm t.tid).isEmpty = false →
      exec (.exit n) s = .next (((s.helperWaits id).updThread id fun u => { u with status := .blocked .exitHelper }).leaveIssue.cvShort id.1))

/-- R452, R448: SLEEP retires and the thread leaves selection for its operand's cycles, at most 1,048,575, and comes back when they are over; of 0 cycles
it only passes. SETPRI sets its gang's priority. -/
def Sys2Proof.Machine.SleepAndPriority : Prop :=
  ∀ (s : State) (id : ThreadId) (tm : Team) (t : Thread), Ready s id tm t → s.pfx = none → ∀ (p : PReg) (a : XReg) (n : Fin 16), t.pred p.val = true →
    (t.Reads (tm.quotaOf t.tid) a.val →
      (t.reg a.val = 0 → exec (.sleep p a) s = .next (s.passes id 4 fun u => u)) ∧
      (t.reg a.val ≠ 0 → exec (.sleep p a) s = .next (s.updThread id fun u =>
        { u.advance 4 with status := .sleeping (min (t.reg a.val).toNat 1048575) }).leaveIssue)) ∧
    exec (.setpri p n) s = .next ((s.updTeam id.1 fun x => x.updGang (tm.gangNo t.tid) fun g => { g with prio := n.val }).passes id 4 fun u => u) ∧
    (∀ (v : State) (u tid c : Nat), (v.thread (u, tid)).status = .sleeping c →
      exec (.sleepEnd u tid) v = .next (v.updThread (u, tid) fun x => { x with status := .fold v.steps }))

/-- R39, R288, R399, R448, R452: EXIT, SLEEP with its end, and SETPRI. -/
def Obligations.ThreadsSleepAndEnd : Prop := ExitEndsTheThread ∧ SleepAndPriority


-- system registers

/-- R107: the value of a system register for a thread; none for the three masks, which are said beside it, and for reserved numbers. -/
def sysValue (s : State) (tm : Team) (t : Thread) (g : Grid) (c : Context) (num : Nat) : Option Nat :=
  let gang := tm.gang (t.tid / tm.width)
  let lq := if tm.die = 0 then 16 else 32
  match num with
  | 0x000 => some t.tid | 0x001 => some (t.tid / tm.width) | 0x002 => some (t.tid % tm.width)
  | 0x003 => some (tm.num % g.lrec.x) | 0x004 => some (tm.num / g.lrec.x % g.lrec.y) | 0x005 => some (tm.num / (g.lrec.x * g.lrec.y))
  | 0x006 => some g.lrec.x | 0x007 => some g.lrec.y | 0x008 => some g.lrec.z | 0x009 => some g.num | 0x00A => some g.depth
  | 0x00B => some tm.ctx | 0x00C => some tm.die | 0x00D => some tm.core | 0x00E => some (t.lane / lq) | 0x00F => some (t.lane % lq)
  | 0x010 => some gang.quota | 0x011 => some gang.prio | 0x012 => some (Config.commons + tm.core * 2 ^ 20 + gang.base)
  | 0x013 => some tm.scrVa | 0x014 => some tm.scrSize | 0x015 => some (s.rankOfTeam tm) | 0x016 => some Config.commons | 0x017 => some c.codeBase
  | 0x018 => some tm.tags.toNat | 0x019 => some tm.tagErr.toNat | 0x01A => some t.fstat.toNat | 0x01B => some tm.fmode.toNat
  | 0x01C => some tm.mfmt.toNat | 0x01D => some t.mstep.toNat | 0x01E => some c.seed.toNat
  | 0x040 => some t.trapCause.toNat | 0x041 => some t.trapPc.toNat | 0x042 => some t.trapAddr.toNat | 0x043 => some t.trapInfo.toNat
  | 0x044 => some t.trapSeq.toNat
  | n => if 0x30 ≤ n ∧ n < 0x40 then some (match s.cohortTeam tm (n - 0x30) with | some o => o.scrVa | none => 0) else none

/-- R106, R107, R453: SRD of any register of R107 completes: it writes the register's value, in a pair for a 64-bit one, and passes; DEADMASK, DROPMASK
and RECIPEMASK show which registers are dead, which are dropped or virtual and which have dependents. -/
def Sys2Proof.Machine.SystemRegistersRead : Prop :=
  ∀ (s : State) (id : ThreadId) (tm : Team) (t : Thread), Ready s id tm t → s.pfx = none →
  ∀ (p : PReg) (d : XReg) (num : Fin 1024) (v : Nat), t.pred p.val = true →
    let q := tm.quotaOf t.tid
    let dsts := if sr64 num.val then [d.val, d.val + 1] else [d.val]
    (srKnown num.val = true → (∀ n ∈ dsts, t.Writes q n) →
      ∃ ws : List Word, ws.length = dsts.length ∧ exec (.srd p d num) s = .next (s.passes id 4 fun u => u.gets (dsts.zip ws))) ∧
    (sysValue s tm t (s.gridOf tm) (s.ctxOf tm) num.val = some v →
      (sr64 num.val = false → t.Writes q d.val → exec (.srd p d num) s = .next (s.passes id 4 fun u => u.gets [(d.val, wd v)])) ∧
      (sr64 num.val = true → t.Writes q d.val → t.Writes q (d.val + 1) →
        exec (.srd p d num) s = .next (s.passes id 4 fun u => u.gets [(d.val, wd v), (d.val + 1, wd (v / 2 ^ 32))]))) ∧
    (∀ (bit : Nat → Bool), (num.val = 0x1F ∧ (∀ n < 64, bit n = (decide (n < q) && (t.cell n).dead))) ∨ (num.val = 0x20 ∧ ∀ n < 64, bit n = false) ∨
        (num.val = 0x21 ∧ ∀ n < 64, bit n = false) →
      v < 2 ^ 64 → (∀ n < 64, v.testBit n = bit n) → t.Writes q d.val → t.Writes q (d.val + 1) →
        exec (.srd p d num) s = .next (s.passes id 4 fun u => u.gets [(d.val, wd v), (d.val + 1, wd (v / 2 ^ 32))]))

/-- R106, R108, R109, R224, R453: SWR replaces a register, reserved fields taken as 0: FSTAT keeps 6 bits, FMODE 1 and MFMT 8, both for the team and the
thread, MSTEP its kind and step, TRAPPC and SEED their pair. MSTEP and TRAPPC outside a trap handler, and SEED outside context 0, raise PRIV, whatever the
guard. -/
def Obligations.SystemRegistersWrite : Prop :=
  ∀ (s : State) (id : ThreadId) (tm : Team) (t : Thread), Ready s id tm t → s.pfx = none → ∀ (p : PReg) (d : XReg),
    let q := tm.quotaOf t.tid
    let w := t.reg d.val
    let v := pair64 w (t.reg (d.val + 1))
    (t.pred p.val = true → t.Reads q d.val →
      exec (.swr p d 0x1A) s = .next (s.passes id 4 fun u => { u with fstat := w &&& 0x3F }) ∧
      exec (.swr p d 0x1B) s = .next ((s.updTeam id.1 fun x => { x with fmode := w &&& 1 }).passes id 4 fun u => { u with fmode := w &&& 1 }) ∧
      exec (.swr p d 0x1C) s = .next ((s.updTeam id.1 fun x => { x with mfmt := w &&& 0xFF }).passes id 4 fun u => { u with mfmt := w &&& 0xFF }) ∧
      (t.handler = .trap → exec (.swr p d 0x1D) s = .next (s.passes id 4 fun u => { u with mstep := w &&& 0xF000FFFF }))) ∧
    (t.pred p.val = true → t.Reads q d.val → t.Reads q (d.val + 1) →
      (t.handler = .trap → exec (.swr p d 0x41) s = .next (s.passes id 4 fun u => { u with trapPc := v })) ∧
      (tm.ctx = 0 → exec (.swr p d 0x1E) s = .next ((s.updCtx tm.die tm.ctx fun c => { c with seed := v }).passes id 4 fun u => u))) ∧
    (t.handler ≠ .trap → exec (.swr p d 0x1D) s = .next (s.takeTrap id { cause := 0x02 }).leaveIssue ∧
      exec (.swr p d 0x41) s = .next (s.takeTrap id { cause := 0x02 }).leaveIssue) ∧
    (tm.ctx ≠ 0 → exec (.swr p d 0x1E) s = .next (s.takeTrap id { cause := 0x02 }).leaveIssue)

/-- R286, R302, R467: TSTAMP completes: it writes the core's timestamp, never below the thread's last one, in a pair, and remembers it. -/
def Sys2Proof.Machine.TimestampNeverDecreases : Prop :=
  ∀ (s : State) (id : ThreadId) (tm : Team) (t : Thread), Ready s id tm t → s.pfx = none → ∀ (p : PReg) (d : XReg), t.pred p.val = true →
    t.Writes (tm.quotaOf t.tid) d.val → t.Writes (tm.quotaOf t.tid) (d.val + 1) →
    let v := max t.stamp (s.coreTime tm.die tm.core)
    exec (.tstamp p d) s = .next (s.passes id 4 fun u => { u.gets [(d.val, wd v), (d.val + 1, wd (v / 2 ^ 32))] with stamp := v })

/-- R106, R107, R453, R286, R302, R467: SRD of every register and TSTAMP complete, with the register's value and with the core's timestamp, never below the
thread's last. -/
def Obligations.RegistersAndTimeAreRead : Prop := SystemRegistersRead ∧ TimestampNeverDecreases

/-- R96: the thread after its kept registers below the quota in a mask are dropped. -/
def allDropped (q : Nat) (m : DWord) (u : Thread) : Thread :=
  let cells := Vector.ofFn fun n : Fin 64 =>
    if m.getLsbD n.val && decide (n.val < q) && (u.x[n]).tag != 0 then { u.x[n] with stored := false } else u.x[n]
  { u with x := cells }

/-- R96, R101, R102: RDROP drops each kept register of its mask and no other; RMAT replays and stores the dropped ones, and leaves a mask of registers that
are live, dead, absent or kept alone; the hardware may drop a kept register by itself; a register dropped with the recipe of an LDI reads as the
immediate, and is kept again after the replay. -/
def Obligations.RecipesDropAndReplay : Prop :=
  ∀ (s : State) (id : ThreadId) (tm : Team) (t : Thread), Issuing s id tm t → s.pfx = none → ∀ (p : PReg) (a : XReg),
    let q := tm.quotaOf t.tid
    let m := pair64 (t.reg a.val) (t.reg (a.val + 1))
    (t.pred p.val = true → t.ReadsPlain q a.val → t.ReadsPlain q (a.val + 1) →
      exec (.rdrop p a) s = .next (s.passes id 4 (allDropped q m)) ∧
      ((∀ n < 64, m.getLsbD n = true → (t.cell n).tag = 0 ∨ (n < q ∧ (t.cell n).stored = true)) →
        exec (.rmat p a) s = .next (s.passes id 4 fun u => u)) ∧
      (∀ (n : Nat) (v : Word) (s1 : State), n < 64 → m = BitVec.ofNat 64 (2 ^ n) → (t.cell n).tag ≠ 0 → (q ≤ n ∨ (t.cell n).stored = false) →
        replay 4 n s = .ok (v, s1) → exec (.rmat p a) s = .next (s1.passes id 4 fun u => u))) ∧
    (∀ (n : Nat) (imm : Fin 65536) (g : PReg) (d : XReg) (w : Nat), n < q → n < 64 → n = d.val → t.isK n = false → t.pending n = false →
      (t.cell n).tag ≠ 0 → (t.cell n).stored = false → recipeOf tm t.tid (t.cell n).tag = some { word := w, payload := none, ftz := false } →
      decode w = .ok (.ldi g d imm) →
      let v := iw (if imm.val < 32768 then imm.val else (imm.val : Int) - 65536)
      readX n s = .ok (v, s.updThread id fun u => u.setCell n { u.cell n with val := v, stored := true })) ∧
    (∀ (v : State) (u k n : Nat), let th := v.thread (u, k)
      n < (v.team u).quotaOf k → (th.cell n).tag ≠ 0 → (th.cell n).stored = true → th.pending n = false →
      exec (.registerDrop u k n) v = .next (v.updThread (u, k) fun x => x.setCell n { x.cell n with stored := false }))

-- memory accesses

/-- R340: the effective address of format M: base, index by IDXM times the scale, and offset, modulo 2^64. -/
def addressOf (size : Fin 8) (xm : Fin 4) (m : MemPfx) (base : DWord) (idx : Word) : Nat :=
  let i : Int := match xm with
    | 0 => 0
    | 1 => idx.toInt
    | 2 => (idx.toNat : Int)
    | 3 => if idx.toNat % 65536 < 32768 then (idx.toNat % 65536 : Nat) else ((idx.toNat % 65536 : Nat) : Int) - 65536
  let scale : Int := if m.scale = 0 then (sizeBytes size.val : Nat) else 2 ^ (m.scale - 1)
  (((base.toNat : Int) + i * scale + m.off) % 2 ^ 64).toNat

/-- R371: the registers a memory prefix marks. -/
def memMarks (m : MemPfx) (xm : Fin 4) (idx : XReg) (b : YReg) : List Nat :=
  (if m.lb then [2 * b.val, 2 * b.val + 1] else []) ++ (if m.li && decide (xm ≠ 0) then [idx.val] else [])

/-- The address registers of format M can be read. -/
structure AddrReads (t : Thread) (q : Nat) (xm : Fin 4) (idx : XReg) (b : YReg) : Prop where
  lo : t.Reads q (2 * b.val)
  hi : t.Reads q (2 * b.val + 1)
  idx : xm ≠ 0 → t.Reads q idx.val

/-- The effective address of a thread's access. -/
def accessAddr (s : State) (t : Thread) (size : Fin 8) (xm : Fin 4) (idx : XReg) (b : YReg) : Nat :=
  addressOf size xm (memFields s.pfx) (pair64 (t.reg (2 * b.val)) (t.reg (2 * b.val + 1))) (t.reg idx.val)

/-- R143, R279: an access whose address is not a multiple of its size raises ALIGN with TRAPADDR its address, before any other check. -/
def Sys2Proof.Machine.MisalignedAccessTraps : Prop :=
  ∀ (s : State) (id : ThreadId) (tm : Team) (t : Thread), Ready s id tm t →
  ∀ (p : PReg) (size : Fin 8) (xm : Fin 4) (idx : XReg) (b : YReg) (r : XReg),
    let q := tm.quotaOf t.tid
    let va := accessAddr s t size xm idx b
    t.pred p.val = true → AddrReads t q xm idx b → va % sizeAlign size.val ≠ 0 →
    (t.FlagRoom false → (memFields s.pfx).k = false → (∀ n ∈ sizeR size r, t.Writes q n) →
      exec (.ld p size xm idx b r) s = .next (s.takeTrap id { cause := 0x03, addr := BitVec.ofNat 64 va }).leaveIssue) ∧
    (t.FlagRoom true → t.quad ≠ .helper → (∀ n ∈ sizeR size r, t.Reads q n) →
      exec (.st p size xm idx b r) s = .next (s.takeTrap id { cause := 0x03, addr := BitVec.ofNat 64 va }).leaveIssue)

/-- R143, R146, R147: the checks of an aligned access before its translation, in order: in the window, a hole, another context's region, a register block
that the access does not admit; outside it, a non-canonical address. -/
def Sys2Proof.Machine.LocationChecksTrap : Prop :=
  ∀ (s : State) (id : ThreadId) (tm : Team) (t : Thread), Issuing s id tm t → ∀ (va n align : Nat) (kind : AccKind) (onBlock watched typed : Bool)
    (extra : Loc → Option Nat), va % align = 0 →
    let fails (cause code : Nat) := locateOp va n align kind onBlock watched typed extra s = .error (.trap { cause := cause, code := code, addr := BitVec.ofNat 64 va })
    let core := (va - Config.commons) / 2 ^ 20
    let off := (va - Config.commons) % 2 ^ 20
    (inWindow va = true → (Config.cores (isDie tm.die) ≤ core ∨ Config.sliceBytes (isDie tm.die) ≤ off) → fails 0x04 0x10) ∧
    (inWindow va = true → core < Config.cores (isDie tm.die) → off < Config.sliceBytes (isDie tm.die) →
      ((s.core tm.die core).region? off = none → fails 0x04 0x10) ∧
      (∀ r, (s.core tm.die core).region? off = some r →
        (r.ctx ≠ tm.ctx → fails 0x04 0x11) ∧
        (∀ u g, r.ctx = tm.ctx → r.kind = .block u g → onBlock = false → fails 0x04 0x02))) ∧
    (inWindow va = false → canonical va = false → fails 0x05 0x0F)

/-- R143, R146, R147, R279: the checks of an access before its translation, the alignment first. -/
def Obligations.AccessChecksTrap : Prop := MisalignedAccessTraps ∧ LocationChecksTrap

/-- R422, R147, R187, R132, R174, R90: what a load of a size gives at a checked location, with its late trap, and the state it leaves. A register block
gives the words it holds, or WINDOWBUSY, after the acquire of the load's order; a typed load gives its element as FP32, any other the register words of
its bytes; an error of memory gives zeros and POISON. -/
def Sys2Proof.Machine.LoadGives (tm : Team) (m : MemPfx) (size va count : Nat) (l : Loc) (reg : Option (Nat × Region)) (vals : List Word) (late : Option TrapRec)
    (s s' : State) : Prop :=
  let fails (cause code : Nat) : Prop := vals = List.replicate count 0 ∧ late = some { cause := cause, code := code, addr := BitVec.ofNat 64 va }
  let acquired := if m.order = 1 ∧ 4 ≤ m.scope then s.setCore (s.core tm.die tm.core).acquire else s
  match reg with
  | some (off, r) => s' = acquired ∧ match blockLoad s' r off (sizeBytes size) with | some ws => vals = ws ∧ late = none | none => fails 0x04 0x01
  | none =>
    if size = 7 then
      ∃ err, typedLines l va false acquired = .ok (err, s') ∧ if err = 0 then vals = [typedRead s' (s'.ctxOf tm) l va] ∧ late = none else fails 0x06 err
    else
      ∃ bs err, readBytes l (sizeBytes size) (decide (m.order = 1) && decide (4 ≤ m.scope)) s = .ok ((bs, err), s') ∧
        if err = 0 then vals = loadWords size bs ∧ late = none else fails 0x06 err

/-- R455, R91, R90, R132: what a store of a size makes of its registers' words at a checked location, its late trap, and the state it leaves: the words of a
register block, or WINDOWBUSY; a typed element; the low bytes. -/
def Sys2Proof.Machine.StoreMakes (size va : Nat) (words : List Word) (l : Loc) (reg : Option (Nat × Region)) (late : Option TrapRec) (s s' : State) : Prop :=
  match reg with
  | some (off, r) => ∃ busy, blockPut r off words s = .ok (busy, s') ∧
      late = if busy then some { cause := 0x04, code := 0x01, addr := BitVec.ofNat 64 va } else none
  | none => late = none ∧ if size = 7 then storeTyped l va (words[0]?.getD 0) s = .ok ((), s')
      else storeBytes l ((words.flatMap fun w => bytesLE 4 w.toNat).take (sizeBytes size)) s = .ok ((), s')

/-- R422, R340, R344, R97, R99: a load whose location passes its checks begins, whatever it finds there: its registers await the values, which arrive by a
reply, counted by SETA's flag; the address registers its prefix marks are dead, the pc passes. With K, which asks for an IMM page, the registers are kept
under the recipe's index. -/
def Sys2Proof.Machine.LoadsBegin : Prop :=
  ∀ (s s1 s2 : State) (id : ThreadId) (tm : Team) (t : Thread), Ready s id tm t → tm.uid = id.1 →
  ∀ (p : PReg) (size : Fin 8) (xm : Fin 4) (idx : XReg) (b : YReg) (r : XReg) (l : Loc) (reg : Option (Nat × Region)) (vals : List Word) (late : Option TrapRec),
    let i : Instr := .ld p size xm idx b r
    let q := tm.quotaOf t.tid
    let m := memFields s.pfx
    let va := accessAddr s t size xm idx b
    let dsts := sizeR size r
    (∀ w, s.pfx = some w → pfxCode w i = none) → t.pred p.val = true → AddrReads t q xm idx b → t.FlagRoom false →
    locateOp va (sizeBytes size.val) (sizeAlign size.val) .read (decide (4 ≤ size.val) && decide (size.val ≠ 7)) true (decide (size.val = 7))
      (fun l => if m.k = true ∧ l.imm = false then some 0x04 else none) s = .ok ((l, reg), s1) →
    LoadGives tm m size.val va dsts.length l reg vals late s1 s2 →
    (m.k = false → (∀ k ∈ dsts, t.Writes q k) →
      exec i s = .next (s2.passes id (unitLen i s.pfx) fun u =>
        ((u.readied (t.homes dsts)).flies false (dsts.zip vals) late none s.steps).killed (t.marked (memMarks m xm idx b) dsts))) ∧
    (∀ w j, m.k = true → memMarks m xm idx b = [] → encode i = some w → (∀ k ∈ dsts, k < 64 ∧ t.pending k = false ∧ t.isK k = false) →
      let rcp : Recipe := { word := w, payload := s.pfx, ftz := ftzOf t.fmode }
      recordable tm t dsts rcp = some j →
      exec i s = .next ((s2.recorded id tm t j rcp).passes id (unitLen i s.pfx) fun u =>
        (u.awaits q j dsts).flies false (dsts.zip vals) late none s.steps))

/-- R337: LD.32.c loads 32 bits from the pair named by s, relaxed, and ST.32.c stores xd there. -/
def Sys2Proof.Machine.ShortLoadAndStore : Prop :=
  ∀ (s s1 s2 : State) (id : ThreadId) (tm : Team) (t : Thread), Ready s id tm t → s.pfx = none →
  ∀ (l : Bool) (a d : YReg) (lc : Loc) (reg : Option (Nat × Region)) (vals : List Word) (late : Option TrapRec),
    let q := tm.quotaOf t.tid
    let va := (pair64 (t.reg a.val) (t.reg (a.val + 1))).toNat
    let marks := lastPair l a.val
    t.Reads q a.val → t.Reads q (a.val + 1) →
    (t.Writes q d.val → t.FlagRoom false → locateOp va 4 4 .read true true false (fun _ => none) s = .ok ((lc, reg), s1) →
      LoadGives tm (memFields none) 4 va 1 lc reg vals late s1 s2 →
      exec (.ld16 l a d) s = .next (s2.passes id 2 fun u =>
        ((u.readied (t.homes [d.val])).flies false ([d.val].zip vals) late none s.steps).killed (t.marked marks [d.val]))) ∧
    (t.Reads q d.val → t.FlagRoom true → t.quad ≠ .helper → locateOp va 4 4 .write true true false (fun _ => none) s = .ok ((lc, reg), s1) →
      StoreMakes 4 va [t.reg d.val] lc reg late s1 s2 →
      exec (.st16 l a d) s = .next (s2.passes id 2 fun u => (u.flies true [] late none s.steps).killed (t.marked marks [])))

/-- R455, R340, R344: a store whose location passes its checks makes its store there and begins its acceptance, counted by SETB's flag. -/
def Sys2Proof.Machine.StoresBegin : Prop :=
  ∀ (s s1 s2 : State) (id : ThreadId) (tm : Team) (t : Thread), Ready s id tm t →
  ∀ (p : PReg) (size : Fin 8) (xm : Fin 4) (idx : XReg) (b : YReg) (r : XReg) (l : Loc) (reg : Option (Nat × Region)) (late : Option TrapRec),
    let i : Instr := .st p size xm idx b r
    let q := tm.quotaOf t.tid
    let m := memFields s.pfx
    let va := accessAddr s t size xm idx b
    (∀ w, s.pfx = some w → pfxCode w i = none) → t.pred p.val = true → AddrReads t q xm idx b → (∀ k ∈ sizeR size r, t.Reads q k) → t.FlagRoom true → t.quad ≠ .helper →
    locateOp va (sizeBytes size.val) (sizeAlign size.val) .write (decide (4 ≤ size.val) && decide (size.val ≠ 7)) true (decide (size.val = 7)) (fun _ => none) s =
      .ok ((l, reg), s1) →
    StoreMakes size.val va ((sizeR size r).map t.reg) l reg late s1 s2 →
    exec i s = .next (s2.passes id (unitLen i s.pfx) fun u => (u.flies true [] late none s.steps).killed (t.marked (memMarks m xm idx b) []))

/-- R337, R340, R344, R422, R455: LD, LD.32.c, ST and ST.32.c begin once their location passes its checks. -/
def Obligations.LoadsAndStoresBegin : Prop := LoadsBegin ∧ ShortLoadAndStore ∧ StoresBegin

/-- R147, R148, R152, R150: a location in a scratchpad, with no watch range: the access goes to the commons bytes of that slice, a read gives what memory
holds there, and the first store of an issue to its bytes changes those bytes alone. -/
def Obligations.ScratchpadAccess : Prop :=
  ∀ (s : State) (id : ThreadId) (tm : Team) (t : Thread), Issuing s id tm t →
  ∀ (va n align core off u : Nat) (kind : AccKind) (onBlock : Bool) (r : Region), va % align = 0 → inWindow va = true →
    s.window tm.die tm.ctx va = .ok (core, off, r) → r.kind = .scratch u → (s.ctxOf tm).watch = [] → s.MemOk →
    let key := 2 ^ 56 + tm.die * 2 ^ 28 + core * 2 ^ 20 + off
    locateOp va n align kind onBlock true false (fun _ => none) s = .ok (({ key := key, home := 4 }, none), s) ∧
    (s.poisoned key n = false → readBytes { key := key, home := 4 } n false s = .ok ((Memory.read s.mem key n, 0), s)) ∧
    (∀ (bs : List Byte) (is : Issue), s.issue = some is → (is.stores.all fun st => decide (st.1 + st.2.1 ≤ key) || decide (key + bs.length ≤ st.1)) = true →
      s.dirs.find? (·.key == lineKey key) = none →
      ∃ s', storeBytes { key := key, home := 4 } bs s = .ok ((), s') ∧ s'.mem = Memory.write s.mem key bs ∧
        (∀ a, a < key ∨ key + bs.length ≤ a → Memory.get s'.mem a = Memory.get s.mem a) ∧
        s'.teams = s.teams ∧ s'.cores = s.cores ∧ s'.ctxs = s.ctxs ∧ s'.dies = s.dies)

/-- R143, R160: the key of an access that needs no walk: in the commons window outside register blocks, or at a page of the core's translation cache. -/
def Sys2Proof.Machine.StandsAt (s : State) (tm : Team) (va : Nat) (kind : AccKind) (key : Nat) : Prop :=
  (inWindow va = true ∧ ∃ core off r, s.window tm.die tm.ctx va = .ok (core, off, r) ∧ (∀ u g, r.kind ≠ .block u g) ∧
    key = 2 ^ 56 + tm.die * 2 ^ 28 + core * 2 ^ 20 + off) ∨
  (inWindow va = false ∧ ∃ e, (s.core tm.die tm.core).tlb.find? (fun x => x.serves tm.ctx 0 va kind (s.ctxOf tm).checkpoint) = some e ∧
    key = let p : Pte := ⟨e.d0.toNat, e.d1.toNat⟩; p.home * 2 ^ 52 + p.phys e.level va % 2 ^ 52)

/-- R422, R455, R279, R132: whatever comes of an LD, a retirement, a wait, a park or a trap, memory stays as it is; whatever comes of an ST, every byte outside
those it stores to does: those at its address, or, typed, those its element stands in (R132). Both are said of an access that needs no walk, which would set bits of its entry (R160). -/
def Obligations.AccessesChangeTheirBytesAlone : Prop :=
  ∀ (s s' : State) (id : ThreadId) (tm : Team) (t : Thread), Ready s id tm t → s.MemOk → tm.prologue = none → (s.ctxOf tm).trapEntry ≠ 0 →
  (∀ o ∈ tm.threads, o.handler = .none) → ∀ (p : PReg) (size : Fin 8) (xm : Fin 4) (idx : XReg) (b : YReg) (r : XReg) (key : Nat),
    let va := accessAddr s t size xm idx b
    (StandsAt s tm va .read key → exec (.ld p size xm idx b r) s = .next s' → s'.mem = s.mem) ∧
    (StandsAt s tm va .write key → size ≠ 7 → exec (.st p size xm idx b r) s = .next s' →
      ∀ a, a < key ∨ key + sizeBytes size.val ≤ a → Memory.get s'.mem a = Memory.get s.mem a) ∧
    (StandsAt s tm va .write key → size = 7 → exec (.st p size xm idx b r) s = .next s' →
      ∀ l s1, locateOp va 1 1 .write false true true (fun _ => none) s = .ok ((l, none), s1) →
        ∀ a, (∀ e ∈ Num.elemPut (l.fmt / 8) (fun _ => 0) (va % 8192) 0, a ≠ granuleKey l va + e.1) → Memory.get s'.mem a = Memory.get s.mem a)

/-- R174, R344: the reply of a load, the acceptance of a write and a late reply complete the oldest access of their kind: its registers hold their values,
its flag counts down, and a late trap waits for the thread in the order of issue. -/
def Obligations.RepliesComplete : Prop :=
  ∀ (s : State) (id : ThreadId) (tm : Team) (t : Thread) (f : Flight) (pre post : List Flight), s.team? id.1 = some tm → tm.threads[id.2]? = some t →
    t.infl = pre ++ f :: post → f.op = none → f.sdsts = [] →
    let q := tm.quotaOf id.2
    let lands := s.updThread id fun u => ({ u with infl := pre ++ post }).land q f
    (f.isWrite = false → f.late = none → (∀ g ∈ pre, g.isWrite = true ∨ g.op ≠ none ∨ g.late ≠ none) →
      exec (.loadReply id.1 id.2) s = .next lands ∧
      (f.dsts = [] → f.flag = none → lands = s.updThread id fun u => { u with infl := pre ++ post }) ∧
      (∀ n w, n < 64 → n < q → f.dsts = [(n, w)] → f.flag = none →
        lands = s.updThread id fun u => { u.setCell n { u.cell n with val := w } with infl := pre ++ post })) ∧
    (f.isWrite = true → f.late = none → (∀ g ∈ pre, g.isWrite = false ∨ g.op ≠ none ∨ g.late ≠ none) →
      exec (.writeAccept id.1 id.2) s = .next lands ∧
      (∀ n, f.dsts = [] → f.flag = some n → lands = s.updThread id fun u => { u with infl := pre ++ post, f := u.f.set n (u.f[n] - 1) })) ∧
    (∀ tr, f.late = some tr → f.dsts = [] → f.flag = none → t.late = [] → (∀ g ∈ pre, g.op ≠ none ∨ g.late = none) →
      exec (.lateReply id.1 id.2) s = .next (s.updThread id fun u => { u with infl := pre ++ post, late := [(f.issued, tr)] }))

-- operations whose results come by a reply

/-- R111, R396, R409: DIV's quotient and remainder, FSFU's value. -/
def slowRow : Instr → Option LaneRow
  | .div p d a b n l => some { guard := p.val, srcs := [a.val, b.val], marks := lastRead l a, dsts := [d.val, d.val + 1]
                               out := fun R _ _ =>
                                 let x := R a.val
                                 let y := R b.val
                                 if y = 0 then ([0xFFFFFFFF, x], 0)
                                 else if n then ([wd (x.toNat / y.toNat), wd (x.toNat % y.toNat)], 0)
                                 else ([iw (x.toInt.tdiv y.toInt), iw (x.toInt.tmod y.toInt)], 0) }
  | .fsfu p d a f l k => some { row2 p d a l k id with float := true, out := fun R _ m => floats (Num.fsfu f.val m.mode m.ftz (R a.val).toNat) }
  | _ => none

/-- R111, R396, R409, R344, R424, R88, R97: DIV truncates toward zero with the remainder's sign that of the dividend, gives all ones and the dividend for a
divisor 0 and -2^31 and 0 for -2^31 by -1, and never traps on its operands. DIV and FSFU begin at once; their registers await the values, which SETA's flag counts; FSFU with K records its recipe. LDC reads its bytes at the
address in its pair of s registers, and its s registers await them, or those of a higher TID that ran the LDC in the same issue; an error of memory gives
zeros and a late POISON. -/
def Obligations.CountedOperationsBegin : Prop :=
  ∀ (s : State) (id : ThreadId) (tm : Team) (t : Thread), Ready s id tm t →
    (∀ (i : Instr) (r : LaneRow), slowRow i = some r → r.k = false → (∀ w, s.pfx = some w → pfxCode w i = none) → r.Runs s tm t → t.FlagRoom false →
      exec i s = .next (s.passes id (unitLen i s.pfx) fun u =>
        (((u.readied (t.homes r.dsts)).flies false (r.dsts.zip (r.result s tm t).1) none none s.steps).raises (r.result s tm t).2).killed
          (t.marked r.marks r.dsts))) ∧
    (∀ (i : Instr) (r : LaneRow) (w j : Nat), slowRow i = some r → r.k = true → r.marks = [] → encode i = some w → t.pred r.guard = true → t.FlagRoom false →
      (∀ n ∈ r.srcs, t.Reads (tm.quotaOf t.tid) n) → (∀ n ∈ r.dsts, n < 64 ∧ t.pending n = false ∧ t.isK n = false) →
      let rcp : Recipe := { word := w, payload := s.pfx, ftz := ftzOf t.fmode }
      recordable tm t r.dsts rcp = some j →
      exec i s = .next ((s.recorded id tm t j rcp).passes id (unitLen i s.pfx) fun u =>
        ((u.awaits (tm.quotaOf t.tid) j r.dsts).flies false (r.dsts.zip (r.result s tm t).1) none none s.steps).raises (r.result s tm t).2)) ∧
    (∀ (p : PReg) (d a : YReg) (w : Fin 4) (l : Loc) (bs : List Byte) (err : Nat) (s1 s2 s3 : State) (won : List (Nat × Word)),
      let i : Instr := .ldc p d a w
      let m := memFields s.pfx
      let n := 4 * 2 ^ w.val
      let regs := (List.range (2 ^ w.val)).map (d.val + ·)
      let va := (((pair64 (tm.s[a.val]?.getD 0) (tm.s[a.val + 1]?.getD 0)).toNat + m.off) % 2 ^ 64).toNat
      let vals := regs.zip (if err = 0 then wordsOf bs else regs.map fun _ => 0)
      (∀ w, s.pfx = some w → pfxCode w i = none) → t.pred p.val = true → t.FlagRoom false → a.val + 1 < 32 →
      (t.infl.all fun f => f.sdsts.all fun e => !(a.val == e.1 || a.val + 1 == e.1 || regs.contains e.1)) = true →
      locateOp va n n .read false true false (fun _ => none) s = .ok ((l, none), s1) →
      readBytes l n (decide (m.order = 1) && decide (4 ≤ m.scope)) s1 = .ok ((bs, err), s2) → s2.cur? = some id →
      sWinner p vals s2 = .ok (won, s3) →
      exec i s = .next (s3.passes id (unitLen i s.pfx) fun u =>
        { u.addFlag (u.clauseFlag false) true with
          infl := u.infl ++ [{ isWrite := false, flag := u.clauseFlag false, sdsts := won, issued := s.steps
                               late := if err = 0 then none else some { cause := 0x06, code := err, addr := BitVec.ofNat 64 va } }] }) ∧
      ((∀ is, s2.issue = some is → is.done.all (·.1 != id.1) = true) → won = vals ∧ s3 = s2) ∧
      (∀ is tid f, s2.issue = some is → is.done = [(id.1, tid)] → id.2 < tid → (s2.thread (id.1, tid)).pred p.val = true →
        (s2.thread (id.1, tid)).infl = [f] → f.sdsts.map (·.1) = vals.map (·.1) → won = f.sdsts ∧ s3 = s2))

-- atomics

/-- R199: what the integer operations of an atomic leave of n bits, from the old value, the operand v and CAS's new value. -/
def atomLeaves (op n old v new : Nat) : Nat :=
  let sg (x : Nat) : Int := if x < 2 ^ (n - 1) then x else (x : Int) - 2 ^ n
  match op with
  | 0 => (old + v) % 2 ^ n
  | 1 => if old ≤ v then old else v
  | 2 => if old ≤ v then v else old
  | 3 => if sg old ≤ sg v then old else v
  | 4 => if sg old ≤ sg v then v else old
  | 5 => old &&& v
  | 6 => old ||| v
  | 7 => old ^^^ v
  | 8 => v
  | 9 => if old = v then new else old
  | 10 => if old ≥ v then 0 else old + 1
  | _ => if old = 0 ∨ old > v then v else old - 1

/-- The operand of an atomic and CAS's new value, from its registers (R198). -/
def atomArgs (t : Thread) (op : Fin 32) (w : Bool) (r : XReg) : Nat × Nat :=
  let pr (n : Nat) : Nat := pairNat t.reg n
  match w, decide (op.val = 9) with
  | false, false => ((t.reg r.val).toNat, 0)
  | false, true => ((t.reg r.val).toNat, (t.reg (r.val + 1)).toNat)
  | true, false => (pr r.val, 0)
  | true, true => (pr r.val, pr (r.val + 2))

/-- R198, R383, R344, R142, R173, R305: ATOM and RED whose location passes its checks make their read-modify-write there. ATOM's registers await the old
value, which SETA's flag counts, with the late trap of its reply. RED writes no register and SETB's flag counts it; an error of memory becomes an error
record and not a trap, a host that rejects it a late ACCESS, and an outside effect of a checkpointed context is held. -/
def Sys2Proof.Machine.AtomicsBegin : Prop :=
  ∀ (s s1 s2 : State) (id : ThreadId) (tm : Team) (t : Thread), Ready s id tm t →
  ∀ (p : PReg) (op : Fin 32) (w : Bool) (b : YReg) (r : XReg) (l : Loc) (res : AtomRes),
    let q := tm.quotaOf t.tid
    let m := memFields s.pfx
    let n := if w then 8 else 4
    let va := (((pair64 (t.reg (2 * b.val)) (t.reg (2 * b.val + 1))).toNat + m.off) % 2 ^ 64).toNat
    let (v, new) := atomArgs t op w r
    let discards (x : State) : State := if m.order % 2 = 1 ∧ 4 ≤ m.scope then x.setCore (x.core tm.die tm.core).acquire else x
    let late : Option TrapRec := res.late.map fun (cause, code) => { cause := cause, code := code, addr := BitVec.ofNat 64 va }
    let srcs := if op.val = 9 then (if w then [r.val, r.val + 1, r.val + 2, r.val + 3] else [r.val, r.val + 1])
      else if w then [r.val, r.val + 1] else [r.val]
    let dsts := if w then [r.val, r.val + 1] else [r.val]
    let marks := if m.lb then [2 * b.val, 2 * b.val + 1] else []
    let begins (x : State) (tr : Option TrapRec) : State :=
      x.passes id (unitLen (.red p op w b r) s.pfx) fun u => (u.flies true [] tr none s.steps).killed (t.marked marks [])
    t.pred p.val = true → t.quad ≠ .helper → t.Reads q (2 * b.val) → t.Reads q (2 * b.val + 1) → (∀ k ∈ srcs, t.Reads q k) →
    (t.FlagRoom false → (∀ k ∈ dsts, t.Writes q k) → (∀ x, s.pfx = some x → pfxCode x (.atom p op w b r) = none) →
      locateOp va n n .atomic false true false (atomRefused (s.ctxOf tm) tm.die op.val false) s = .ok ((l, none), s1) →
      atomicAt l n op.val m.order m.scope v new true (discards s1) = .ok (res, s2) →
      exec (.atom p op w b r) s = .next (s2.passes id (unitLen (.atom p op w b r) s.pfx) fun u =>
        ((u.readied (t.homes dsts)).flies false (dsts.zip [wd res.old, wd (res.old / 2 ^ 32)]) late none s.steps).killed (t.marked marks dsts))) ∧
    (t.FlagRoom true → (∀ x, s.pfx = some x → pfxCode x (.red p op w b r) = none) →
      locateOp va n n .atomic false true false (atomRefused (s.ctxOf tm) tm.die op.val true) s = .ok ((l, none), s1) →
      ((s.ctxOf tm).outside tm.die l = false → atomicAt l n op.val m.order m.scope v new false (discards s1) = .ok (res, s2) →
        exec (.red p op w b r) s = .next (
          if res.late = some (0x06, 0x13) then begins (s2.report tm.die { kind := 5, ctx := tm.ctx, code := 0x13, a := lineKey l.key % 2 ^ 52 }) none
          else begins s2 (if res.late.map (·.1) = some 0x04 then late else none))) ∧
      ((s.ctxOf tm).outside tm.die l = true →
        holdEffect { key := l.key, data := bytesLE n v, red := some (op.val, w), order := m.order, scope := m.scope } (discards s1) = .ok ((), s2) →
        exec (.red p op w b r) s = .next (begins s2 none)))

/-- R199, R154, R173, R142: the read-modify-write of an integer atomic gives the old value and leaves the operation's, in the bytes of its location alone; of an
FP32 add that no other part joins, the sum rounded to nearest even. -/
def Sys2Proof.Machine.AtomicsReadModifyWrite : Prop :=
  ∀ (s : State) (l : Loc) (n op order scope v new : Nat) (ret : Bool), l.coh ≠ 2 → l.home ≠ 3 → n = 4 ∨ n = 8 → v < 2 ^ (8 * n) → new < 2 ^ (8 * n) →
    s.MemOk → l.key % n = 0 → s.poisoned l.key n = false → s.dirs.find? (·.key == lineKey l.key) = none → s.cur?.isSome = true →
    (op < 12 ∨ (op = 12 ∧ n = 4 ∧ s.merges = [])) →
    let old := natLE (Memory.read s.mem l.key n)
    let leaves := if op = 12 then (Num.fadd Num.fp32 {} old v).1 else atomLeaves op (8 * n) old v new
    ∃ s', atomicAt l n op order scope v new ret s = .ok ({ old := old }, s') ∧ natLE (Memory.read s'.mem l.key n) = leaves ∧
      (∀ a, a < l.key ∨ l.key + n ≤ a → Memory.get s'.mem a = Memory.get s.mem a) ∧
      s'.teams = s.teams ∧ s'.ctxs = s.ctxs ∧ s'.dies = s.dies ∧ s'.issue = s.issue

/-- R142, R154, R173, R198, R199, R344, R383: ATOM and RED, and the read-modify-write they make. -/
def Obligations.AtomicsRun : Prop := AtomicsBegin ∧ AtomicsReadModifyWrite

/-- R155, R193, R187, R391: FENCE only passes, and an acquiring one at cluster scope or wider discards the core's first-level lines but those of IMM
pages. CINV and CFLUSH discard the line of their address, CWB and CFLUSH write a line back that their die holds modified in the pair, and
a commons address is left alone. PFETCH fills its line; with an unreadable base or a failed check it only passes. -/
def Obligations.FencesAndCacheOperations : Prop :=
  ∀ (s s1 : State) (id : ThreadId) (tm : Team) (t : Thread), Ready s id tm t →
  ∀ (p : PReg), t.pred p.val = true →
    (∀ (eng : Bool) (kind : Fin 4) (scope : Fin 16), s.pfx = none →
      exec (.fence p eng kind scope) s =
        .next ((if kind ≠ 1 ∧ 4 ≤ scope.val then s.setCore (s.core tm.die tm.core).acquire else s).passes id 4 fun u => u)) ∧
    (∀ (xm : Fin 4) (idx : XReg) (b : YReg) (l : Loc) (reg : Option (Nat × Region)),
      let q := tm.quotaOf t.tid
      let m := memFields s.pfx
      let va := accessAddr s t 7 xm idx b
      let n := 4 + (if s.pfx.isSome then 4 else 0)
      let marks (u : Thread) : Thread := u.killed (t.marked (memMarks m xm idx b) [])
      let drops (x : State) : State := x.setCore ((x.core tm.die tm.core).dropLine l.key)
      (∀ w, s.pfx = some w → pfxCode w (.cinv p xm idx b) = none) →
      (AddrReads t q xm idx b → locateOp va 1 1 .read false false false (fun _ => none) s = .ok ((l, reg), s1) →
        (l.home = 4 → exec (.cflush p xm idx b) s = .next (s1.passes id n marks) ∧ exec (.cinv p xm idx b) s = .next (s1.passes id n marks) ∧
          exec (.cwb p xm idx b) s = .next (s1.passes id n marks) ∧ exec (.pfetch p xm idx b) s = .next (s1.passes id n marks)) ∧
        (l.home ≠ 4 → exec (.cinv p xm idx b) s = .next ((drops s1).passes id n marks)) ∧
        (l.home ≠ 4 → l.coh ≠ 2 ∨ l.home = tm.die → exec (.cflush p xm idx b) s = .next ((drops s1).passes id n marks) ∧
          exec (.cwb p xm idx b) s = .next (s1.passes id n marks)) ∧
        (∀ e d, l.home ≠ 4 → l.coh = 2 → l.home ≠ tm.die → s1.dirs.find? (·.key == lineKey l.key) = some e → e.st = .modified tm.die d →
          let back (x : State) (rest : List DirEntry) : State :=
            { x with mem := Memory.write x.mem e.key d, dirs := rest ++ s1.dirs.filter (·.key != e.key) }
          exec (.cflush p xm idx b) s = .next ((back (drops s1) []).passes id n marks) ∧
          exec (.cwb p xm idx b) s = .next ((back s1 [{ e with st := .exclusive tm.die }]).passes id n marks)) ∧
        (∀ bs s2, l.home ≠ 4 → readBytes { l with key := lineKey l.key } 1 false s1 = .ok (bs, s2) →
          exec (.pfetch p xm idx b) s = .next (s2.passes id n marks))) ∧
      (∀ e, AddrReads t q xm idx b → locateOp va 1 1 .read false false false (fun _ => none) s = .error e →
        (∃ r, e = .trap r) ∨ (∃ k r, e = .park va k r none) → exec (.pfetch p xm idx b) s = .next (s.passes id n marks)) ∧
      ((t.cell (2 * b.val)).dead = true → 2 * b.val < q → t.isK (2 * b.val) = false → t.pending (2 * b.val) = false →
        t.Reads q (2 * b.val + 1) → (xm = 0 ∨ t.Reads q idx.val) → m.lb = false → m.li = false →
        exec (.pfetch p xm idx b) s = .next (s.passes id n fun u => u)))

-- collectives

/-- What a collective brings to its rendezvous and takes from it: its guard, the registers it reads, what it brings from their values and
the thread, the registers, the predicate and the flags it takes from the results, and the results of each member. -/
structure CollRow where
  guard : Nat
  srcs : List Nat
  marks : List Nat := []
  brings : Team → Thread → List Word
  dsts : List Nat := []
  pd : Option Nat := none
  flags : Bool := false
  quad : Bool := false
  results : Team → List Member → Nat → List Word

/-- What the helpers of a thread's quad that wait at their EXIT supply for a register that holds a value, by place in the quad (R40). -/
def helpersBring (tm : Team) (t : Thread) (n : Nat) : List Word :=
  [0, 1, 2, 3].map fun k => let o := t.tid / 4 * 4 + k
    if waitsAtExit tm o then ((tm.threads[o]?.map fun h => (h.cell n).val).getD 0) else 0

/-- The collectives (R376, R395, R414, R429, R451, R468). -/
def collRow (pfx : Option Nat) (ftz : Bool) : Instr → Option CollRow
  | .shfl p d a b mode l => some { guard := p.val, srcs := [a.val, b.val], marks := lastRead l a, brings := fun _ t => [t.reg a.val, t.reg b.val]
                                   dsts := [d.val], results := shflResult mode.val }
  | .vote p d a n mode => some { guard := p.val, srcs := [], brings := fun _ t => [if t.pred a.val then (if n then 0 else 1) else if n then 1 else 0]
                                 dsts := if mode = 2 then [d.val, d.val + 1] else if mode = 3 then [d.val] else []
                                 pd := if mode.val < 2 then some d.val else none, results := voteResult mode.val }
  | .matchAny p d a l => some { guard := p.val, srcs := [a.val], marks := lastRead l a, brings := fun _ t => [t.reg a.val]
                                dsts := [d.val, d.val + 1], results := matchAnyResult }
  | .matchAll p d a b l => some { guard := p.val, srcs := [a.val], marks := lastRead l a, brings := fun _ t => [t.reg a.val]
                                  dsts := [d.val, d.val + 1], pd := some b.val, results := matchAllResult }
  | .gred p d a c l => some { guard := p.val, srcs := [a.val], marks := lastRead l a, brings := fun _ t => [t.reg a.val, if ftz then 1 else 0]
                              dsts := [d.val], flags := true, results := gscanResult c.val pfx fun _ => 64 }
  | .gscan p d a c e l => some { guard := p.val, srcs := [a.val], marks := lastRead l a, brings := fun _ t => [t.reg a.val, if ftz then 1 else 0]
                                 dsts := [d.val], flags := true, results := gscanResult c.val pfx fun j => if e then j else j + 1 }
  | .bfly p d a m l => some { guard := p.val, srcs := [a.val], marks := lastRead l a, brings := fun _ t => [t.reg a.val, if ftz then 1 else 0]
                              dsts := [d.val], flags := true, results := bflyResult m.val }
  | .ddx p d a f l => some { guard := p.val, srcs := [a.val], marks := lastRead l a, brings := fun tm t => [t.reg a.val, if ftz then 1 else 0] ++ helpersBring tm t a.val
                             dsts := [d.val], flags := true, quad := true, results := derivResult false f }
  | .ddy p d a f l => some { guard := p.val, srcs := [a.val], marks := lastRead l a, brings := fun tm t => [t.reg a.val, if ftz then 1 else 0] ++ helpersBring tm t a.val
                             dsts := [d.val], flags := true, quad := true, results := derivResult true f }
  | _ => none

/-- The thread takes its results: registers, then the predicate or the flags from the last word; its marks take effect. -/
def CollRow.takes (r : CollRow) (t : Thread) (res : List Word) (u : Thread) : Thread :=
  let u := u.gets (r.dsts.zip res)
  let last := res[r.dsts.length]?.getD 0
  let u := match r.pd with | some n => if n = 0 then u else { u with p := u.p.setIfInBounds n (decide (last ≠ 0)) } | none => u
  (if r.flags then u.raises last.toNat else u).killed (t.marked r.marks r.dsts)

/-- R34, R35, R40: a collective completes for a thread whose results wait, and for the last member to arrive, which gives every member its results; an
earlier one waits with its values; a false guard arrives too, as inactive, and writes nothing; when every other member waits at another gang
collective, each of them traps. -/
def Sys2Proof.Machine.CollectivesRendezvous : Prop :=
  ∀ (s : State) (id : ThreadId) (tm : Team) (t : Thread), Ready s id tm t → ∀ (i : Instr) (r : CollRow) (arr : List Member),
    collRow s.pfx (ftzOf t.fmode) i = some r → (∀ w, s.pfx = some w → pfxCode w i = none) → (r.quad = false → tm.declared ≠ 0) →
    (∀ p d a m l, i = .bfly p d a m l → m.val < tm.width) → (∀ n ∈ r.srcs, t.Reads (tm.quotaOf t.tid) n) →
    (∀ n ∈ r.dsts, t.Writes (tm.quotaOf t.tid) n) →
    (r.quad = true → ∀ o ∈ tm.threads, o.status = .blocked .exitHelper → o.Plain) →
    let active := t.pred r.guard
    let vals := if active || r.quad then r.brings tm t else []
    let others := peers tm t.tid r.quad
    let completes (v : State) (res : List Word) : State := v.passes id (unitLen i s.pfx) fun u =>
      if active then r.takes t res u else u.killed (t.marked r.marks r.dsts)
    (∀ res, t.reply = some res → res.length = r.dsts.length + (if r.flags || r.pd.isSome then 1 else 0) → exec i s = .next (completes s res)) ∧
    (t.reply = none → others.filterMap (·.arrivedAt r.quad t.pc) = arr →
      (arr.length = others.length →
        let res := r.results tm (⟨t.tid, active, vals⟩ :: arr)
        (active = true → (res t.tid).length = r.dsts.length + (if r.flags || r.pd.isSome then 1 else 0)) →
        exec i s = .next (completes (s.updTeam id.1 fun x =>
          arr.foldl (fun y m => y.updThread m.tid fun o => { o with reply := some (res m.tid) }) x) (res t.tid))) ∧
      (arr.length ≠ others.length → r.quad = true ∨ others.all (·.atGangColl) = false →
        exec i s = .next ((s.updThread id fun u => { u with status := .blocked (.coll r.quad active vals) }).leaveIssue.cvShort id.1)) ∧
      (arr.length ≠ others.length → r.quad = false → others.all (·.atGangColl) = true →
        exec i s = .next (((s.trapAll id.1 (others.map (·.tid)) { cause := 0x01, code := 0x03 }).takeTrap id
          { cause := 0x01, code := 0x03 }).leaveIssue)))

/-- The tree of R141 over 2^h ranks from a lowest one: the halves' values combined, the one that is present, or none. -/
def rankTree (combine : Word → Word → Word × Nat) (v : Nat → Option (Word × Nat)) : Nat → Nat → Option (Word × Nat)
  | 0, lo => v lo
  | h + 1, lo =>
    match rankTree combine v h lo, rankTree combine v h (lo + 2 ^ h) with
    | some (x, fx), some (y, fy) => some ((combine x y).1, fx ||| fy ||| (combine x y).2)
    | some x, none => some x
    | none, y => y

/-- R451, R468, R429, R414, R369, R141, R376, R395, R40: the results of the collectives, for a member m among the members ms, where `atRank r` is the active member
of rank r of its gang; a quad member at its EXIT supplies the word the last to arrive brought for it (log entry 82). -/
def Sys2Proof.Machine.CollectiveResults : Prop :=
  ∀ (tm : Team) (ms : List Member) (me : Nat) (m : Member), ms.find? (·.tid == me) = some m → 0 < tm.width → tm.width ≤ 64 →
    let j := me % tm.width
    let q := (m.val 1).toNat
    let atRank (r : Nat) : Option Member := rankOf tm ms me r
    let got (o : Option Member) : List Word := [match o with | some o => o.val 0 | none => m.val 0]
    let act := ms.filter (·.active)
    (shflResult 0 tm ms me = got (atRank q) ∧ shflResult 1 tm ms me = got (atRank (j ^^^ q)) ∧
      shflResult 2 tm ms me = got (if q ≤ j then atRank (j - q) else none) ∧ shflResult 3 tm ms me = got (atRank (j + q))) ∧
    (voteResult 0 tm ms me = [if ∃ o ∈ act, o.val 0 ≠ 0 then 1 else 0] ∧ voteResult 1 tm ms me = [if ∀ o ∈ act, o.val 0 ≠ 0 then 1 else 0] ∧
      voteResult 3 tm ms me = [wd (act.filter (·.val 0 ≠ 0)).length]) ∧
    (∃ v w u : Nat, v < 2 ^ 64 ∧ w < 2 ^ 64 ∧ u < 2 ^ 64 ∧
      (voteResult 2 tm ms me = [wd v, wd (v / 2 ^ 32)] ∧ ∀ r, v.testBit r = true ↔ ∃ o, atRank r = some o ∧ o.val 0 ≠ 0) ∧
      (matchAnyResult tm ms me = [wd w, wd (w / 2 ^ 32)] ∧ ∀ r, w.testBit r = true ↔ ∃ o, atRank r = some o ∧ o.val 0 = m.val 0) ∧
      (∀ r, u.testBit r = true ↔ ∃ o, atRank r = some o) ∧
      ((∀ a ∈ act, ∀ b ∈ act, a.val 0 = b.val 0) → matchAllResult tm ms me = [wd u, wd (u / 2 ^ 32), 1]) ∧
      (¬ (∀ a ∈ act, ∀ b ∈ act, a.val 0 = b.val 0) → matchAllResult tm ms me = [0, 0, 0])) ∧
    (∀ (code : Nat) (pfx : Option Nat) (upto : Nat → Nat),
      let fm := floatMods pfx (m.val 1 != 0)
      let v (r : Nat) : Option (Word × Nat) := if r < upto j then (atRank r).map fun o => (flushIn code fm.ftz (o.val 0), 0) else none
      gscanResult code pfx upto tm ms me =
        (match rankTree (gcombine code fm) v 6 0 with | some (w, fl) => [w, wd fl] | none => [gidentity code, 0])) ∧
    (∀ (fm : Num.FMods) (a b : Word), (gcombine 0 fm a b).1 = wd (a.toNat + b.toNat) ∧ (gcombine 1 fm a b).1 = iw (min a.toInt b.toInt) ∧
      (gcombine 2 fm a b).1 = wd (min a.toNat b.toNat) ∧ (gcombine 3 fm a b).1 = iw (max a.toInt b.toInt) ∧
      (gcombine 4 fm a b).1 = wd (max a.toNat b.toNat) ∧ (gcombine 5 fm a b).1 = wd (a.toNat &&& b.toNat) ∧
      (gcombine 6 fm a b).1 = wd (a.toNat ||| b.toNat) ∧ (gcombine 7 fm a b).1 = wd (a.toNat ^^^ b.toNat)) ∧
    (∀ d : Nat, bflyResult d tm ms me = match atRank (j ^^^ d) with
      | none => [m.val 0, 0]
      | some o =>
        let fm : Num.FMods := { ftz := m.val 1 != 0 }
        let r := if j / d % 2 = 0 then Num.fadd Num.fp32 fm (m.val 0).toNat (o.val 0).toNat else Num.fsub Num.fp32 fm (o.val 0).toNat (m.val 0).toNat
        [wd r.1, wd r.2]) ∧
    (∀ (y fine : Bool),
      let k := me % 4
      let val (i : Nat) : Option Word := match ms.find? (·.tid == me - k + i) with
        | some o => some (o.val 0)
        | none => if waitsAtExit tm (me - k + i) then ms.head?.map (·.val (2 + i)) else none
      let row := if fine && decide (2 ≤ k) then 2 else 0
      let col := if fine && decide (k % 2 = 1) then 1 else 0
      let (lo, hi) := if y then (col, col + 2) else (row, row + 1)
      derivResult y fine tm ms me = match val lo, val hi with
        | some a, some b => let r := Num.fsub Num.fp32 { ftz := m.val 1 != 0 } b.toNat a.toNat; [wd r.1, wd r.2]
        | _, _ => [0, 32])

/-- R34, R35, R40, R141, R369, R376, R395, R414, R429, R451, R468: the gang and quad collectives, their rendezvous and their results. -/
def Obligations.CollectivesRun : Prop := CollectivesRendezvous ∧ CollectiveResults


-- DOTP4 and QUOTA

/-- R377: the chain of DOTP4 over elements 0 to k, and its flags. -/
def dotChain (fm : Num.FMods) (x y : Nat → Word) : Nat → Nat × Nat
  | 0 => Num.fmul Num.fp32 fm (x 0).toNat (y 0).toNat
  | k + 1 =>
    let r := dotChain fm x y k
    let u := Num.ffma Num.fp32 fm (x (k + 1)).toNat (y (k + 1)).toNat r.1
    (u.1, r.2 ||| u.2)

/-- The issuing thread waits for w, off its bundle (R55). -/
def waitsFor (s : State) (id : ThreadId) (w : Wait) : State :=
  ((s.updThread id fun u => { u with status := .blocked w }).leaveIssue).cvShort id.1

/-- A gang's quota request answered: each of its threads that is not gone goes on (R94). -/
def quotaGranted (s : State) (uid g : Nat) : State :=
  s.updTeam uid fun tm => { tm with quotaQ := tm.quotaQ.filter (· != g)
                                    threads := tm.threads.map fun o => if tm.gangNo o.tid == g && !o.gone then { o with reply := some [] } else o }

/-- R93, R94, R95, R444, R377: DOTP4 gives its chain. QUOTA, for the last thread of its gang: a quota that leaves another gang no word traps every live thread of
the gang; a shrink, and a growth with room and no request before it, take effect at once; a growth without room waits in arrival order until its grant.
A new quota n: registers from the smaller quota up to the larger hold no value, those below keep everything. In a handler QUOTA is ILLEGAL. -/
def Obligations.QuotaChangesAndDotChain : Prop :=
  (∀ (s : State) (id : ThreadId) (tm : Team) (t : Thread) (p : PReg) (d a b : XReg) (l : Bool), Ready s id tm t → s.pfx = none → t.pred p.val = true →
    let q := tm.quotaOf t.tid
    (∀ k < 4, t.Reads q (a.val + k) ∧ t.Reads q (b.val + k) ∧ d.val ≠ a.val + k ∧ d.val ≠ b.val + k) → t.Writes q d.val →
    let r := dotChain { ftz := ftzOf t.fmode } (fun k => t.reg (a.val + k)) (fun k => t.reg (b.val + k)) 3
    exec (.dotp4 p d a b l) s = .next (s.passes id 4 fun u => ((u.gets [(d.val, wd r.1)]).raises r.2).killed
      (t.marked (if l then [a.val, a.val + 1, a.val + 2, a.val + 3] else []) [d.val]))) ∧
  (∀ (s : State) (id : ThreadId) (tm : Team) (t : Thread) (nf : Fin 64), Ready s id tm t →
    let n := nf.val + 1
    let g := tm.gangNo t.tid
    let Q := (tm.gang g).quota
    let others := peers tm t.tid false
    let arr := others.filterMap (·.arrivedAt false t.pc)
    let shared := (tm.gangs.length - 1) * tm.width
    (t.handler ≠ .none → exec (.quota nf) s = .next (s.takeTrap id { cause := 0x01 }).leaveIssue) ∧
    (t.handler = .none → t.gone = false → (∀ r, t.reply = some r → exec (.quota nf) s = .next (s.passes id 4 fun u => u)) ∧
      (t.reply = none → arr.length = others.length →
        (tm.pool < n * tm.width + shared → n * tm.width ≠ 0 → exec (.quota nf) s =
          .next (((s.trapAll id.1 (others.map (·.tid)) { cause := 0x01, code := 0x07 }).takeTrap id { cause := 0x01, code := 0x07 }).leaveIssue)) ∧
        (∀ s1, (n < Q → ∀ o ∈ tm.threads, o.Plain ∧ tm.threads[o.tid]? = some o) → n * tm.width + shared ≤ tm.pool → s.applyQuota id.1 g n = some s1 → tm.quotaQ = [] →
          n ≤ Q ∨ n * tm.width + tm.usedBy g ≤ tm.pool → exec (.quota nf) s = .next ((quotaGranted s1 id.1 g).passes id 4 fun u => u)) ∧
        (n * tm.width + shared ≤ tm.pool → Q < n → tm.pool < n * tm.width + tm.usedBy g → tm.quotaQ = [] → tm.usedBy g ≤ tm.pool →
          (∃ j < tm.gangs.length, j ≠ g ∧ tm.gangLive j = true) →
          exec (.quota nf) s = .next (waitsFor (s.updTeam id.1 fun x => { x with quotaQ := [g] }) id (.coll false true [wd n])))) ∧
      (t.reply = none → arr.length ≠ others.length → others.all (·.atGangColl) = false → Q ≤ n →
        exec (.quota nf) s = .next (waitsFor s id (.coll false true [wd n]))))) ∧
  (∀ (s s1 : State) (uid g : Nat) (rest : List Nat) (tm : Team), s.team? uid = some tm → tm.quotaQ = g :: rest → g ∉ rest →
    let n := quotaWanted tm g
    n * tm.width + tm.usedBy g ≤ tm.pool → s.applyQuota uid g n = some s1 → exec (.quotaGrant uid g) s = .next (quotaGranted s1 uid g)) ∧
  (∀ (s s1 : State) (uid g n : Nat) (tm : Team), s.team? uid = some tm → g < tm.gangs.length → s.applyQuota uid g n = some s1 →
    let Q := (tm.gang g).quota
    ((s1.team uid).gang g).quota = n ∧ s1.mem = s.mem ∧
    (∀ j, j ≠ g → ((s1.team uid).gang j).quota = (tm.gang j).quota ∧ ((s1.team uid).gang j).prio = (tm.gang j).prio) ∧
    (∀ (k : Nat) (t : Thread), tm.threads[k]? = some t → t.status ≠ .ended → tm.gangNo t.tid = g →
      ∃ t', (s1.team uid).threads[k]? = some t' ∧ t'.p = t.p ∧ t'.f = t.f ∧ t'.pc = t.pc ∧ t'.k = t.k ∧
        (∀ r, r < 64 → r < min n Q → t'.cell r = t.cell r) ∧
        (∀ r, r < 64 → min n Q ≤ r → r < max n Q → (t'.cell r).dead = true ∧ (t'.cell r).stored = false ∧ (t'.cell r).tag = (t.cell r).tag)))

-- barriers, phasers and locks

/-- A phaser member that has not announced its departure, in a mode (R228). -/
def memberOf (s : State) (die num : Nat) (id : ThreadId) (modes : List Nat) (ph : Phaser) (m : PhMember) : Prop :=
  s.phaser? die num = some ph ∧ ph.member? id.1 id.2 = some m ∧ m.leaving = false ∧ m.mode ∈ modes

/-- R226 to R231, R384, R412, R441, R442: BAR and GBAR complete for the last thread and wait for the others, and let a thread go once its phase has passed; PHREG joins a
phaser with the next phase its own, PHSIG signals and takes its phase's number, PHWAIT goes on once the counter has reached a phase, PHDROP leaves; the
last signal of a phase advances the counter. -/
def Obligations.BarriersAndPhasers : Prop :=
  (∀ (s : State) (id : ThreadId) (tm : Team) (t : Thread) (p : PReg), s.cur? = some id → s.team? id.1 = some tm → tm.threads[id.2]? = some t →
    t.tid = id.2 → t.mstep.msb = false → t.pred p.val = true →
    let members := (tm.threads.filter fun o => !o.gone).map (·.tid)
    let adopts (u : Thread) : Thread := { u with fmode := tm.fmode, mfmt := tm.mfmt }
    (t.arrKind ≠ 1 → members ≠ [] → (∀ k ∈ members, k = t.tid ∨ k ∈ tm.bsignals) →
      exec (.bar p) s = .next ((s.updTeam id.1 fun x => { x with bphase := x.bphase + 1, bsignals := [] }).passes id 4 adopts)) ∧
    (t.arrKind ≠ 1 → (∃ k ∈ members, k ≠ t.tid ∧ k ∉ tm.bsignals) →
      exec (.bar p) s = .next (waitsFor ((s.updTeam id.1 fun x => { x with bsignals := t.tid :: x.bsignals }).updThread id fun u =>
        { u with arrKind := 1, arrVal := tm.bphase + 1 }) id .bar)) ∧
    (t.arrKind = 1 → (tm.bphase - t.arrVal).msb = false → exec (.bar p) s = .next (s.passes id 4 adopts)) ∧
    (t.arrKind = 1 → (tm.bphase - t.arrVal).msb = true → exec (.bar p) s = .next (waitsFor s id .bar))) ∧
  (∀ (s : State) (id : ThreadId) (tm : Team) (t : Thread) (g : Grid) (p : PReg), Issuing s id tm t → s.grid? tm.grid = some g → g.lrec.gridsync = true →
    t.pred p.val = true →
    let comes (x : State) : State := if t.arrKind = 2 then x else x.updThread id fun u => { u with arrKind := 2, arrVal := g.gbarGen }
    let acquires (x : State) : State := x.setCore (x.core tm.die tm.core).acquire
    let after := (comes s).gbarTeam id.1
    (t.arrKind = 2 → t.arrVal ≠ g.gbarGen → exec (.gbar p) s = .next ((acquires s).passes id 4 fun u => u)) ∧
    (t.arrKind ≠ 2 ∨ t.arrVal = g.gbarGen → (after.gridOf (after.team id.1)).gbarGen = g.gbarGen →
      exec (.gbar p) s = .next (waitsFor after id .gbar)) ∧
    (t.arrKind ≠ 2 ∨ t.arrVal = g.gbarGen → (after.gridOf (after.team id.1)).gbarGen ≠ g.gbarGen →
      exec (.gbar p) s = .next ((acquires after).passes id 4 fun u => u)) ∧
    ((∀ o ∈ tm.threads, o.gone = true ∨ (o.arrKind = 2 ∧ o.arrVal = g.gbarGen)) → (∃ o ∈ tm.threads, o.gone = false) → tm.gbarArrived = false →
      (g.gbar + 1 + g.ended = g.lrec.x * g.lrec.y * g.lrec.z → ∃ g', (s.gbarTeam id.1).grid? tm.grid = some g' ∧ g'.gbarGen = g.gbarGen + 1 ∧ g'.gbar = 0) ∧
      (g.gbar + 1 + g.ended ≠ g.lrec.x * g.lrec.y * g.lrec.z → ∃ g', (s.gbarTeam id.1).grid? tm.grid = some g' ∧ g'.gbarGen = g.gbarGen ∧ g'.gbar = g.gbar + 1))) ∧
  (∀ (s : State) (id : ThreadId) (tm : Team) (t : Thread), Ready s id tm t → ∀ (p : PReg) (d a b : XReg) (mode : Fin 64) (l : Bool) (c : Context),
    let q := tm.quotaOf t.tid
    let num := c.phBase + (t.reg a.val).toNat
    let marks := t.marked (lastRead l a) []
    t.pred p.val = true → t.Reads q a.val → s.ctx? tm.die tm.ctx = some c → (t.reg a.val).toNat < c.phCount → c.phCount ≤ 4096 →
    (∀ ph : Phaser, t.Writes q d.val → (∀ w, s.pfx = some w → pfxCode w (.phreg p d a mode l) = none) →
      ph = (s.phaser? tm.die num).getD { die := tm.die, num := num, scope := match s.pfx with | some w => min (memPfx w).scope 6 | none => 2 } →
      ph.member? id.1 id.2 = none →
      (s.phasers.filter fun o => o.die == tm.die && o.num != num && o.members.any (·.team == id.1)).length < 16 →
      let first := if ph.signalled then ph.counter + 1 else 0
      exec (.phreg p d a mode l) s = .next ((s.setPhaser { ph with members := ph.members ++
        [{ team := id.1, tid := id.2, mode := mode.val, next := first, pending := ph.signalled }] }).passes id (unitLen (.phreg p d a mode l) s.pfx)
          fun u => (u.gets [(d.val, first)]).killed (t.marked (lastRead l a) [d.val]))) ∧
    (∀ ph m, s.pfx = none → t.Writes q d.val → memberOf s tm.die num id [1, 3] ph m →
      (ph.counter = m.next → exec (.phsig p d a l) s = .next ((s.setPhaser (Phaser.step { ph.updMember id.1 id.2 (fun (m : PhMember) => { m with next := m.next + 1 }) with
          signals := ph.signals + 1, signalled := true })).passes id 4 fun u => (u.gets [(d.val, m.next)]).killed (t.marked (lastRead l a) [d.val]))) ∧
      (ph.counter ≠ m.next → exec (.phsig p d a l) s = .next (waitsFor s id .phsig))) ∧
    (∀ ph m, s.pfx = none → t.Reads q b.val → memberOf s tm.die num id [2, 3] ph m →
      ((ph.counter - t.reg b.val).msb = false → exec (.phwait p a b l) s = .next
        ((if 4 ≤ ph.scope then s.setCore (s.core tm.die tm.core).acquire else s).passes id 4 fun u => u.killed marks)) ∧
      ((ph.counter - t.reg b.val).msb = true → exec (.phwait p a b l) s = .next (waitsFor s id .phwait))) ∧
    (∀ ph m, s.pfx = none → memberOf s tm.die num id [m.mode] ph m →
      exec (.phdrop p a l) s = .next ((s.setPhaser (ph.drop id.1 id.2)).passes id 4 fun u => u.killed marks))) ∧
  (∀ ph : Phaser, let n := (ph.members.filter fun m => (m.mode == 1 || m.mode == 3) && !m.pending).length
    (n ≠ 0 → ph.signals = n → ph.step.counter = ph.counter + 1 ∧ ph.step.signals = 0 ∧ ∀ m ∈ ph.step.members, m.pending = false ∧ m.leaving = false) ∧
    (n ≠ 0 → ph.signals ≠ n → ph.step.counter = ph.counter ∧ ph.step.signals = ph.signals))

/-- R232, R233, R427: LOCK takes a free lock and writes 1 to its word; behind a holder it queues and waits, and waits on while it is queued; a granted waiter
goes on. UNLOCK of the holder grants the oldest waiter, and with none frees the lock and writes 0; of another it is late ACCESS with NOTHOLDER. A LOCK that finds its
node full is retried by the hardware. -/
def Obligations.LocksAreQueued : Prop :=
  (∀ (s s1 : State) (id : ThreadId) (tm : Team) (t : Thread), Ready s id tm t → ∀ (p : PReg) (a : XReg) (l : Bool) (va : Nat) (loc : Loc),
    let m := memFields s.pfx
    let me : LockId := { ctxDie := tm.die, ctx := tm.ctx, grid := (s.gridOf tm).num, team := tm.num, tid := id.2 }
    let marks := t.marked (marksOf (.lock p a l) s.pfx) []
    let n := unitLen (.lock p a l) s.pfx
    let acquires (x : State) : State := if 4 ≤ m.scope then x.setCore (x.core tm.die tm.core).acquire else x
    let word (x : State) (v : Nat) : State := x.cachedWrite tm.die tm.core loc.key (bytesLE 8 v)
    t.pred p.val = true → t.quad ≠ .helper → (∀ w, s.pfx = some w → pfxCode w (.lock p a l) = none ∧ pfxCode w (.unlock p a l) = none) →
    (∀ k ∈ marksOf (.lock p a l) s.pfx, t.Reads (tm.quotaOf t.tid) k) → lockLoc a s = .ok ((va, loc), s1) →
    (s1.lock? loc.key = none →
      exec (.lock p a l) s = .next ((acquires (word (s1.setLock { key := loc.key, holder := some me }) 1)).passes id n fun u => u.killed marks) ∧
      exec (.unlock p a l) s = .next (s1.passes id n fun u =>
        ({ u with infl := u.infl ++ [{ isWrite := true, flag := none, issued := s.steps
                                       late := some { cause := 0x04, code := 0x1F, addr := BitVec.ofNat 64 va } }] } : Thread).killed marks)) ∧
    (∀ r h, s1.lock? loc.key = some r → r.holder = some h →
      (h ≠ me → me ∉ r.fifo → s1.nodeWaiters loc.key < 1024 →
        exec (.lock p a l) s = .next (waitsFor (s1.setLock { r with fifo := r.fifo ++ [me] }) id .lock)) ∧
      (h ≠ me → me ∈ r.fifo → exec (.lock p a l) s = .next (waitsFor s id .lock)) ∧
      (h ≠ me → me ∉ r.fifo → 1024 ≤ s1.nodeWaiters loc.key → exec (.lock p a l) s = .next (waitsFor s id .retry)) ∧
      (h = me → r.granted = true →
        exec (.lock p a l) s = .next ((acquires (s1.setLock { r with granted := false })).passes id n fun u => u.killed marks)) ∧
      (h = me → r.fifo = [] → exec (.unlock p a l) s = .next
        ((word { s1 with locks := s1.locks.filter (·.key != loc.key) } 0).passes id n fun u => u.killed marks)) ∧
      (∀ w ws, h = me → r.fifo = w :: ws → exec (.unlock p a l) s = .next
        ((word (s1.setLock { r with holder := some w, granted := true, fifo := ws }) 1).passes id n fun u => u.killed marks)))) ∧
  (∀ (s : State) (uid tid : Nat), (s.thread (uid, tid)).status = .blocked .retry →
    exec (.lockRetry uid tid) s = .next (s.updThread (uid, tid) fun u => { u with status := .fold s.steps }))

-- copies, tags and timelines

/-- R205: the engine context of a team that tracks an operation of it: the operation takes its next number, and its timeline will show it. -/
def numbered (s : State) (tm : Team) (e : Fin 16) (k : Option Nat) (s1 : State) : Prop :=
  let ec := tm.ectx[e]
  (ec.tl = 0 → k = none ∧ s1 = s) ∧
  (ec.tl ≠ 0 → k = some ec.next.toNat ∧
    s1 = { s.updTeam tm.uid (fun x => { x with ectx := x.ectx.set e { ec with next := ec.next + 1 } }) with
      ops := s.ops ++ [{ team := some tm.uid, die := tm.die, ctx := tm.ctx, ectx := e.val, k := ec.next.toNat, tl := ec.tl, scope := ec.scope }] })

/-- R208, R209, R211, R213, R393, R207: CPY queues its operation with the descriptor's address, the offsets, the mode and the tag, whose bit is cleared in every receiver, and
SETB's flag counts the hand-off. The engine runs an operation to its end: a descriptor off a 64-byte boundary ends it as DESCBAD; a walk of plain elements copies each, from
the addresses of its index, and the end lowers each receiver's count of the tag, whose bit is set at 0. -/
def Obligations.CopiesRun : Prop :=
  (∀ (s : State) (id : ThreadId) (tm : Team) (t : Thread), Ready s id tm t → s.pfx = none → tm.uid = id.1 →
    ∀ (p : PReg) (e : Fin 16) (ofs : YReg) (mode : Fin 4) (tag : Fin 64) (desc : Fin 16) (k : Option Nat) (s1 s2 s3 : State) (l : Loc) (bs : List Byte) (tgt : List Nat),
    let i : Instr := .cpy p e ofs mode tag ⟨desc.val, by omega⟩
    let d := pair64 (tm.s[2 * desc.val]) (tm.s[2 * desc.val + 1])
    let op (s : State) (k : Option Nat) (tgt : List Nat) (mask : Option Nat) : CopyOp :=
      { op := s.nextId, die := tm.die, core := tm.core, ctx := tm.ctx, who := some id, desc := d.toNat, sofs := (t.reg (2 * ofs.val)).toInt
        dofs := (t.reg (2 * ofs.val + 1)).toInt, mode := mode.val, tag := tag.val, ectx := e.val, k := k, receivers := tgt, mask := mask, pc := t.pc }
    let queued (s : State) (tgt : List Nat) (mask : Option Nat) : State :=
      let v := tgt.foldl (fun (v : State) u => v.updTeam u fun x =>
        { x with tags := x.tags &&& ~~~(BitVec.twoPow 64 tag.val), tagCount := x.tagCount.set tag (x.tagCount[tag] + 1) }) s
      { v with copies := v.copies ++ [op v k tgt mask], nextId := v.nextId + 1 }
    t.pred p.val = true → t.quad ≠ .helper → t.FlagRoom true → t.Reads (tm.quotaOf t.tid) (2 * ofs.val) → t.Reads (tm.quotaOf t.tid) (2 * ofs.val + 1) →
    (t.infl.all fun f => f.sdsts.all fun e => e.1 != 2 * desc.val && e.1 != 2 * desc.val + 1) = true →
    (s.copies.filter fun c => c.die == tm.die && c.core == tm.core).length < 64 →
    (mode ≠ 3 → numbered s tm e k s1 → exec i s = .next ((queued s1 [tm.uid] none).passes id 4 fun u => u.flies true [] none none s.steps)) ∧
    (let ranks := (List.range 16).filter fun r => (natLE bs).testBit r
     mode = 3 → locateOp ((d.toNat + 36) % 2 ^ 64) 2 2 .read false true false (fun _ => none) s = .ok ((l, none), s1) →
      readBytes l 2 false s1 = .ok ((bs, 0), s2) → s2.teams = s.teams → s2.copies = s.copies → s2.grids = s.grids → s2.ctxs = s.ctxs →
      natLE bs ≠ 0 → (∀ r ∈ ranks, r < (s.gridOf tm).cohortSize) → tgt = ranks.filterMap (fun r => (s.cohortTeam tm r).map (·.uid)) →
      numbered s2 tm e k s3 → exec i s = .next ((queued s3 tgt (some (natLE bs))).passes id 4 fun u => u.flies true [] none none s.steps))) ∧
  (∀ (s s1 : State) (n : Nat) (c : CopyOp), s.copies.find? (fun c => c.op == n && c.held.isNone) = some c → c.doomed = false → c.poisoned = false →
    (c.desc % 64 ≠ 0 → exec (.copyComplete n) s = .next (s.endCopy c 1)) ∧
    (let cd := CopyDesc.parse c.dbytes
     c.desc % 64 = 0 → c.dbytes ≠ [] → cd.ok c.mode c.mask (s.copyTl c) = true → c.mode = 0 ∨ c.mode = 2 →
      ∀ w, walkRaw ⟨c.die, c.core, c.ctx, c.op⟩ c cd [(0, cd.dbase)] (cd.count - c.walk) c.walk c.failedRanks (s.updCopy c.op fun o => { o with dbytes := c.dbytes }) =
        (w, [], .done, s1) → exec (.copyComplete n) s = .next (s1.endCopy { c with failedRanks := [] } 0))) ∧
  (∀ (m : Master) (op : CopyOp) (cd : CopyDesc) (base w : Nat) (s s1 s2 : State) (bs : List Byte), op.mode = 0 → (cd.stepAt 0 op.sofs op.dofs cd.dbase w).out = false →
    engLoad m (cd.stepAt 0 op.sofs op.dofs cd.dbase w).sa (2 ^ cd.esz) s = .ok (bs, s1) →
    engStore m (cd.stepAt 0 op.sofs op.dofs base w).da bs s1 = .ok ((), s2) → walkOne m op cd [(0, base)] w [] s = .ok ([], s2)) ∧
  (∀ (cd : CopyDesc) (so dof : Int) (base w : Nat) (d : CopyDim), cd.dims = [d] → cd.srot = 0 → cd.drot = 0 → d.ext ≠ 0 →
    let st := cd.stepAt 0 so dof base w
    let c := d.origin + (w % d.ext : Nat)
    st.sa = ((cd.sbase + (so + c * d.sstr) * 2 ^ cd.esz) % 2 ^ 64).toNat ∧ st.da = ((base + (dof + (w % d.ext : Nat) * d.dstr) * 2 ^ cd.esz) % 2 ^ 64).toNat ∧
    (st.out = true ↔ d.bound ≠ 0 ∧ (c < 0 ∨ d.bound ≤ c))) ∧
  (∀ (tm : Team) (tag : Fin 64) (err : Bool), let r := tm.tagDone tag.val err
    r.tagCount = tm.tagCount.set tag (tm.tagCount[tag] - 1) ∧ (∀ b : Fin 64, r.tags.getLsbD b.val = (tm.tags.getLsbD b.val || (decide (b = tag) && tm.tagCount[tag] ≤ 1))) ∧
    (∀ b : Fin 64, r.tagErr.getLsbD b.val = (tm.tagErr.getLsbD b.val || (decide (b = tag) && err))))

/-- R197, R207, R410, R411: WTAG returns, as an acquire, once all (or any) of its mask's tags are set, raises COPYERR for the lowest of them in error, and waits otherwise; FTAG gives the tags under
its mask, as an acquire when it reports one, TAGCLR clears their errors. R461 to R463: TLWAIT goes on at a timeline value of at least its operand and waits below it, TLREAD loads the timeline's 16 bytes, TLNOTE takes a
number of its engine context, and the note completes it. -/
def Obligations.TagsAndTimelines : Prop :=
  (∀ (s : State) (id : ThreadId) (tm : Team) (t : Thread), Ready s id tm t → ∀ (p : PReg) (d a b : XReg) (any l : Bool),
    let q := tm.quotaOf t.tid
    let m := pair64 (t.reg a.val) (t.reg (a.val + 1))
    let met := if any then m = 0 ∨ tm.tags &&& m ≠ 0 else tm.tags &&& m = m
    let marks (dsts : List Nat) := t.marked (lastPair l a.val) dsts
    t.pred p.val = true → t.Reads q a.val → t.Reads q (a.val + 1) →
    (s.pfx = none → (t.reply = none → ¬ met → exec (.wtag p a any l) s = .next (waitsFor s id (.wtag any m.toNat))) ∧
      (t.reply = some [0] ∨ (t.reply = none ∧ met ∧ tm.tagErr &&& m = 0) → exec (.wtag p a any l) s =
        .next ((s.setCore (s.core tm.die tm.core).acquire).passes id 4 fun u => u.killed (marks []))) ∧
      (∀ n : Fin 64, t.reply = none → met → (tm.tagErr &&& m).getLsbD n.val = true → (∀ k < n.val, (tm.tagErr &&& m).getLsbD k = false) →
        exec (.wtag p a any l) s = .next (s.takeTrap id { cause := 0x0B, reg := n.val }).leaveIssue) ∧
      (t.Writes q d.val → t.Writes q (d.val + 1) → exec (.ftag p d a l) s = .next ((if tm.tags &&& m = 0 then s else s.setCore (s.core tm.die tm.core).acquire).passes id 4 fun u =>
        (u.gets [(d.val, (tm.tags &&& m).setWidth 32), (d.val + 1, ((tm.tags &&& m) >>> 32).setWidth 32)]).killed (marks [d.val, d.val + 1]))) ∧
      exec (.tagclr p a l) s = .next ((s.updTeam id.1 fun x => { x with tagErr := x.tagErr &&& ~~~m }).passes id 4 fun u => u.killed (marks []))) ∧
    (∀ (loc : Loc) (bs : List Byte) (s1 s2 : State) (sc : Nat),
      sc = (match s.pfx with | none => 6 | some w => if (engPfx w).own then (tm.ectxAt (engPfx w).ectx).scope else (engPfx w).scope) →
      (t.Reads q b.val → t.Reads q (b.val + 1) → (∀ w, s.pfx = some w → pfxCode w (.tlwait p a b l) = none) →
        locateOp m.toNat 8 16 .read false true false (fun _ => none) s = .ok ((loc, none), s1) → readBytes loc 8 (decide (4 ≤ sc)) s1 = .ok ((bs, 0), s2) →
        s2.teams = s.teams →
        (pair64 (t.reg b.val) (t.reg (b.val + 1))).toNat ≤ natLE bs →
          exec (.tlwait p a b l) s = .next (s2.passes id (unitLen (.tlwait p a b l) s.pfx) fun u => u.killed (marks []))) ∧
      (t.Reads q b.val → t.Reads q (b.val + 1) → (∀ w, s.pfx = some w → pfxCode w (.tlwait p a b l) = none) →
        locateOp m.toNat 8 16 .read false true false (fun _ => none) s = .ok ((loc, none), s1) → readBytes loc 8 (decide (4 ≤ sc)) s1 = .ok ((bs, 0), s2) →
        natLE bs < (pair64 (t.reg b.val) (t.reg (b.val + 1))).toNat → exec (.tlwait p a b l) s = .next (waitsFor s2 id .tlwait)) ∧
      (let ds := [d.val, d.val + 1, d.val + 2, d.val + 3]
       t.FlagRoom false → (∀ k ∈ ds, t.Writes q k) → (∀ w, s.pfx = some w → pfxCode w (.tlread p d a l) = none) →
        locateOp m.toNat 16 16 .read false true false (fun _ => none) s = .ok ((loc, none), s1) → readBytes loc 16 (decide (4 ≤ sc)) s1 = .ok ((bs, 0), s2) →
        exec (.tlread p d a l) s = .next (s2.passes id (unitLen (.tlread p d a l) s.pfx) fun u =>
          ((u.readied (t.homes ds)).flies false (ds.zip (wordsOf bs)) none none s.steps).killed (marks ds))))) ∧
  (∀ (s s1 : State) (id : ThreadId) (tm : Team) (t : Thread), Ready s id tm t → tm.uid = id.1 → ∀ (p : PReg) (d : XReg) (e : Fin 16) (k : Option Nat) (sc : Nat),
    let q := tm.quotaOf t.tid
    t.pred p.val = true → t.quad ≠ .helper → t.Writes q d.val → t.Writes q (d.val + 1) → (∀ w, s.pfx = some w → pfxCode w (.tlnote p d) = none) →
    e.val = (match s.pfx with | some w => (engPfx w).ectx | none => 0) →
    sc = (match s.pfx with | some w => if (engPfx w).own then (tm.ectx[e]).scope else (engPfx w).scope | none => (tm.ectx[0]).scope) → numbered s tm e k s1 →
    exec (.tlnote p d) s = .next (State.passes (match k with
        | none => s1
        | some k => { s1 with notes := s1.notes ++ [{ op := s1.nextId, team := id.1, ectx := e.val, k := k, scope := sc }], nextId := s1.nextId + 1 })
      id (unitLen (.tlnote p d) s.pfx) fun u => u.gets [(d.val, wd (k.getD 0)), (d.val + 1, wd (k.getD 0 / 2 ^ 32))])) ∧
  (∀ (s : State) (n : NoteOp) (tm : Team), s.notes.find? (·.op == n.op) = some n → s.team? n.team = some tm →
    exec (.tlnoteComplete n.op) s = .next (({ s with notes := s.notes.filter (·.op != n.op) } : State).completeOp ⟨tm.die, tm.core, tm.ctx, n.op⟩ (some n.team) n.ectx n.k 0)) ∧
  (∀ (s s1 s2 : State) (m : Master) (uid e k : Nat) (o : OpOut), s.ops = [o] → o.team = some uid → o.die = m.die → o.ectx = e → o.k = k →
    let m' : Master := ⟨m.die, m.core, m.ctx, s.nextId⟩
    ∀ (bs : List Byte), engLoad m' o.tl 8 { s with ops := [], nextId := s.nextId + 1 } = .ok (bs, s1) → natLE bs < k →
    engStore m' o.tl (bytesLE 8 k) s1 = .ok ((), s2) →
    s.completeOp m (some uid) e k 0 = { s2 with tlWrites := s.tlWrites.filter (·.op != s.nextId) })

-- the matrix engine

/-- The s registers n and n + 1 of the team can be read: no LDC of the thread is on its way to them. -/
def readsS (t : Thread) (n : Nat) : Prop := (t.infl.all fun f => f.sdsts.all fun e => e.1 != n && e.1 != n + 1) = true

/-- R394, R216 to R220, R222, R433: CVSET sizes an empty set, and against signatures only the same size passes. An MMA signs and waits while its set has room; the last
to sign hands the operands to the engine and frees the set, and a refused set traps every signer; a released signer goes on. The engine applies a tile's operations in order:
an integer tile's element gains the exact sum of its products modulo 2^56. MZERO waits for them and zeroes the tile. -/
def Obligations.MatrixOperations : Prop :=
  (∀ (s s1 : State) (id : ThreadId) (tm : Team) (t : Thread), Ready s id tm t → tm.uid = id.1 → ∀ (p : PReg), t.pred p.val = true →
    (∀ (cv : Fin 16) (a : XReg), s.pfx = none → t.Reads (tm.quotaOf t.tid) a.val →
      let n := (t.reg a.val).toNat
      let c := tm.cvAt cv.val
      (n ≤ 1024 → c.signers = [] → exec (.cvset p cv a) s = .next ((s.updTeam id.1 fun x =>
        if (match s.issue with | some i => i.done.any fun o => o.1 == id.1 && id.2 < o.2 && (s.thread o).pred p.val | none => false) then x else x.setCv cv.val { c with size := n }).passes id 4 fun u => u)) ∧
      (n ≤ 1024 → c.signers ≠ [] → n = c.size → exec (.cvset p cv a) s = .next (s.passes id 4 fun u => u)) ∧
      (n ≤ 1024 → c.signers ≠ [] → n ≠ c.size → exec (.cvset p cv a) s = .next (s.takeTrap id { cause := 0x01, code := 0x17 }).leaveIssue) ∧
      (1024 < n → exec (.cvset p cv a) s = .next (s.takeTrap id { cause := 0x01 }).leaveIssue)) ∧
    (∀ (tile kind : Fin 8), s.pfx = none → tile.val < tm.tiles.length →
      exec (.mzero p tile kind) s = .next (((s.flushTile id.1 tile.val none).updTeam id.1 fun x => x.updTile tile.val fun _ => ({ isInt := decide (kind = 1), elems := List.replicate 1024 (0, 0) } : Tile)).passes id 4 fun u => u)) ∧
    (∀ (acc : Fin 8) (cv : Fin 16) (z sa sb : Bool) (a b : XReg) (w : Nat) (fmts : Nat × Nat),
      let i : Instr := .mma p acc cv z sa sb a b
      let c := tm.cvAt cv.val
      let frag (scr : Bool) (n : Nat) : List Word := if scr then [tm.s[n]?.getD 0, tm.s[n + 1]?.getD 0] else (List.range 8).map fun k => t.reg (n + k)
      let me : Signer := { tid := t.tid, word := w, payload := s.pfx, a := frag sa a.val, b := frag sb b.val }
      let readable (scr : Bool) (n : Nat) : Prop := if scr then readsS t n else ∀ k < 8, t.Reads (tm.quotaOf t.tid) (n + k)
      acc.val < tm.tiles.length → (∀ w, s.pfx = some w → pfxCode w i = none) → encode i = some w →
      (t.arrKind = 3 → (c.signers.all fun o => o.tid != t.tid) = true → exec i s = .next (s.passes id (unitLen i s.pfx) fun u => u)) ∧
      (t.arrKind ≠ 3 → c.size ≠ 0 → mmaFormats s.pfx sa sb t.mfmt = some fmts → readable sa a.val → readable sb b.val →
        (c.signers.length + 1 < c.size → exec i s = .next (waitsFor ((s.updTeam id.1 fun x => x.setCv cv.val { c with signers := c.signers ++ [me] }).updThread id fun (u : Thread) =>
          { u with arrKind := 3, arrOp := cv.val }) id (.mma cv.val))) ∧
        (c.size ≤ c.signers.length + 1 → mmaComplete s tm acc.val cv.val z sa sb fmts (c.signers ++ [me]) = .ok s1 →
          exec i s = .next (s1.passes id (unitLen i s.pfx) fun u => u)) ∧
        (∀ r, c.size ≤ c.signers.length + 1 → mmaComplete s tm acc.val cv.val z sa sb fmts (c.signers ++ [me]) = .error r →
          exec i s = .next (((s.trapSigners id.1 cv.val none r).takeTrap id r).leaveIssue))))) ∧
  (∀ (s : State) (tm : Team) (acc cv : Nat) (z sa sb : Bool) (fa fb : Nat) (sg : List Signer) (g : Signer) (ar br : List (List Nat)) (as bs : List Nat),
    g ∈ sg → (∀ o ∈ sg, o.word = g.word ∧ o.payload = g.payload) → fmtPairOk fa fb = true →
    (z = true ∨ (((s.flushTile tm.uid acc none).team tm.uid).tiles[acc]?.getD {}).isInt = decide (fa = 23)) →
    mmaOperand s tm sa fa (·.a) sg = .ok (ar, as) → mmaOperand s tm sb fb (·.b) sg = .ok (br, bs) →
    mmaComplete s tm acc cv z sa sb (fa, fb) sg = .ok (State.updTeam { s with
      mmas := s.mmas ++ [{ op := s.nextId, team := tm.uid, tile := acc, zero := z, afmt := fa, bfmt := fb, a := ar, b := br, ascale := as, bscale := bs }]
      nextId := s.nextId + 1 } tm.uid fun x => x.setCv cv { x.cvAt cv with signers := [] })) ∧
  (∀ (s : State) (o : MmaOp) (rest : List MmaOp), s.mmas = o :: rest → (∀ r ∈ rest, o.op < r.op) →
    exec (.mmaApply o.op) s = .next { (s.updTeam o.team fun x => x.updTile o.tile (applyMma o)) with mmas := rest }) ∧
  (∀ (op : MmaOp) (t : Tile) (i j : Nat) (e : BitVec 56 × Nat), op.afmt = 23 → op.zero = false → t.elems.length = 1024 → i < 32 → j < 32 → t.elems[32 * i + j]? = some e →
    let x := e.1.toInt + (((op.a[i]?.getD []).zip (op.b[j]?.getD [])).map fun (x, y) => (BitVec.ofNat 8 x).toInt * (BitVec.ofNat 8 y).toInt).sum
    (applyMma op t).elems[32 * i + j]? = some (BitVec.ofInt 56 x,
      if e.2 ≠ 0 then e.2 else if 2 ^ 55 ≤ x then 1 else if x < -2 ^ 55 then 2 else 0) ∧ (applyMma op t).isInt = t.isInt)

/-- The drain format of a move: its prefix's, or by the tile's mode (R221). -/
def moveFmt (pfx : Option Nat) (isInt : Bool) : Nat :=
  match pfx with
  | some w => if pfxClass w == .matrix then (drainPfx w).fmt else if isInt then 5 else 0
  | none => if isInt then 5 else 0

/-- R221, R222, R430 to R432, R205: MLD replaces the rows of its kind from registers, a scratchpad or memory, and the others stay; MDRAIN converts the tile's elements and its
registers await them, or its data is handed off, numbered when tracked; the engine writes it, and then the hand-off's flag and number complete. -/
def Obligations.TileMoves : Prop :=
  (∀ (s s1 s2 : State) (id : ThreadId) (tm : Team) (t : Thread), Ready s id tm t → tm.uid = id.1 → ∀ (p : PReg) (tile kind : Fin 8) (a b : XReg) (l : Bool),
    let i : Instr := .mld p tile kind a b l
    let q := tm.quotaOf t.tid
    let v := s.flushTile id.1 tile.val none
    let fmt := match s.pfx with | some w => (drainPfx w).fmt | none => if ((v.team id.1).tiles[tile.val]?.getD {}).isInt then 5 else 0
    let n := drainBytes fmt
    let loads (x : State) (r0 : Nat) (bs : List Byte) : State :=
      (x.updTeam id.1 fun y => y.updTile tile.val fun y => y.putRows fmt r0 (groupsOf n bs)).passes id (unitLen i s.pfx) fun u =>
        (u.flies false [] none none s.steps).killed (t.marked (marksOf i s.pfx) [])
    t.pred p.val = true → t.FlagRoom false → lateDecode tm (s.gridOf tm).lrec.gridsync t i s.pfx = none → (∀ w, s.pfx = some w → pfxCode w i = none) →
    (∀ k ∈ marksOf i s.pfx, t.Reads q k) →
    (kind = 0 → (∀ k < 8 * n, t.Reads q (a.val + k)) → exec i s = .next (loads v (id.2 % 32) (((List.range (8 * n)).map fun k => t.reg (a.val + k)).flatMap fun w => bytesLE 4 w.toNat))) ∧
    (∀ d offs, kind = 1 → scrDescOp a v = .ok (d, v) → scrRows d (32 * n) v = .ok (offs, v) → exec i s = .next (loads v 0 (v.scrBytes tm offs))) ∧
    (∀ ls rs, kind = 2 → t.Reads q a.val → t.Reads q (a.val + 1) → t.Reads q b.val →
      let va := (pair64 (t.reg a.val) (t.reg (a.val + 1))).toNat
      va % 16 = 0 → (t.reg b.val).toNat % 16 = 0 → tileChunks va (t.reg b.val).toNat (32 * n) .read v = .ok (ls, s1) →
      ls.mapM (fun l => readBytes l 16 false) s1 = .ok (rs, s2) → (∀ r ∈ rs, r.2 = 0) → exec i s = .next (loads s2 0 (rs.flatMap (·.1))))) ∧
  (∀ (t : Tile) (fmt r0 : Nat) (vals : List Nat), t.elems.length = 1024 → 32 * r0 + vals.length ≤ 1024 →
    let u := t.putRows fmt r0 vals
    u.isInt = (if fmt = 7 then t.isInt else decide (fmt = 5)) ∧ u.elems.length = 1024 ∧
    (∀ k, k < vals.length → u.elems[32 * r0 + k]? = (vals[k]?).map (loadElem fmt)) ∧ (∀ k, k < 32 * r0 ∨ 32 * r0 + vals.length ≤ k → u.elems[k]? = t.elems[k]?)) ∧
  (∀ (s s1 s2 : State) (id : ThreadId) (tm : Team) (t : Thread), Ready s id tm t → tm.uid = id.1 → ∀ (p : PReg) (tile kind : Fin 8) (a b : XReg) (l : Bool),
    let i : Instr := .mdrain p tile kind a b l
    let q := tm.quotaOf t.tid
    let v := s.flushTile id.1 tile.val none
    let e := (v.team id.1).tiles[tile.val]?.getD {}
    let px : DrainPfx := match s.pfx with | some w => if pfxClass w == .matrix then drainPfx w else {} | none => {}
    let fmt := moveFmt s.pfx e.isInt
    let n := drainBytes fmt
    let drains (es : List (BitVec 56 × Nat)) : Op (List Nat) := drainList fmt (Num.RMode.ofField px.rnd) px.sr px.sat es
    let tracks : Option (Fin 16) := match s.pfx with
      | some w => if pfxClass w == .matrix then (if px.trk then some (Fin.ofNat 16 px.ectx) else none)
        else if (engPfx w).untrk then none else some (Fin.ofNat 16 (engPfx w).ectx)
      | none => none
    let numbers (k : Option (Nat × Nat)) : Prop := match tracks with
      | none => k = none ∧ s2 = s1
      | some x => ∃ j, numbered s1 (s1.team id.1) x j s2 ∧ k = j.map fun j => (x.val, j)
    let marks := t.marked (marksOf i s.pfx) i.dstX
    let hands (k : Option (Nat × Nat)) (data : List Byte) (e : Tile) (dest : DrainDest) : State :=
      State.passes { s2 with drains := s2.drains ++ [{ op := s2.nextId, team := id.1, who := id, data := data, tile := e, dest := dest, num := k }], nextId := s2.nextId + 1 }
        id (unitLen i s.pfx) fun u => (u.flies true [] none (some s2.nextId) s.steps).killed marks
    t.pred p.val = true → (kind = 0 ∨ t.quad ≠ .helper) → t.FlagRoom true → lateDecode tm (s.gridOf tm).lrec.gridsync t i s.pfx = none →
    (∀ w, s.pfx = some w → pfxCode w i = none) → (∀ k ∈ marksOf i s.pfx, t.Reads q k) → (kind.val < 3 → drainModeOk fmt e.isInt = true) → ∀ (vals : List Nat) (k : Option (Nat × Nat)),
    (kind = 0 → fmt ≠ 7 → (∀ j < 8 * n, t.Writes q (a.val + j)) → drains ((e.elems.drop (32 * (id.2 % 32))).take 32) v = .ok (vals, s1) → numbers k →
      let ds := (List.range (8 * n)).map (a.val + ·)
      let x := s2.updThread id fun u => (u.readied (t.homes ds)).flies true (ds.zip (wordsOf (vals.flatMap (bytesLE n)))) none none s.steps
      let y := match k with | some (e, j) => x.completeOp ⟨tm.die, tm.core, tm.ctx, 0⟩ (some id.1) e j 0 | none => x
      exec i s = .next (y.passes id (unitLen i s.pfx) fun u => u.killed marks)) ∧
    (∀ d offs, kind = 1 → scrDescOp a v = .ok (d, v) → scrRows d (32 * n) v = .ok (offs, v) → drains e.elems v = .ok (vals, s1) → numbers k →
      exec i s = .next (hands k (vals.flatMap (bytesLE n)) {} (.chunks 1 (offs.map fun o => (2 ^ 56 + tm.die * 2 ^ 28 + tm.core * 2 ^ 20 + o, 4, 0))))) ∧
    (∀ ls v1, kind = 2 → t.Reads q a.val → t.Reads q (a.val + 1) → t.Reads q b.val →
      let va := (pair64 (t.reg a.val) (t.reg (a.val + 1))).toNat
      va % 16 = 0 → (t.reg b.val).toNat % 16 = 0 → tileChunks va (t.reg b.val).toNat (32 * n) .write v = .ok (ls, v1) → drains e.elems v1 = .ok (vals, s1) → numbers k →
      exec i s = .next (hands k (vals.flatMap (bytesLE n)) {} (.chunks 16 (ls.map fun l => (l.key, l.home, l.coh))))) ∧
    (kind = 3 ∨ kind = 4 → t.Reads q a.val → (kind = 4 → t.Reads q b.val) →
      let w := (t.reg a.val).toNat
      let m := (t.reg b.val).toNat
      w < 128 → w % 16 < (s.gridOf tm).cohortSize → w / 16 < tm.tiles.length → (kind = 4 → m < 65536 ∧ m.testBit (s.rankOfTeam tm) = true) → s1 = v → numbers k →
      exec i s = .next (hands k [] e (.peer (w % 16) (w / 16) (if kind = 4 then some m else none))))) ∧
  (∀ (s s1 : State) (o : DrainOp) (n : Nat) (cs : List (Nat × Nat × Nat)) (tm : Team), s.drains.find? (·.op == o.op) = some o → o.dest = .chunks n cs → s.team? o.team = some tm →
    drainWrite ⟨tm.die, tm.core, tm.ctx, o.op⟩ n cs o.data s = .ok ((), s1) → exec (.drainComplete o.op) s = .next (s1.endDrain o 0))

/-- R223, R225, R435: a contribution is added into a resident peer's tile element by element; an ordered one waits for the lower ranks of its mask. MTILE waits while steps
are left, each step moves MSTEP on by one, and the thread goes on after the last. -/
def Obligations.PeerAddsAndMacroTiles : Prop :=
  (∀ (s : State) (o : DrainOp) (tm peer : Team) (rank tile : Nat) (mask : Option Nat), s.drains.find? (·.op == o.op) = some o → o.dest = .peer rank tile mask →
    s.team? o.team = some tm → s.cohortTeam tm rank = some peer → peer.status = .resident →
    let v := s.flushTile peer.uid tile none
    let e := (v.team peer.uid).tiles[tile]?.getD {}
    let me := v.rankOfTeam tm
    let adds (x : State) : State := x.updTeam peer.uid fun y => y.updTile tile (addTiles · o.tile)
    let notes (x : State) (r : PeerRound) : State := x.updTeam peer.uid fun y => { y with rounds := r :: y.rounds.filter (·.tile != tile) }
    (mask = none → e.isInt = o.tile.isInt → exec (.peerAddApply o.op) s = .next ((adds v).endDrain o 0)) ∧
    (mask = none → e.isInt ≠ o.tile.isInt → exec (.peerAddApply o.op) s = .next (v.endDrain o 6)) ∧
    (∀ m r, mask = some m → peer.rounds.find? (·.tile == tile) = some r → r.mask ≠ m → exec (.peerAddApply o.op) s = .next (v.endDrain o 6)) ∧
    (∀ m r, mask = some m → (peer.rounds.find? (·.tile == tile)).getD { tile := tile, mask := m, done := [] } = r → r.mask = m →
      let ranks := (List.range 16).filter fun q => m.testBit q
      ((∃ q ∈ ranks, q < me ∧ q ∉ r.done) ∨ me ∈ r.done → exec (.peerAddApply o.op) s = .next (notes v r)) ∧
      ((∀ q ∈ ranks, me ≤ q ∨ q ∈ r.done) → me ∉ r.done → e.isInt = o.tile.isInt → (∃ q ∈ ranks, q ≠ me ∧ q ∉ r.done) →
        exec (.peerAddApply o.op) s = .next ((notes (adds v) { r with done := me :: r.done }).endDrain o 0)) ∧
      ((∀ q ∈ ranks, q = me ∨ q ∈ r.done) → me ∉ r.done → e.isInt = o.tile.isInt →
        exec (.peerAddApply o.op) s = .next (((adds v).updTeam peer.uid fun y => { y with rounds := y.rounds.filter (·.tile != tile) }).endDrain o 0)))) ∧
  (∀ (t u : Tile) (k : Nat) (x y : BitVec 56 × Nat), t.elems[k]? = some x → u.elems[k]? = some y →
    (t.isInt = true → ((addTiles t u).elems[k]?).map (·.1) = some (x.1 + y.1)) ∧
    (t.isInt = false → ((addTiles t u).elems[k]?).map (·.1) =
      some (BitVec.ofNat 56 (Num.finish Num.w56 {} (Num.addVal .rne (Num.decodeVal Num.w56 x.1.toNat) (Num.decodeVal Num.w56 y.1.toNat)).1).1))) ∧
  (∀ (s s1 : State) (id : ThreadId) (tm : Team) (t : Thread) (p : PReg) (a : YReg) (d : MtileDesc), s.cur? = some id → s.team? id.1 = some tm →
    tm.threads[id.2]? = some t → t.handler = .none → t.pred p.val = true → t.quad ≠ .helper → mtileDesc a.val s = .ok (d, s1) → s1.thread id = t → s1.issue = s.issue →
    (t.mstep.msb = false → d.ks ≠ 0 → exec (.mtile p a) s = .next (waitsFor s1 id (.mtile a.val))) ∧
    (∀ k : Fin 65536, t.mstep = BitVec.ofNat 32 (2 ^ 31 + 4 * 2 ^ 28 + k.val) → d.ks ≤ k.val → exec (.mtile p a) s = .next (s1.passes id 4 fun u => u)) ∧
    (∀ k : Fin 65536, t.mstep = BitVec.ofNat 32 (2 ^ 31 + 4 * 2 ^ 28 + k.val) → k.val < d.ks → exec (.mtile p a) s = .next (waitsFor s1 id (.mtile a.val)))) ∧
  (∀ (s s1 s2 : State) (uid tid a k : Nat) (tm : Team) (t : Thread) (d : MtileDesc), s.team? uid = some tm → tm.threads[tid]? = some t → t.status = .blocked (.mtile a) →
    t.handler = .none → k < 65536 → (t.mstep.msb = false ∧ k = 0) ∨ t.mstep = BitVec.ofNat 32 (2 ^ 31 + 4 * 2 ^ 28 + k) → k < d.ks →
    mtileDesc a { s with issue := some { die := tm.die, core := tm.core, quarter := 0, pc := t.pc, todo := [(uid, tid)] } } = .ok (d, s1) →
    mtileOne a k s1 = .ok ((), s2) → exec (.mtileStep uid tid) s = .next { s2 with issue := s.issue }) ∧
  (∀ (s s1 : State) (a k : Nat), s.cur?.isSome = true → (s.thread? s.cur).isSome = true → (s.thread s.cur).handler = .none → mtileOne a k s = .ok ((), s1) →
    (s1.thread s.cur).mstep = BitVec.ofNat 32 (2 ^ 31 + 4 * 2 ^ 28 + (k + 1)))

-- rays

/-- R248, R374: the number and the completion scope of a TRACE: untracked at team scope without a prefix; as its prefix says otherwise. -/
def traceNumber (s : State) (tm : Team) (pfx : Option Nat) (num : Option (Nat × Nat)) (scope : Nat) (s1 : State) : Prop :=
  match pfx with
  | none => num = none ∧ scope = 2 ∧ s1 = s
  | some w =>
    let e := engPfx w
    scope = (if e.own then (tm.ectxAt e.ectx).scope else e.scope) ∧
    (if e.untrk then num = none ∧ s1 = s else ∃ (h : e.ectx < 16) (k : Option Nat), num = k.map (fun k => (e.ectx, k)) ∧ numbered s tm ⟨e.ectx, h⟩ k s1)

/-- R248, R249, R256, R344: a TRACE hands over its addresses and its number, counted by SETB's flag; a TRACE.wait blocks, and returns its ray's status once it has ended; RAYLD reads a
quarter of a record; HITRPT hands its decision over, and takes ILLEGAL for a decision above 2, ALIGN for an address off 32 bytes. The engine takes a hand-off back as DESCBAD where the
record is in flight, ends an empty ray as a miss, and queues any other at its scene's root; a dispatch runs its treelet for every ray of the mill; a decision takes its candidate away, and
an accepted one replaces the held hit as R247 says; the mill serves aged queues by their oldest entry, and else the fullest. -/
def Obligations.RaysRun : Prop :=
  (∀ (s s1 s2 s3 : State) (id : ThreadId) (tm : Team) (t : Thread), Ready s id tm t → tm.uid = id.1 → ∀ (p : PReg) (d a : XReg) (b : YReg) (l : Bool) (la lb : Loc) (num : Option (Nat × Nat)) (scope : Nat),
    let q := tm.quotaOf t.tid
    let ra := pair64 (t.reg a.val) (t.reg (a.val + 1))
    let sd := pair64 (tm.s[b.val]?.getD 0) (tm.s[b.val + 1]?.getD 0)
    let marks (dsts : List Nat) := t.marked (lastPair l a.val) dsts
    t.pred p.val = true → t.quad ≠ .helper → t.Reads q a.val → t.Reads q (a.val + 1) → b.val + 1 < 32 → readsS t b.val → ra.toNat % 64 = 0 → sd.toNat % 64 = 0 →
    locateOp ra.toNat 64 64 .write false false false (fun _ => none) s = .ok ((la, none), s1) → locateOp sd.toNat 64 64 .read false false false (fun _ => none) s1 = .ok ((lb, none), s2) →
    s2.teams = s.teams → s2.issue = s.issue →
    let handed (wait : Bool) : State := { s3 with
      traces := s3.traces ++ [{ op := s3.nextId, die := tm.die, core := tm.core, ctx := tm.ctx, who := id, wait := wait, ra := ra.toNat, sd := sd.toNat, num := num, scope := scope
                                node := (s2.gridOf tm).node, isNode := (s2.gridOf tm).node.isSome }], nextId := s3.nextId + 1 }
    (t.FlagRoom true → (∀ w, s.pfx = some w → pfxCode w (.trace p a b l) = none) → (s2.traces.filter fun o => o.die == tm.die && o.core == tm.core).length < 64 →
      traceNumber s2 tm s.pfx num scope s3 → s3.steps = s.steps → exec (.trace p a b l) s = .next ((handed false).passes id (unitLen (.trace p a b l) s.pfx) fun u =>
        (u.flies true [] none (some s3.nextId) s.steps).killed (marks []))) ∧
    ((∀ w, s.pfx = some w → pfxCode w (.traceWait p d a b l) = none) → (∀ r ∈ s2.rays, r.who ≠ id) → (∀ o ∈ s2.traces, o.who ≠ id) →
      (s2.traces.filter fun o => o.die == tm.die && o.core == tm.core).length < 64 → traceNumber s2 tm s.pfx num scope s3 →
      exec (.traceWait p d a b l) s = .next (waitsFor (handed true) id .ray)) ∧
    (∀ (r : Ray) (rest : List Ray) (st : Nat), t.Writes q d.val → s2.rays = r :: rest → (∀ o ∈ rest, o.op ≠ r.op) → r.who = id → r.wait = true → r.ra = ra.toNat → r.place = .ended st → r.num = none →
      (∀ w, s.pfx = some w → pfxCode w (.traceWait p d a b l) = none) →
      let s4 := (if 4 ≤ r.scope then s2.setCore (s2.core tm.die tm.core).acquire else s2).passes id (unitLen (.traceWait p d a b l) s.pfx) fun u => (u.gets [(d.val, wd st)]).killed (marks [d.val])
      (r.owns = false → exec (.traceWait p d a b l) s = .next { s4 with rays := rest }) ∧
      (∀ s5, r.owns = true → engStore r.master (r.ra + 48) (bytesLE 8 0) s4 = .ok ((), s5) → s5.rays = s4.rays → exec (.traceWait p d a b l) s = .next { s5 with rays := rest }))) ∧
  (∀ (s s1 s2 : State) (id : ThreadId) (tm : Team) (t : Thread), Ready s id tm t → tm.uid = id.1 → ∀ (p : PReg) (d a b : XReg) (qn : Fin 4) (l : Bool) (lc : Loc) (reg : Option (Nat × Region)) (vals : List Word)
    (late : Option TrapRec),
    let q := tm.quotaOf t.tid
    let ra := pair64 (t.reg a.val) (t.reg (a.val + 1))
    let marks (dsts : List Nat) := t.marked (lastPair l a.val) dsts
    t.pred p.val = true → t.Reads q a.val → t.Reads q (a.val + 1) →
    (let i : Instr := .rayld p d a qn l
     let ds := (List.range 4).map (d.val + ·)
     let m := memFields s.pfx
     (∀ w, s.pfx = some w → pfxCode w i = none) → t.FlagRoom false → (∀ k ∈ ds, t.Writes q k) → m.k = false → ra.toNat % 64 = 0 →
      locateOp (ra.toNat + 16 * qn.val) 16 16 .read true true false (fun _ => none) s = .ok ((lc, reg), s1) → LoadGives tm m 6 (ra.toNat + 16 * qn.val) 4 lc reg vals late s1 s2 →
      exec i s = .next (s2.passes id (unitLen i s.pfx) fun u => ((u.readied (t.homes ds)).flies false (ds.zip vals) late none s.steps).killed (marks ds))) ∧
    (let i : Instr := .hitrpt p a b l
     let dec := t.reg b.val
     s.pfx = none → t.quad ≠ .helper → t.Reads q b.val →
      (2 < dec.toNat → exec i s = .next (s.takeTrap id { cause := 0x01, code := 0x21 }).leaveIssue) ∧
      (dec.toNat ≤ 2 → ra.toNat % 32 ≠ 0 → exec i s = .next (s.takeTrap id { cause := 0x03, addr := ra }).leaveIssue) ∧
      (dec.toNat ≤ 2 → ra.toNat % 32 = 0 → locateOp ra.toNat 32 32 .read false false false (fun _ => none) s = .ok ((lc, none), s1) →
        exec i s = .next (State.passes { s1 with
          hits := s1.hits ++ [{ op := s1.nextId, die := tm.die, core := tm.core, ctx := tm.ctx, grid := tm.grid, ca := ra.toNat, dec := dec.toNat }], nextId := s1.nextId + 1 } id 4 fun u =>
            u.killed (marks []))))) ∧
  (∀ (s s2 s4 s5 s6 s7 : State) (o : TraceOp) (rest : List TraceOp) (bs db tb : List Byte), s.traces = o :: rest → o.held = none → o.wait = false → s.rays = [] → o.num = none →
    let rr := RayRec.parse bs
    let ray : Ray := { op := o.op, die := o.die, core := o.core, ctx := o.ctx, who := o.who, wait := false, handle := (s.unused (2 ^ 62) []).1, ra := o.ra
                       sd := o.sd, num := none, scope := o.scope, place := .judged }
    engLoadBlocks o.master 64 1 o.ra (s.unused (2 ^ 62) []).2 = .ok (bs, s2) →
    (rr.status = 1 ∨ 7 ≤ rr.status → exec (.traceAccept o.op) s = .next (s2.refuseTrace o ray 1 0)) ∧
    (rr.status ≠ 1 → rr.status < 7 → rr.bad = true ∨ contOk s2 o rr.cont = false → exec (.traceAccept o.op) s = .next ((s2.admitTrace o ray).endRay ray 6 1 0)) ∧
    (rr.status ≠ 1 → rr.status < 7 → rr.bad = false → contOk s2 o rr.cont = true → engLoadBlocks o.master 64 4 o.sd s2 = .ok (db, s4) →
      (Scene.parse o.die o.ctx o.sd db = none → exec (.traceAccept o.op) s = .next ((s4.admitTrace o ray).endRay ray 6 1 0)) ∧
      (∀ (sc : Scene) (now : Bool), Scene.parse o.die o.ctx o.sd db = some sc → s4.admits sc = some now → engLoadBlocks o.master 64 1 (sc.tt + 64 * sc.root) s4 = .ok (tb, s5) →
        (natAt tb 12 4 ≠ 0xFFFFFFFF → exec (.traceAccept o.op) s = .next ((s5.admitTrace o ray).endRay ray 6 1 0)) ∧
        (natAt tb 12 4 = 0xFFFFFFFF → s5.anyhitOk o sc = true →
        (rr.empty = true → exec (.traceAccept o.op) s = .next ((s5.admitTrace o ray).endRay ray 3 0 0)) ∧
        (rr.empty = false → now = true → spillHead o.master sc sc.root 512 s5 = .ok ((), s6) → s7.scenes = s4.scenes →
          RayRec.write o.master o.ra { rr with status := 1, flags := rr.flags % 2 ^ 15, inst := 0xFFFFFFFF, prim := 0xFFFFFFFF, bary := 0, tree := 0 } s6 = .ok ((), s7) →
          (∀ x ∈ s4.scenes, x.sd ≠ sc.sd) → exec (.traceAccept o.op) s = .next ((({ s7 with scenes := s4.scenes ++ [sc] } : State).admitTrace o ray).enqueueRay ray sc.root)) ∧
        (rr.empty = false → now = false → exec (.traceAccept o.op) s = .next s))))) ∧
  (∀ (s s1 : State) (die ctx core n : Nat) (c : Context) (r0 : Ray) (sc : Scene) (tr : Treelet) (data : List Byte), s.ctx? die ctx = some c →
    let buf := s.draw.1 % 2
    (s.millRays die ctx core buf).head? = some r0 → r0.place = .mill core buf n false → s.sceneOf r0 = some sc → s.draw.2.fetchTreelet ⟨die, core, ctx, r0.op⟩ sc n = (.run tr data, s1) →
    exec (.millDispatch die ctx core) s = .next (s1.runRays (s.millRays die ctx core buf) sc tr data)) ∧
  (∀ (s s1 s2 : State) (h : HitOp) (rest : List HitOp) (r : Ray) (rr : RayRec) (bs : List Byte), s.hits = h :: rest → (∀ o ∈ rest, o.op ≠ h.op) → h.held = none → h.doomed = false →
    engLoadBlocks h.master 32 1 h.ca s = .ok (bs, s1) → s1.hits = s.hits →
    let left (v : State) : State := { v with hits := rest }
    let known (r : Ray) : Bool := r.die == h.die && r.ctx == h.ctx && r.ra == natAt bs 0 8 && r.cands.any (·.token == natAt bs 24 4)
    ((∀ o ∈ s1.rays, known o = false) → exec (.hitrptApply h.op) s = .next (left s1)) ∧
    (let took : RayRec := { rr with tmax := natAt bs 16 4, inst := natAt bs 8 4, prim := natAt bs 12 4, bary := natAt bs 20 4, flags := rr.flags % 2 ^ 15 + 2 ^ 15 }
     s1.rays.find? known = some r → rayRecord r s1 = .ok (rr, s2) → s2.hits = s.hits → r.term = false →
      (h.dec = 0 → exec (.hitrptApply h.op) s = .next ((left s2).dropCand r (natAt bs 24 4) rr)) ∧
      (h.dec = 1 → rr.flags.testBit 1 = false →
        exec (.hitrptApply h.op) s = .next ((left s2).dropCand r (natAt bs 24 4) (if replaces rr.held rr.tmax rr.inst rr.prim (natAt bs 16 4) (natAt bs 8 4) (natAt bs 12 4) then took else rr))) ∧
      (h.dec = 2 ∨ (h.dec = 1 ∧ rr.flags.testBit 1 = true) → exec (.hitrptApply h.op) s = .next ((left s2).dropCand { r with term := true, pend := [], place := .judged, chunk := none } (natAt bs 24 4)
        (if replaces rr.held rr.tmax rr.inst rr.prim (natAt bs 16 4) (natAt bs 8 4) (natAt bs 12 4) then took else rr))))) ∧
  (∀ (count ac : Nat) (qs : List MillQueue) (b : MillQueue), pickQueue count ac qs = some b → b ∈ qs ∧
    ∀ q ∈ qs, (ac ≤ 2 * (count - q.oldest) → ac ≤ 2 * (count - b.oldest) ∧ b.oldest ≤ q.oldest) ∧ ((∀ o ∈ qs, 2 * (count - o.oldest) < ac) → q.entries ≤ b.entries))

-- textures and pixels

/-- R457 to R460, R276: TEX reads its record, locates its texels and awaits in its quad, channel by channel, the exact weighted sum rounded once; TEXN gives the perceptron of its latents;
a record beyond its limits raises ILLEGAL; an error of memory comes as a late POISON. The channels of format 5 that a border
has no colour for are free values (log entry 30). -/
def Obligations.TexturesAreSampled : Prop :=
  ∀ (s s1 s2 : State) (id : ThreadId) (tm : Team) (t : Thread), Ready s id tm t → tm.uid = id.1 → ∀ (p : PReg) (d a : XReg) (b : YReg) (l : Bool) (lc : Loc) (bs : List Byte) (err : Nat),
    let q := tm.quotaOf t.tid
    let x (k : Nat) : Nat := (t.reg (a.val + k)).toNat
    let sd := (pair64 (tm.s[b.val]?.getD 0) (tm.s[b.val + 1]?.getD 0)).toNat
    let ds := (List.range 4).map (d.val + ·)
    let awaits (v : State) (vals : List Nat) (bad : Option (Nat × Nat)) : Host.Outcome State Fault Refusal := .next (v.passes id 4 fun u =>
      ((u.readied (t.homes ds)).flies false (ds.zip (vals.map wd)) (bad.map fun (code, va) => { cause := 0x06, code := code, addr := BitVec.ofNat 64 va }) none s.steps).killed
        (t.marked (if l then (List.range 4).map (a.val + ·) else []) ds))
    t.pred p.val = true → s.pfx = none → t.FlagRoom false → (∀ k < 4, t.Reads q (a.val + k)) → (∀ k ∈ ds, t.Writes q k) → b.val + 1 < 32 → readsS t b.val →
    locateOp sd 64 64 .read false true false (fun _ => none) s = .ok ((lc, none), s1) → readBytes lc 64 false s1 = .ok ((bs, err), s2) → s2.teams = s.teams → s2.issue = s.issue → s2.steps = s.steps →
    (err ≠ 0 → exec (.tex p d a b l) s = awaits s2 [0, 0, 0, 0] (some (err, sd)) ∧ exec (.texn p d a b l) s = awaits s2 [0, 0, 0, 0] (some (err, sd))) ∧
    (err = 0 → TexRec.parse bs false = none → exec (.tex p d a b l) s = .next (s.takeTrap id { cause := 0x01 }).leaveIssue) ∧
    (err = 0 → TexRec.parse bs true = none → exec (.texn p d a b l) s = .next (s.takeTrap id { cause := 0x01 }).leaveIssue) ∧
    (∀ (r : TexRec) (s3 s4 s5 s6 : State) (locs : List (Num.Val × Option (Nat × Loc))) (texels : List (Num.Val × List Num.Val)) (bad : Option (Nat × Nat)) (wb : List Byte) (ok : Bool), err = 0 →
      let taps := (r.useLevels (x 3)).flatMap (r.taps (min (x 2) (r.layers - 1)) (x 0) (x 1))
      let col := r.border.map (Num.decodeVal Num.fp32)
      let border := if r.fmt = 0 then col.map fun c => (Num.mulVal (.fin false 255 0) c).1
        else if r.fmt = 5 then col ++ (List.range 4).map fun j => Num.decodeVal Num.fp32 (bitsAt (Config.freeNat s4.free) (32 * j) 32) else col
      let drawn : State := if r.fmt = 5 then { s4 with free := s4.free + 1 } else s4
      let chan (k : Nat) : Nat := texRound r.fmt (sumVals (texels.map fun (w, cs) => (Num.mulVal w (cs[k]?.getD (.fin false 0 0))).1))
      tapLocs (texelBytes r.fmt) taps s2 = .ok (locs, s3) → readTaps r.fmt border locs drawn = .ok ((texels, bad), s5) →
      (TexRec.parse bs false = some r → s4 = s3 → exec (.tex p d a b l) s = awaits s5 ((List.range 4).map chan) bad) ∧
      (let n := 2 * (r.hid * r.ni + r.hid + 4 * r.hid + 4)
       TexRec.parse bs true = some r → checkPages true 2 r.weights n s3 = .ok ((), s4) → readRange 20 r.weights n s5 = .ok ((wb, ok), s6) →
        exec (.texn p d a b l) s = awaits s6 (perceptron r.ni r.hid ((List.range (n / 2)).map fun j => Num.decodeVal Num.fp16 (natAt wb (2 * j) 2)) ((List.range r.ni).map chan))
          (if ok then bad else some (0x13, r.weights))))

/-- R262, R263, R265 to R269: a pixel instruction outside a pixel-work node raises PXNOTFRAG, with a word beyond the pass PXWORD, and waits until its turn opens; then PXLD awaits the tile's
word, PXST writes it, PXOUT hands its words to the blender and ends the turn, which `pxout.discard` also does; IPA gives the attribute. The binner takes a pass record, ending the pass in
progress, and bins a primitive to the tiles it overlaps; a tile's owner emits the quads of its next primitive; the blender writes a pixel's words and lands the hand-off. -/
def Obligations.PixelsAreDrawn : Prop :=
  (∀ (s s1 : State) (id : ThreadId) (tm : Team) (t : Thread), Ready s id tm t → tm.uid = id.1 → ∀ (p : PReg) (d a : XReg) (w n m : Fin 64) (l : Bool),
    let q := tm.quotaOf t.tid
    t.pred p.val = true → s.pfx = none →
    let cast (l : Bool) := t.marked (if l then [a.val] else []) []
    let fails (i : Instr) (c : Nat) : Prop := exec i s = .next (s.takeTrap id { cause := 0x01, code := c }).leaveIssue
    (s.pixelWork tm = false → fails (.ipa p d m n) 0x22 ∧ (t.FlagRoom false → fails (.pxld p d w) 0x22) ∧ (t.quad ≠ .helper → fails (.pxoutDiscard p) 0x22 ∧
      (t.FlagRoom true → t.Reads q a.val → fails (.pxst p w a l) 0x22) ∧ (t.FlagRoom true → (∀ k < n.val, t.Reads q (a.val + k)) → fails (.pxout p a n l) 0x22))) ∧
    (∀ (g : Gfx) (ps : Pass) (f : Frag) (k : Nat), s.pixelWork tm = true → s.fragOf tm id.2 = some (g, f) → g.pass = some ps →
      (t.Writes q d.val → exec (.ipa p d m n) s = .next (State.passes { s with free := s.free + 1 } id 4 fun u =>
        u.gets [(d.val, wd (f.prim.attr m.val n.val f.x f.y (Config.freeNat s.free)))])) ∧
      (t.quad ≠ .helper → exec (.pxoutDiscard p) s = .next ((s.endTurn tm.die tm.ctx id).passes id 4 fun u => { u with quad := .helper })) ∧
      (ps.words < w.val + 1 → (t.FlagRoom false → fails (.pxld p d w) 0x23) ∧ (t.quad ≠ .helper → t.FlagRoom true → t.Reads q a.val → fails (.pxst p w a l) 0x23)) ∧
      (ps.words < n.val → t.quad ≠ .helper → t.FlagRoom true → (∀ k < n.val, t.Reads q (a.val + k)) → fails (.pxout p a n l) 0x23) ∧
      (w.val < ps.words → f.ended = false → s.turnOpen g f = true → pixelWord g ps f.x f.y w.val s = .ok (k, s1) → s1.teams = s.teams → s1.issue = s.issue → s1.steps = s.steps →
        (t.FlagRoom false → t.Writes q d.val → exec (.pxld p d w) s = .next (s1.passes id 4 fun u =>
          (u.readied (t.homes [d.val])).flies false [(d.val, wd (Memory.readNat s1.mem k 4))] none none s.steps)) ∧
        (t.quad ≠ .helper → t.FlagRoom true → t.Reads q a.val → exec (.pxst p w a l) s = .next (State.passes (State.notePast { s1 with mem := Memory.write s1.mem k (bytesLE 4 (t.reg a.val).toNat) } g.die g.ctx f.x f.y
            [(w.val, Memory.readNat s1.mem k 4), (w.val, (t.reg a.val).toNat)]) id 4 fun u =>
          (u.flies true [] none none s.steps).killed (cast l)))) ∧
      (t.quad ≠ .helper → t.FlagRoom true → (∀ k < n.val, t.Reads q (a.val + k)) → n.val ≤ ps.words →
        (f.ended = false → s.turnOpen g f = true → exec (.pxout p a n l) s = .next ((({ s with
            blends := s.blends ++ [{ op := s.nextId, die := g.die, ctx := g.ctx, who := id, x := f.x, y := f.y, vals := (List.range n.val).map fun k => (t.reg (a.val + k)).toNat }]
            nextId := s.nextId + 1 } : State).endTurn g.die g.ctx id).passes id 4 fun u => (u.flies true [] none (some s.nextId) s.steps).killed (cast l))) ∧
        (f.ended = true → exec (.pxout p a n l) s = .next (s.passes id 4 fun u => u.killed (cast l)))) ∧
      (f.ended = false → s.turnOpen g f = false →
        (t.quad ≠ .helper → t.FlagRoom true → (∀ k < n.val, t.Reads q (a.val + k)) → n.val ≤ ps.words → exec (.pxout p a n l) s = .next (waitsFor s id .engine)) ∧
        (w.val < ps.words → (t.FlagRoom false → t.Writes q d.val → exec (.pxld p d w) s = .next (waitsFor s id .engine)) ∧
          (t.quad ≠ .helper → t.FlagRoom true → t.Reads q a.val → exec (.pxst p w a l) s = .next (waitsFor s id .engine)))))) ∧
  (∀ (s s1 s2 s3 : State) (die ctx n : Nat) (rec' : List Byte) (g g2 : Gfx) (c : Context), s.binnerHead die ctx = some (n, rec') → s.gfx? die ctx = some g →
    (isPass rec' = true → g.held = none → (s.setGfx g).drained g = true → (match g.pass with | none => s1 = s.setGfx g | some p => endPass g p (s.setGfx g) = .ok ((), s1)) →
      s2 = s1.updNode die ctx n (fun nd => { nd with queue := nd.queue.drop 1 }) → s2.gfx? die ctx = some g2 → g2.die = die → g2.ctx = ctx → s2.ctx? die ctx = some c →
      (natAt rec' 64 8 = 0 → exec (.passRecord die ctx) s = .next (if natAt rec' 4 1 == 128 &&
          (List.range 256).all fun i => i == 4 || (64 ≤ i && i < 128 && i != 78 && i != 79) || natAt rec' i 1 == 0 then s2
        else s2.report die { kind := 13, ctx := ctx, a := 0 })) ∧
      (natAt rec' 64 8 ≠ 0 → Pass.parse rec' (g2.ordinal + 1) = none → exec (.passRecord die ctx) s = .next (s2.report die { kind := 13, ctx := ctx, a := natAt rec' 64 8 })) ∧
      (∀ ps, natAt rec' 64 8 ≠ 0 → Pass.parse rec' (g2.ordinal + 1) = some ps → ps.words ≤ c.tileSlots → c.part ≠ [] → s2.setupTiles c c.part = some s3 →
        exec (.passRecord die ctx) s = .next (s3.updGfx die ctx fun g => { g with pass := some ps, ordinal := ps.ordinal, cores := c.part.mergeSort (· ≤ ·), lastSeq := none }))) ∧
    (∀ ps, isPass rec' = false → g.pass = some ps → s1 = s.updNode die ctx n (fun nd => { nd with queue := nd.queue.drop 1 }) →
      let succ := match (s1.nodeOfKind die ctx 3).bind (s1.node? die ctx ·) with | some nd => nd.succ | none => []
      let shader (i : Nat) : Bool := match s1.node? die ctx i with | some nd => nd.kind == 1 | none => false
      (Prim.parse rec' succ shader g.lastSeq = none → exec (.primitiveRecord die ctx) s = .next (s1.report die { kind := 13, ctx := ctx, a := natAt rec' 0 4 })) ∧
      (∀ pr, Prim.parse rec' succ shader g.lastSeq = some pr →
        exec (.primitiveRecord die ctx) s = .next (s1.setGfx ((ps.tilesOf pr).foldl (fun g t => g.bin pr t) { g with lastSeq := some pr.seq }))))) ∧
  (∀ (s s1 : State) (die ctx tile : Nat) (g : Gfx) (ps : Pass) (t : TileWork) (pr : Prim) (rest : List Prim), s.gfx? die ctx = some g → g.pass = some ps → g.held = none →
    g.tile? (tile % ((ps.width + 63) / 64)) (tile / ((ps.width + 63) / 64)) = some t → t.prims = pr :: rest →
    let fs := tileFrags ps pr t s.free g.quads
    (if fs = [] then s1 = s else openTile g ps t s = .ok ((), s1)) →
    exec (.rasterise die ctx tile) s = .next (State.updGfx { s1 with free := if pr.finite then s1.free else s1.free + 4096 } die ctx fun g =>
      { (g.updTile t.tx t.ty fun t => { t with prims := rest, newest := if fs.isEmpty then t.newest else pr.seq }) with frags := g.frags ++ fs, quads := g.quads + fs.length / 4 })) ∧
  (∀ (s s1 : State) (b : BlendOp) (rest : List BlendOp) (g : Gfx) (ps : Pass) (k : Nat), s.blends = b :: rest → (∀ o ∈ rest, o.op ≠ b.op) → s.gfx? b.die b.ctx = some g → g.pass = some ps →
    g.held = none → pixelWord g ps b.x b.y 0 s = .ok (k, s1) → s1.blends = s.blends →
    let ds := (List.range ps.words).map fun w => Memory.readNat s1.mem (k + 4 * w) 4
    let vs := blendPixel ps.ops b.vals ds
    exec (.blendApply b.op) s = .next (State.landFirst { State.notePast { s1 with mem := Memory.write s1.mem k (vs.flatMap (bytesLE 4)) } b.die b.ctx b.x b.y
      ((List.range ps.words).zip ds ++ (List.range ps.words).zip vs) with blends := rest } b.who fun f => f.op == some b.op)) ∧
  (∀ (ops vals ds : List Nat) (i sv d : Nat), ds[i]? = some d → ds.length ≤ ops.length →
    (∀ (j v d : Nat), vals[j]? = some v → ds[j]? = some d → (ops[j]? = some 5 → depthPass false v d = true) ∧ (ops[j]? = some 6 → depthPass true v d = true)) →
    (vals[i]? = some sv → (blendPixel ops vals ds)[i]? = (ops[i]?).map fun o => blendWord o sv d) ∧ (vals[i]? = none → (blendPixel ops vals ds)[i]? = some d)) ∧
  (∀ (ops vals ds : List Nat) (i sv d : Nat), vals[i]? = some sv → ds[i]? = some d → (ops[i]? = some 5 ∧ depthPass false sv d = false) ∨ (ops[i]? = some 6 ∧ depthPass true sv d = false) →
    blendPixel ops vals ds = ds)

-- launches, emitted records, notifies and slots

/-- R44, R70, R74, R420, R418, R53, R398: LAUNCH raises ILLEGAL outside the leader, ALIGN off 64 bytes, and else returns its status, queueing the grid of an accepted record; JOINC waits for the team's children
and returns with an acquire; EMIT waits for room at a successor node and hands its record to the graph engine, which appends it and lands the hand-off. -/
def Obligations.LaunchesAndEmits : Prop :=
  (∀ (s s1 s2 : State) (id : ThreadId) (tm : Team) (t : Thread), Ready s id tm t → tm.uid = id.1 → s.pfx = none → ∀ (p : PReg) (d a b : XReg) (l : Bool), t.pred p.val = true →
    let q := tm.quotaOf t.tid
    let ra := pair64 (t.reg a.val) (t.reg (a.val + 1))
    (let i : Instr := .launch p d a
     t.quad ≠ .helper →
      (id.2 ≠ 0 → exec i s = .next (s.takeTrap id { cause := 0x01 }).leaveIssue) ∧
      (id.2 = 0 → t.Reads q a.val → t.Reads q (a.val + 1) → t.Writes q d.val →
        (ra.toNat % 64 ≠ 0 → exec i s = .next (s.takeTrap id { cause := 0x03, addr := ra }).leaveIssue) ∧
        (∀ (bs eb : List Byte) (ok1 ok2 : Bool), ra.toNat % 64 = 0 → readRange 2 ra.toNat 64 s = .ok ((bs, ok1), s1) →
          (let param := natAt bs 40 8; if param = 0 then eb = [] ∧ ok2 = true ∧ s2 = s1 else readRange 6 (param + 64) 256 s1 = .ok ((eb, ok2), s2)) →
          s2.teams = s.teams → s2.grids = s.grids → s2.ctxs = s.ctxs → s2.issue = s.issue →
          let c := s.ctxOf tm
          let g := s.gridOf tm
          let st := launchStatus c tm.version bs eb (ok1 && ok2) g.depth
          let r := LaunchRec.parse bs
          let told (v : State) := State.passes v id 4 fun u => u.gets [(d.val, wd st)]
          (st ≠ 0 → exec i s = .next (told s2)) ∧
          (st = 0 → exec i s = .next (told (s2.makeGrid c r (if r.param = 0 then [] else parseEctx eb) tm.version (g.depth + 1) (some tm.uid) (some g.uid) none g.prio g.queue g.slotSeq).2))))) ∧
    (t.quad ≠ .helper → ((∀ g ∈ s.grids, g.parentTeam ≠ some id.1) → exec (.joinc p) s = .next ((s.setCore (s.core tm.die tm.core).acquire).passes id 4 fun u => u)) ∧
      ((∃ g ∈ s.grids, g.parentTeam = some id.1) → exec (.joinc p) s = .next (waitsFor s id .joinc))) ∧
    (let i : Instr := .emit p a b l
     let n := (t.reg b.val).toNat
     t.quad ≠ .helper → t.FlagRoom true →
      ((s.gridOf tm).node = none → exec i s = .next (s.takeTrap id { cause := 0x01 }).leaveIssue) ∧
      (∀ (from' : Nat) (src nd : Node), (s.gridOf tm).node = some from' → s.node? tm.die tm.ctx from' = some src → t.Reads q a.val → t.Reads q (a.val + 1) → t.Reads q b.val →
        (65536 ≤ n ∨ n ∉ src.succ → exec i s = .next (s.takeTrap id { cause := 0x01 }).leaveIssue) ∧
        (n < 65536 → n ∈ src.succ → s.node? tm.die tm.ctx n = some nd → nd.kind = 1 ∨ nd.kind = 2 →
          (ra.toNat % 4 ≠ 0 → exec i s = .next (s.takeTrap id { cause := 0x03, addr := ra }).leaveIssue) ∧
          (ra.toNat % 4 = 0 → checkPages false 2 ra.toNat nd.recSize s = .ok ((), s1) → s1.teams = s.teams → s1.issue = s.issue → s1.steps = s.steps →
            (s1.nodeRoom tm.die tm.ctx n = false → exec i s = .next (waitsFor s id .emit)) ∧
            (s1.nodeRoom tm.die tm.ctx n = true → exec i s = .next (State.passes { s1 with
              emits := s1.emits ++ [{ op := s1.nextId, who := id, ctxDie := tm.die, ctx := tm.ctx, va := ra.toNat, size := nd.recSize, node := n }], nextId := s1.nextId + 1 } id 4 fun u =>
                (u.flies true [] none (some s1.nextId) s.steps).killed (t.marked (lastPair l a.val) [])))))))) ∧
  (∀ (s : State) (c : Context) (r : LaunchRec) (ec : List ECtxRec) (version depth : Nat) (pt pg nd : Option Nat) (prio queue slot : Nat),
    let v := (s.makeGrid c r ec version depth pt pg nd prio queue slot).2
    v.grids.length = s.grids.length + 1 ∧ v.teams = s.teams ∧ v.mem = s.mem ∧ ∃ g ∈ v.grids, g.uid = s.nextId ∧ g.lrec = r ∧ g.depth = depth ∧ g.parentTeam = pt ∧ g.version = version ∧
      ∀ o ∈ s.grids, o.die = c.die → o.ctx = c.num → o.num ≠ g.num ∨ 2 ^ 32 ≤ s.grids.length) ∧
  (∀ (s s1 : State) (e : EmitOp) (rest : List EmitOp) (bs : List Byte), s.emits = e :: rest → (∀ o ∈ rest, o.op ≠ e.op) → e.held = none →
    feBytes ⟨(s.team e.who.1).die, (s.team e.who.1).core, e.ctx, e.op⟩ e.va e.size s = .ok (bs, s1) → s1.emits = s.emits →
    exec (.emitAppend e.op) s = .next (({ s1.updNode e.ctxDie e.ctx e.node (fun nd => { nd with queue := nd.queue ++ [bs] }) with emits := rest }).updThread e.who (fun t =>
      { t with infl := t.infl.map fun (f : Flight) => if f.op == some e.op then { f with late := none } else f }) |>.landFirst e.who (·.op == some e.op)))

/-- R61, R63, R67, R69: a notify sets the tail, or raises ERR_TAIL when the tail runs past 2^k slots or moves backwards, and a failing notify of a stopped queue only leaves a record; the slot read is that of the queue
that goes before every other, and it is accepted, read again, or ERR_SEAL at the eighth failure; a slot unread for 1 ms makes its queue starved; a reserved command code raises ERR_CODE. -/
def Obligations.QueuesAreRead : Prop :=
  (∀ (s : State) (die n : Nat) (v : DWord) (relaxed : Bool) (qu : Queue), s.queueNo die n = some qu →
    let tail := v.toNat % 2 ^ 32
    let bad := 2 ^ qu.k < (tail + 2 ^ 32 - qu.head % 2 ^ 32) % 2 ^ 32 ∨ 2 ^ 31 ≤ (tail + 2 ^ 32 - qu.tail % 2 ^ 32) % 2 ^ 32
    (¬ bad → exec (.queueNotify die n v relaxed) s = .next (s.updQueue qu.uid fun q => { q with tail := tail })) ∧
    (bad → qu.stopped = none → exec (.queueNotify die n v relaxed) s = .next (s.queueError qu.uid qu.head 4)) ∧
    (bad → qu.stopped ≠ none → exec (.queueNotify die n v relaxed) s = .next (s.report die { kind := 1, ctx := qu.ctx, code := 4, a := qu.num, b := qu.head }))) ∧
  (∀ (s s1 : State) (die : Nat) (qu : Queue) (bs : List Byte) (e : Instr), qu.die = die → s.canRead qu = true →
    (e = .slotRead die ∧ qu ∈ s.queues ∧ qu.rereads = 0 ∧ ∀ o ∈ s.queues, o.die = die → s.canRead o = true → o.rereads = 0 → o = qu ∨ qu.before o = true) ∨
      (e = .sealReread die qu.num ∧ s.queueNo die qu.num = some qu ∧ qu.rereads ≠ 0) →
    engLoadBlocks (feMaster die qu.ctx) 64 1 (qu.base + 64 * (qu.head % 2 ^ qu.k)) s = .ok (bs, s1) →
    let ok := natAt bs 60 4 = crc32c (bs.take 60 ++ [0, 0, 0, 0]) ∧ natAt bs 4 4 = qu.head % 2 ^ 32
    (ok → exec e s = .next (s1.updQueue qu.uid fun q => { q with
      head := (q.head + 1) % 2 ^ 32, rereads := 0, starved := false, served := s1.steps, cmds := q.cmds ++ [{ idx := q.head, slot := bs }] })) ∧
    (¬ ok → qu.rereads < 7 → exec e s = .next (s1.updQueue qu.uid fun q => { q with rereads := q.rereads + 1 })) ∧
    (¬ ok → 7 ≤ qu.rereads → exec e s = .next ((s1.updQueue qu.uid fun q => { q with rereads := 0 }).queueError qu.uid qu.head 1))) ∧
  (∀ (a b : Queue), a.before b = true → (b.starved = true → a.starved = true) ∧ (a.starved = b.starved → b.prio ≤ a.prio) ∧ b.before a = false) ∧
  (∀ (s : State) (die n : Nat) (qu : Queue), s.queueNo die n = some qu → s.canRead qu = true → exec (.queueStarvation die n) s = .next (s.updQueue qu.uid fun q => { q with starved := true })) ∧
  (∀ (s : State) (die n idx : Nat) (qu : Queue) (c : Cmd) (x : Context), s.startable die n idx (fun k => k == 0 || 9 ≤ k) = some (qu, c, x) →
    exec (.errCode die n idx) s = .next (s.queueError qu.uid c.idx 2)) ∧
  (∀ (s : State) (uid slot code : Nat) (q : Queue), s.queues = [q] → q.uid = uid →
    let v := s.updQueue uid fun q => { q with stopped := some code, head := slot % 2 ^ 32
                                              cmds := q.cmds.takeWhile (·.idx != slot) ++ ((q.cmds.dropWhile (·.idx != slot)).map fun c => if c.idx == slot then { c with st := none } else c).filter
                                                fun c => c.idx == slot || c.st.isSome }
    s.queueError uid slot code = (v.report q.die { kind := 1, ctx := q.ctx, code := code, a := q.num, b := slot }).raiseCtx q.die q.ctx q.vector)

-- the commands of a queue

/-- R65, R66, R70 to R74: a command starts in slot order once those before it have started, and with BARRIER once they are done. LAUNCH seals the open version and starts its prologue, or launches its record; GRAPH makes
its graph active once the one before is idle; COPY reads its descriptor (R480) and hands it to the engine; WAIT completes at its timeline's value; SIGNAL raises a timeline; MAPSYNC drops translations; CHECKPOINT asks for a commit; MIGRATE
begins, or completes with its status. A body out of range raises ERR_BODY. -/
def Obligations.CommandsRun : Prop :=
  (∀ (s : State) (die n : Nat) (code : Nat → Bool) (qu : Queue) (before rest : List Cmd) (c : Cmd) (x : Context), s.queueNo die n = some qu → qu.cmds = before ++ c :: rest → (∀ b ∈ before, b.idx ≠ c.idx ∧ b.st.isSome = true) →
    s.ctx? qu.die qu.ctx = some x → c.st = none → code (natAt c.slot 0 1) = true → (∀ f r, before = f :: r → (c.idx + 2 ^ 32 - f.idx) % 2 ^ 32 < 64) →
    (natAt c.slot 1 1 % 2 = 1 → ∀ b ∈ before, b.st = some .done) → qu.held = none → x.migrating = none → x.ckpt = 0 → s.startable die n c.idx code = some (qu, c, x)) ∧
  (∀ (s s1 s2 : State) (die n idx : Nat) (qu : Queue) (c : Cmd) (x : Context) (bs : List Byte),
    let f (o k : Nat) := natAt c.slot o k
    let m := feMaster qu.die qu.ctx
    let refused (e : Instr) : Prop := exec e s = .next (s.queueError qu.uid c.idx 3)
    (s.startable die n idx (· == 1) = some (qu, c, x) → let e : Instr := .launchCmd die n idx
      (slotPlain c.slot 24 = false → refused e) ∧
      (∀ x1, slotPlain c.slot 24 = true → s1 = s.sealVersion x.die x.num → s1.ctx? x.die x.num = some x1 →
        let going := s1.setCmd qu.uid c.idx (.launching (f 8 8) (f 16 8) x1.current none false)
        (f 16 8 ≠ 0 → x1.isEntry x1.current (f 16 8) .prologue = false → exec e s = .next (s1.queueError qu.uid c.idx 3)) ∧
        (f 16 8 ≠ 0 → x1.isEntry x1.current (f 16 8) .prologue = true → exec e s = .next (going.startPrologue qu c.idx (f 8 8) (f 16 8) x1.current)) ∧
        (f 16 8 = 0 → exec e s = .next (going.tryLaunch qu.uid c.idx)))) ∧
    (s.startable die n idx (· == 2) = some (qu, c, x) → let e : Instr := .graph die n idx
      (∀ g, x.graph = some g → s.graphIdle x.die x.num g = false → exec e s = .next s) ∧
      ((∀ g, x.graph = some g → s.graphIdle x.die x.num g = true) → (slotPlain c.slot 28 = false → refused e) ∧
        (∀ x1, slotPlain c.slot 28 = true → s1 = s.sealVersion x.die x.num → s1.ctx? x.die x.num = some x1 →
          (readGraph (feMaster x1.die x1.num) x1 (f 8 8) (f 16 8) (f 24 4) s1 = .ok (none, s2) → exec e s = .next (s2.queueError qu.uid c.idx 3)) ∧
          (∀ ns es pool, readGraph (feMaster x1.die x1.num) x1 (f 8 8) (f 16 8) (f 24 4) s1 = .ok (some (ns, es, pool), s2) →
            let g (w : Option (Nat × Nat)) : Graph := { nodes := (appendEntries ns es).1, waiting := w, pend := (appendEntries ns es).2, pool := pool, version := x1.current, prio := qu.prio }
            let active (w : Option (Nat × Nat)) := s2.updCtx x1.die x1.num fun x => { x with graph := some (g w) }
            (f 24 4 = 0 → exec e s = .next ((active none).finishCmd qu.uid c.idx none)) ∧
            (f 24 4 ≠ 0 → exec e s = .next ((active (some (qu.uid, c.idx))).setCmd qu.uid c.idx .graphing)))))) ∧
    (s.startable die n idx (· == 3) = some (qu, c, x) → let e : Instr := .copy die n idx
      (slotPlain c.slot 19 = false ∨ 16 ≤ f 16 2 ∨ 3 ≤ f 18 1 → refused e) ∧
      (∀ (k : Option Nat) (s0 : State) (db : List Byte), slotPlain c.slot 19 = true → (h : f 16 2 < 16) → f 18 1 < 3 →
        (if f 8 8 % 64 = 0 then engLoadBlocks m 64 4 (f 8 8) s = .ok (db, s0) else db = [] ∧ s0 = s) →
        let ec := x.ectx[f 16 2]
        (if ec.tl = 0 then k = none ∧ s1 = s0 else k = some ec.next.toNat ∧
          s1 = { s0.updCtx x.die x.num (fun x => { x with ectx := x.ectx.setIfInBounds (f 16 2) { ec with next := ec.next + 1 } }) with
            ops := s0.ops ++ [{ team := none, die := x.die, ctx := x.num, ectx := f 16 2, k := ec.next.toNat, tl := ec.tl, scope := ec.scope }] }) →
        exec e s = .next (({ s1 with nextId := s0.nextId + 1, copies := s1.copies ++ [{
          op := s0.nextId, die := x.die, core := 0xFFFF, ctx := x.num, who := none, desc := f 8 8, dbytes := db, sofs := 0, dofs := 0, mode := f 18 1, tag := 0, ectx := f 16 2, k := k, receivers := [], mask := none
          cmd := some (qu.uid, c.idx) }] } : State).setCmd qu.uid c.idx (.copying s0.nextId)))) ∧
    (s.startable die n idx (· == 4) = some (qu, c, x) → let e : Instr := .wait die n idx
      let going := s.setCmd qu.uid c.idx (.waiting (f 8 8) (f 16 8))
      (slotPlain c.slot 24 = false ∨ f 8 8 % 16 ≠ 0 → refused e) ∧
      (slotPlain c.slot 24 = true → f 8 8 % 16 = 0 → engLoad m (f 8 8) 8 going = .ok (bs, s1) →
        (natLE bs < f 16 8 → exec e s = .next s1) ∧ (f 16 8 ≤ natLE bs → exec e s = .next (s1.finishCmd qu.uid c.idx none)))) ∧
    (∀ tl v, s.queues.find? (fun x => x.die == die && x.num == n) = some qu → (qu.cmd? idx).bind (·.st) = some (.waiting tl v) → qu.held = none → engLoad m tl 8 s = .ok (bs, s1) →
      (natLE bs < v → exec (.waitComplete die n idx) s = .next s1) ∧ (v ≤ natLE bs → exec (.waitComplete die n idx) s = .next (s1.finishCmd qu.uid idx none))) ∧
    (s.startable die n idx (· == 5) = some (qu, c, x) → let e : Instr := .signal die n idx
      (slotPlain c.slot 24 = false ∨ f 8 8 % 16 ≠ 0 → refused e) ∧
      (slotPlain c.slot 24 = true → f 8 8 % 16 = 0 → engLoad m (f 8 8) 8 s = .ok (bs, s1) →
        (f 16 8 ≤ natLE bs → exec e s = .next (s1.finishCmd qu.uid c.idx none)) ∧
        (natLE bs < f 16 8 → engStore m (f 8 8) (bytesLE 8 (f 16 8)) s1 = .ok ((), s2) → exec e s = .next (s2.finishCmd qu.uid c.idx none)))) ∧
    (s.startable die n idx (· == 6) = some (qu, c, x) → let e : Instr := .mapsync die n idx
      (slotPlain c.slot 24 = false → refused e) ∧ (slotPlain c.slot 24 = true → exec e s = .next ((s.dropTlb x.die x.num (f 8 8) (f 16 8)).finishCmd qu.uid c.idx none))) ∧
    (s.startable die n idx (· == 7) = some (qu, c, x) → let e : Instr := .checkpoint die n idx
      (slotPlain c.slot 8 = false → refused e) ∧
      (slotPlain c.slot 8 = true → (x.die = 0 ∨ x.checkpoint = false → exec e s = .next (s.finishCmd qu.uid c.idx (some 4))) ∧
        (x.die ≠ 0 → x.checkpoint = true → x.failed = false → exec e s = .next ((s.setCmd qu.uid c.idx .checkpointing).updCtx x.die x.num fun x => { x with ckptWanted := true })))) ∧
    (s.startable die n idx (· == 8) = some (qu, c, x) → let e : Instr := .migrate die n idx
      let ends (v : State) (st : Nat) : Prop := exec e s = .next (v.finishCmd qu.uid c.idx (some st))
      (slotPlain c.slot 9 = false ∨ 3 ≤ f 8 1 → refused e) ∧
      (slotPlain c.slot 9 = true → f 8 1 < 3 → (s.present (f 8 1) = false → ends s 1) ∧
        (s.present (f 8 1) = true → (x.migratable = false → ends s 2) ∧ (x.migratable = true → (f 8 1 = x.die → ends s 3) ∧
          (f 8 1 ≠ x.die → x.failed = true → ends (s.dropFailed x.die x.num) 6) ∧
          (f 8 1 ≠ x.die → x.failed = false → exec e s = .next ((s.setCmd qu.uid c.idx .migrating).updCtx x.die x.num fun x => { x with migrating := some (f 8 1) }))))))) ∧
  (∀ (s s1 : State) (uid idx lrec pro version : Nat) (rerun : Bool) (q : Queue) (c : Context) (bs eb : List Byte), s.queue? uid = some q →
    (q.cmd? idx).bind (·.st) = some (.launching lrec pro version none rerun) → s.ctx? q.die q.ctx = some c →
    let m := feMaster q.die q.ctx
    let r := LaunchRec.parse bs
    (lrec % 64 ≠ 0 → s.tryLaunch uid idx = s.queueError uid idx 3) ∧
    (∀ s0, lrec % 64 = 0 → feBytes m lrec 64 s = .ok (bs, s0) → (if natAt bs 40 8 = 0 then eb = [] ∧ s1 = s0 else feBytes m (natAt bs 40 8 + 64) 256 s0 = .ok (eb, s1)) →
      (launchStatus c version bs eb true 0 = 0 → let made := s1.makeGrid c r (if r.param = 0 then [] else parseEctx eb) version 1 none none none q.prio uid idx
        s.tryLaunch uid idx = made.2.setCmd uid idx (.launching lrec pro version (some made.1) rerun)) ∧
      (launchStatus c version bs eb true 0 = 1 → s.tryLaunch uid idx = s1.queueError uid idx 3) ∧
      (∀ k, launchStatus c version bs eb true 0 = k + 2 → s.tryLaunch uid idx = s1.finishCmd uid idx (some (k + 2)))))

-- the mailbox

/-- R320, R330: scheduler core `core` of a die, whose firmware runs and which is not stopped for a RELOAD, has a request of a function before it that it does not already wait for; the reserved bytes beyond `used` bytes of fields are 0. -/
def Asked (s : State) (die core code used : Nat) (d : Die) (req : List Byte) : Prop :=
  s.die? die = some d ∧ d.serves = true ∧ d.runs core = true ∧ (d.mailbox core).busy = true ∧ (d.mailbox core).req = req ∧ natAt req 0 2 = code ∧ (∀ w ∈ d.waiting, w.1 ≠ core) ∧
    zeroAt req 4 4 = true ∧ zeroAt req (8 + used) (56 - used) = true

/-- R320: an event answers a request at once, with a status and a result after a change of the state. -/
def Answers (e : Instr) (s : State) (die core status : Nat) (result : List Byte) (s' : State) : Prop := exec e s = .next (s'.respond die core status result)

/-- R320: an event takes a request up, and answers it once what it waits for has happened. -/
def TakesUp (e : Instr) (s : State) (die core : Nat) (what : List Nat) (s' : State) : Prop :=
  exec e s = .next (s'.updDie die fun d => { d with waiting := (core, what) :: d.waiting })

/-- R320, R321, R322: a response echoes code and tag with a status and a result, clears BUSY and sets RESP; a non-zero reserved byte answers 2, an unknown function 1. QCREATE gives a queue of its descriptor,
QDESTROY stops the queue's reading and completes later, QRESTART resumes at its head. -/
def Obligations.MailboxServesQueues : Prop :=
  (∀ (s : State) (die core status : Nat) (result : List Byte) (d : Die), s.die? die = some d → core < 8 → ∃ d', (s.respond die core status result).die? die = some d' ∧ d'.mailbox core =
    { d.mailbox core with rsp := (d.mailbox core).req.take 4 ++ padTo 4 (bytesLE 1 status) ++ padTo 56 result, busy := false, resp := true }) ∧
  (∀ (s : State) (die core code used : Nat) (e : Instr) (d : Die) (req : List Byte),
    (e, core, code, used) ∈ [(Instr.qcreate die, 0, 1, 8), (.qdestroy die, 0, 2, 8), (.qrestart die, 0, 3, 16), (.ctxcreate die, 1, 16, 16), (.ctxdestroy die, 1, 17, 8), (.vacate die, 1, 18, 16),
      (.coreoff die, 1, 19, 8), (.coreon die, 1, 20, 8), (.tilemem die, 2, 32, 16), (.errring die, 4, 64, 16), (.reclaim die, 4, 65, 9), (.undock die, 5, 81, 0), (.linkretrain die, 5, 82, 8),
      (.chanretrain die, 6, 97, 8), (.powercap die, 6, 98, 8), (.attest die, 7, 112, 16), (.reload die, 7, 113, 24)] →
    s.die? die = some d → d.serves = true → d.runs core = true → (d.mailbox core).busy = true → (d.mailbox core).req = req → natAt req 0 2 = code → (∀ w ∈ d.waiting, w.1 ≠ core) →
    zeroAt req 4 4 = false ∨ zeroAt req (8 + used) (56 - used) = false → Answers e s die core 2 [] s) ∧
  (∀ (s : State) (die core : Nat) (d : Die), s.die? die = some d → d.serves = true → d.runs core = true → (d.mailbox core).busy = true → (∀ w ∈ d.waiting, w.1 ≠ core) →
    natAt (d.mailbox core).req 0 2 ∉ functionCodes die core → Answers (.mbUnknownFunction die core) s die core 1 [] s) ∧
  (∀ (s : State) (die core : Nat) (v : Word), exec (.mbstatWrite die core v) s = .next (s.updDie die fun d =>
    let m := d.mailbox core
    d.setMail core { m with resp := m.resp && !v.getLsbD 1, overrun := m.overrun && !v.getLsbD 2 })) ∧
  (∀ (s : State) (die core : Nat) (d : Die), s.dies = [d] → d.code = die → (d.mailbox core).busy = true ∨ (d.mailbox core).resp = true →
    exec (.doorbellOverrun die core) s = .next { s with dies := [d.setMail core { d.mailbox core with overrun := true }] }) ∧
  (∀ (s s1 : State) (die num : Nat) (d : Die) (req : List Byte), Asked s die 0 1 8 d req →
    let b := s.hostBytes (natAt req 8 8) 64
    let ctx := natAt b 12 2
    (queueDescOk b = false ∨ s.ctx? die ctx = none → Answers (.qcreate die) s die 0 2 [] s) ∧
    (queueDescOk b = true → s.ctx? die ctx ≠ none → (16 ≤ (s.queues.countP fun q => q.die == die && q.ctx == ctx) ∨ 16384 ≤ (s.queues.countP (·.die == die)) → Answers (.qcreate die) s die 0 3 [] s) ∧
      ((s.queues.countP fun q => q.die == die && q.ctx == ctx) < 16 → (s.queues.countP (·.die == die)) < 16384 → s.freeQueueNo die [] = (num, s1) →
        Answers (.qcreate die) s die 0 0 (bytesLE 8 num) { s1 with
          nextId := s1.nextId + 1
          queues := s1.queues ++ [{ uid := s1.nextId, die := die, num := num, ctx := ctx, base := natAt b 0 8, k := natAt b 8 1, prio := natAt b 9 1, vector := natAt b 10 2, ctl := natAt b 16 8
                                    statusAddr := natAt b 24 8 }] }))) ∧
  (∀ (s : State) (die : Nat) (d : Die) (req : List Byte), Asked s die 0 2 8 d req →
    (s.queueNo die (natAt req 8 8) = none → Answers (.qdestroy die) s die 0 2 [] s) ∧
    (∀ q, s.queueNo die (natAt req 8 8) = some q → TakesUp (.qdestroy die) s die 0 [2, q.uid] (s.updQueue q.uid fun q => { q with destroyed := true, cmds := q.cmds.filter (·.st.isSome) }))) ∧
  (∀ (s : State) (die : Nat) (d : Die) (req : List Byte), Asked s die 0 3 16 d req → let h := natAt req 16 8
    (s.queueNo die (natAt req 8 8) = none → Answers (.qrestart die) s die 0 2 [] s) ∧
    (∀ q, s.queueNo die (natAt req 8 8) = some q → (q.stopped = none → Answers (.qrestart die) s die 0 4 [] s) ∧
      (let outside := 2 ^ 32 ≤ h ∨ (q.tail + 2 ^ 32 - q.head) % 2 ^ 32 < (h + 2 ^ 32 - q.head) % 2 ^ 32
       q.stopped ≠ none → (outside → Answers (.qrestart die) s die 0 2 [] s) ∧ (¬ outside → Answers (.qrestart die) s die 0 0 [] ((s.updQueue q.uid (·.restart h)).settleQueue q.uid))))) ∧
  (∀ (q : Queue) (h : Nat), (q.restart h).head = h ∧ (q.restart h).stopped = none ∧ (q.restart h).tail = q.tail ∧ (q.cmds = [] →
    (q.restart h).cmds = (List.range ((h + 2 ^ 32 - q.head) % 2 ^ 32)).map fun i => { idx := (q.head + i) % 2 ^ 32, slot := List.replicate 64 0, st := some .done }))

/-- R321, R323, R78, R331, R147, R482, R171, R307, R303, R332, R329, R330: CTXCREATE makes a context of its descriptor on idle cores, CTXDESTROY ends one, VACATE and COREOFF take cores away, COREON gives one back, TILEMEM
sets the tile slots; ERRRING, RECLAIM, GRANARY, UNDOCK, CLOCKCAP and POWERCAP set what they name; LINKRETRAIN replays requests,
CHANRETRAIN changes nothing; ATTEST writes the signed report; RELOAD puts its component in place and stops its core until it starts (log entry 40). -/
def Obligations.MailboxServesTheDie : Prop :=
  (∀ (s s1 s2 s3 : State) (die dr num load : Nat) (d : Die) (req : List Byte) (es : List ECtx), Asked s die 1 16 16 d req →
    let b := s.hostBytes (natAt req 8 8) 512
    let n := natAt req 16 8
    let idle := (List.range (Config.cores (isDie die))).filter (s.idleCore die ·)
    let c := contextOf b die num load ((idle.drop (dr % max 1 idle.length) ++ idle.take (dr % max 1 idle.length)).take n)
    (ctxDescOk b = false ∨ n = 0 → Answers (.ctxcreate die) s die 1 2 [] s) ∧
    (ctxDescOk b = true → n ≠ 0 → s.draw = (dr, s1) → s1.freeContext die = some (num, s2) → s2.draw = (load, s3) →
      (idle.length < n ∨ s3.phasersFree die c.phBase c.phCount = false → Answers (.ctxcreate die) s die 1 3 [] s) ∧
      (∀ s4, n ≤ idle.length → s3.phasersFree die c.phBase c.phCount = true →
        readEctx (feMaster die num) (parseEctx ((b.drop 192).take 256)) { s3 with ctxs := s3.ctxs ++ [c] } = .ok (es, s4) →
        Answers (.ctxcreate die) s die 1 0 (bytesLE 8 num) (s4.updCtx die num fun c => { c with ectx := Vector.ofFn fun i => es[i.val]?.getD {} })) ∧
      (∀ s4, n ≤ idle.length → s3.phasersFree die c.phBase c.phCount = true →
        readEctx (feMaster die num) (parseEctx ((b.drop 192).take 256)) { s3 with ctxs := s3.ctxs ++ [c] } = .error (.wait s4) →
        TakesUp (.ctxcreate die) s die 1 [16, num, 0] s4))) ∧
  (∀ (s : State) (die : Nat) (d : Die) (req : List Byte),
    let f (k : Nat) := natAt req (8 + 8 * k) 8
    let gave (e : Instr) (core st : Nat) (s' : State) : Prop := Answers e s die core st [] s'
    (Asked s die 1 17 8 d req → (s.ctx? die (f 0) = none → gave (.ctxdestroy die) 1 2 s) ∧ (s.ctx? die (f 0) ≠ none → TakesUp (.ctxdestroy die) s die 1 [17, f 0] (s.beginDestroy die (f 0)))) ∧
    (Asked s die 1 18 16 d req → (s.ctx? die (f 0) = none → gave (.vacate die) 1 2 s) ∧ (∀ c, s.ctx? die (f 0) = some c → (c.migrating ≠ none → gave (.vacate die) 1 4 s) ∧
      (c.migrating = none → TakesUp (.vacate die) s die 1 [18, f 0] (s.updCtx die (f 0) fun x => { x with
        vacating := (x.vacating ++ c.part.filter (natLE (s.hostBytes (f 1) (Config.cores (isDie die) / 8))).testBit).eraseDups })))) ∧
    (Asked s die 1 19 8 d req → (Config.cores (isDie die) ≤ f 0 → gave (.coreoff die) 1 2 s) ∧ (f 0 < Config.cores (isDie die) → (f 0 ∈ d.coresOff → gave (.coreoff die) 1 4 s) ∧
      (f 0 ∉ d.coresOff → let v := s.updDie die fun d => { d with coresOff := f 0 :: d.coresOff }
        TakesUp (.coreoff die) s die 1 [19, f 0] { v with ctxs := v.ctxs.map fun c => if c.die == die && c.part.contains (f 0) && !c.vacating.contains (f 0) then
          { c with vacating := f 0 :: c.vacating } else if c.migrating == some die && (c.sent.getD []).contains (f 0) then
          { c with sent := if ((c.sent.getD []).filter (· != f 0)).isEmpty then none else some ((c.sent.getD []).filter (· != f 0)) } else c }))) ∧
    (Asked s die 1 20 8 d req → (Config.cores (isDie die) ≤ f 0 → gave (.coreon die) 1 2 s) ∧
      (f 0 < Config.cores (isDie die) → gave (.coreon die) 1 0 (s.updDie die fun d => { d with coresOff := d.coresOff.filter (· != f 0) }))) ∧
    (Asked s die 2 32 16 d req → (s.ctx? die (f 0) = none → gave (.tilemem die) 2 2 s) ∧ (s.ctx? die (f 0) ≠ none →
      ((∃ g, s.gfx? die (f 0) = some g ∧ g.pass.isSome = true) → gave (.tilemem die) 2 4 s) ∧
      ((∀ g, s.gfx? die (f 0) = some g → g.pass = none) → f 1 * 16384 + 65536 ≤ Config.sliceBytes (isDie die) → let v := s.updCtx die (f 0) fun c => { c with tileSlots := f 1 }
        gave (.tilemem die) 2 0 { v with cores := v.cores.map fun k => if k.die == die then { k with regions := k.regions.filter fun r => !(r.kind == .tile && r.ctx == f 0) } else k }))) ∧
    (Asked s die 4 64 16 d req → let ok := f 0 % 64 = 0 ∧ ∃ k ∈ [6, 7, 8, 9, 10, 11, 12, 13, 14, 15, 16], f 1 = 2 ^ k
      (¬ ok → gave (.errring die) 4 2 s) ∧ (ok → let v := s.updDie die fun d => { d with errRing := some (f 0, f 1), errProd := 0 }
        gave (.errring die) 4 0 { v with dirs := v.dirs.map fun e => if e.key / 2 ^ 52 == die then { e with errIdx := none } else e })) ∧
    (Asked s die 4 65 9 d req → let key := physKey die (f 0)
      (f 0 % 64 ≠ 0 ∨ Config.memoryBytes (isDie die) ≤ f 0 ∨ 1 < natAt req 16 1 → gave (.reclaim die) 4 2 s) ∧
      (f 0 % 64 = 0 → f 0 < Config.memoryBytes (isDie die) → natAt req 16 1 ≤ 1 → (s.dirs.find? (·.key == key) = none → gave (.reclaim die) 4 4 s) ∧
        (∀ e, s.dirs.find? (·.key == key) = some e → (e.st ≠ .ownerLost → gave (.reclaim die) 4 4 s) ∧
          (e.st = .ownerLost → let v : State := { s.setDir key (some { e with st := .shared [] }) with poison := s.poison.filter (· != key) }
            let filled := if natAt req 16 1 = 1 then v.putHome key (List.replicate 64 0) else v
            let mark (i a c : Nat) : State := let k := physKey 3 (a + 64 + 64 * (i % c) + 62); filled.putHome k [Memory.get filled.mem k ||| 1]
            Answers (.reclaim die) s die 4 0 (bytesLE 4 e.writes ++ bytesLE 4 e.returns) (match e.errIdx, d.errRing with
              | some i, some (a, c) => if (d.errProd + 2 ^ 64 - i) % 2 ^ 64 ≤ c then mark i a c else filled
              | _, _ => filled))))) ∧
    (Asked s die 5 80 16 d req → die = 0 → (f 1 = 0 ∨ Config.memoryBytes false < f 0 + f 1 → gave (.granary die) 5 2 s) ∧
      (f 1 ≠ 0 → f 0 + f 1 ≤ Config.memoryBytes false → gave (.granary die) 5 0 (s.updDie die fun d => { d with granary := some (f 0, f 1) }))) ∧
    (Asked s die 5 80 16 d req → die ≠ 0 → gave (.granary die) 5 1 s) ∧
    (Asked s die 5 81 0 d req → (d.dock ≠ .docked → gave (.undock die) 5 4 s) ∧ (d.dock = .docked →
      ((∃ c ∈ s.ctxs, c.die ∈ beyond die ∧ c.ckpt = 1) → TakesUp (.undock die) s die 5 [81] s) ∧ ((∀ c ∈ s.ctxs, c.die ∈ beyond die → c.ckpt ≠ 1) → gave (.undock die) 5 0 (s.beginUndock die)))) ∧
    (Asked s die 5 82 8 d req → gave (.linkretrain die) 5 0 s.replayDirs) ∧
    (Asked s die 6 96 8 d req → (die = 0 → gave (.clockcap die) 6 1 s) ∧ (die ≠ 0 → let ok := 400 ≤ f 0 ∧ f 0 ≤ 1200 ∧ f 0 % 50 = 0
      (¬ ok → gave (.clockcap die) 6 2 s) ∧ (ok → gave (.clockcap die) 6 0 (s.updDie die fun d => { d with clockCap := f 0 })))) ∧
    (Asked s die 6 97 8 d req → (f 0 < 16 → gave (.chanretrain die) 6 0 s) ∧ (16 ≤ f 0 → gave (.chanretrain die) 6 2 s)) ∧
    (Asked s die 6 98 8 d req → let ok := if die = 0 then f 0 = 20 else 150 ≤ f 0 ∧ f 0 ≤ 650
      (ok → gave (.powercap die) 6 0 (s.updDie die fun d => { d with powerCap := f 0 })) ∧ (¬ ok → gave (.powercap die) 6 2 s)) ∧
    (Asked s die 7 112 16 d req → let body := d.report (s.hostBytes (f 0) 32)
      Answers (.attest die) s die 7 0 (bytesLE 8 (body ++ Config.ecdsaSign d.code body).length) (s.putHome (physKey 3 (f 1)) (body ++ Config.ecdsaSign d.code body))) ∧
    (Asked s die 7 113 24 d req → let bs := s.hostBytes (f 1) (f 2)
      let busy := f 0 = 5 ∧ ((d.dock ≠ .undocked ∧ d.dock ≠ .docked) ∨ s.linkBusy die = true)
      (8 ≤ f 0 → gave (.reload die) 7 2 s) ∧ (f 0 = 7 → gave (.reload die) 7 5 s) ∧ (busy → gave (.reload die) 7 4 s) ∧ (f 0 < 7 → ¬ busy →
        (reloadOk d (f 0) bs = false → gave (.reload die) 7 5 s) ∧
        (reloadOk d (f 0) bs = true → let place := d.carveBase + Memory.readNat s.mem (physKey die (d.carveBase + 520 + 96 * f 0)) 8
          TakesUp (.reload die) s die 7 [113] ((s.putHome (physKey die place) (bs.drop 4096)).updDie die fun d =>
            { d with stopped := some (f 0, natAt bs 4 4, Config.sha512 (bs.drop 4096)) })))))

-- registers, boot, docking and reset

/-- R315, R325, R326, R328, R329, R272, R320, R61, R16, R332: FWLOCK locks once and starts the verification of a carve-out within its limits; core 7 runs an image that nothing rejects and measures it; a write of BAR0 that is not
4 or 8 bytes wide and aligned aborts with a record; a register's write acts on the register alone, eight bytes as two words, the low one first; the lost bits clear where 1 is written; a head's controls are checked at its enabling and its
tail like a notify; core 6 moves D's clock one step at a time, not up past the host's cap; telemetry follows the sensors, on a die that has not tripped. -/
def Obligations.RegistersAreWritten : Prop :=
  (∀ (s : State) (die : Nat) (v : Word), exec (.fwlock die v) s = .next (s.updDie die fun d =>
    if v ≠ 1 ∨ d.locked = true then d else if d.carveOk = true then { d with locked := true, boot := .verifying } else { d with locked := true, boot := .rejected, reject := 1 })) ∧
  (∀ (s : State) (die : Nat) (d : Die), s.die? die = some d → d.boot = .verifying → d.tripped = false →
    let h := s.homeBytes (physKey die d.carveBase) 4096
    let image (c : Component) := s.homeBytes (physKey die (d.carveBase + c.off)) c.len
    exec (.firmwareVerify die) s = .next (s.updDie die fun d' => match rejects d h image with
      | some r => { d' with boot := .rejected, reject := r }
      | none => { ((components h).zip (List.range 9)).foldl (fun (d : Die) (c, i) => d.extend (s.dieTime die) i 0 (natAt h 4 4) c.digest)
          (d'.extend (s.dieTime die) 0xFF 0 (natAt h 4 4) (Config.sha512 (h.take 3584))) with boot := .running })) ∧
  (∀ (s : State) (die : Nat) (v : Word), exec (.dockstatClear die v) s = .next (s.updDie die fun d => { d with lost0 := d.lost0 && !v.getLsbD 4, lost1 := d.lost1 && !v.getLsbD 5 })) ∧
  (∀ (s : State) (die off size : Nat) (v : DWord) (w : Bool), (size ≠ 4 ∧ size ≠ 8) ∨ off % size ≠ 0 →
    exec (.registerWrite die off size v) s = .next (s.report die { kind := 12, a := off }) ∧ exec (.bar0BadAccess die off size w) s = .next (s.report die { kind := 12, a := off })) ∧
  (∀ (s : State) (die : Nat) (v : DWord), let lo := (v.setWidth 32 : Word)
    let puts (off : Nat) (f : Die → Die) : Prop := exec (.registerWrite die off 4 v) s = .next (s.updDie die f)
    puts 0x10 (fun d => if d.locked = true then d else { d with carveBase := d.carveBase / 2 ^ 32 * 2 ^ 32 + lo.toNat }) ∧
    puts 0x14 (fun d => if d.locked = true then d else { d with carveBase := d.carveBase % 2 ^ 32 + lo.toNat * 2 ^ 32 }) ∧
    puts 0x18 (fun d => if d.locked = true then d else { d with carveSize := lo.toNat }) ∧
    exec (.registerWrite die 0x20 4 v) s = exec (.fwlock die lo) s ∧ exec (.registerWrite die 0x40 4 v) s = exec (.dockstatClear die lo) s ∧
    (∀ o ∈ [0x00, 0x08, 0x30, 0x1000, 0x20000], exec (.registerWrite die o 4 v) s = .next s) ∧
    (∀ core < 8, let base := 0x10000 + core * 0x400
      (∀ k < 16, puts (base + 4 * k) fun d => d.setMail core { d.mailbox core with req := (d.mailbox core).req.take (4 * k) ++ bytesLE 4 lo.toNat ++ (d.mailbox core).req.drop (4 * k + 4) }) ∧
      puts (base + 0x80) (fun d => let m := d.mailbox core
        d.setMail core (if m.busy = true ∨ m.resp = true then { m with overrun := true } else { m with door := lo, busy := true })) ∧
      exec (.registerWrite die (base + 0x88) 4 v) s = exec (.mbstatWrite die core lo) s) ∧
    (∀ q < 16384, exec (.registerWrite die (0x100000 + 8 * q) 4 v) s = exec (.queueNotify die q (lo.setWidth 64) false) s) ∧
    (∀ head < 2, exec (.registerWrite 0 (0x200000 + head * 0x1000) 4 v) s = exec (.hctlWrite head lo) s ∧ exec (.registerWrite 0 (0x200020 + head * 0x1000) 4 v) s = exec (.ringtailWrite head lo) s) ∧
    (∀ off s1 s2, off % 8 = 0 → exec (.registerWrite die off 4 v) s = .next s1 → exec (.registerWrite die (off + 4) 4 (v >>> 32)) s1 = .next s2 → exec (.registerWrite die off 8 v) s = .next s2)) ∧
  (∀ (s : State) (head : Nat) (v : Word),
    let tailed (h : Head) : Head :=
      if h.hstat.getLsbD 2 = true then h
      else if 2 ^ (h.ringSize.toNat % 16) < (v - h.ringHead).toNat ∨ 2 ^ 31 ≤ (v - h.ringTail).toNat then { h with hstat := (if h.hctl.getLsbD 0 then 1 else 0) ||| (h.hstat &&& 2) ||| 4 }
      else { h with ringTail := v }
    exec (.hctlWrite head v) s = .next (s.updDie 0 fun d => { d with heads := d.heads.modify head fun h => h.writeCtl s.docked head v }) ∧
    exec (.ringtailWrite head v) s = .next (s.updDie 0 fun d => { d with heads := d.heads.modify head tailed })) ∧
  (∀ (h : Head) (docked : Bool) (head : Nat) (v : Word),
    (v.getLsbD 0 = false → (h.writeCtl docked head v).hctl.getLsbD 0 = false) ∧
    (h.hctl.getLsbD 0 = true → ∀ k ∈ [1, 2, 4, 5], (h.writeCtl docked head v).hctl.getLsbD k = h.hctl.getLsbD k) ∧
    (h.hctl.getLsbD 0 = false →
      (∀ k ∈ [1, 2], (h.writeCtl docked head v).hctl.getLsbD k = if v.toNat / 2 % 4 = 3 then h.hctl.getLsbD k else v.getLsbD k) ∧ (h.writeCtl docked head v).hctl.getLsbD 3 = v.getLsbD 3 ∧
      (∀ k ∈ [4, 5], (h.writeCtl docked head v).hctl.getLsbD k = if v.toNat / 16 % 4 = 3 then h.hctl.getLsbD k else v.getLsbD k) ∧
      (v.getLsbD 0 = true → let conn := if v.toNat / 16 % 4 = 3 then h.hctl.toNat / 16 % 4 else v.toNat / 16 % 4
        let good := connectionOk docked head conn = true ∧ modeOk docked h.hmode = true
        (good → (h.writeCtl docked head v).hctl.getLsbD 0 = true ∧ (h.writeCtl docked head v).hstat = 1) ∧
        (¬ good → (h.writeCtl docked head v).hctl.getLsbD 0 = h.hctl.getLsbD 0 ∧ (h.writeCtl docked head v).hstat.getLsbD 1 = true)))) ∧
  (∀ (s : State) (die mhz : Nat), exec (.clockChange die mhz) s = .next (s.updDie die fun d =>
    if d.isD = true ∧ d.tripped = false ∧ d.runs 6 = true ∧ 400 ≤ mhz ∧ mhz ≤ 1200 ∧ mhz % 50 = 0 ∧ (mhz + 50 = d.clock ∨ (mhz = d.clock + 50 ∧ mhz ≤ d.clockCap)) then
      { d with clock := mhz } else d)) ∧
  (∀ (s : State) (die power temp reasons : Nat), exec (.telemetryUpdate die power temp reasons) s = .next (s.updDie die fun d =>
    if d.tripped = true then d else { d with power := power % 2 ^ 32, temp := temp % 2 ^ 16, reasons := reasons % 8 }))

/-- R10, R316, R317, R303, R318, R308 to R311, R325, R332, R333: the dock state goes from undocked through training, booting and syncing to docked, each change raising the device vector; a die of another generation stays out with a record, written once; the link
is released once every context is back; its loss before docking affects nothing, and later takes the dies beyond it; a thermal trip and a reset lose their links and drop their contexts; D3hot ends every context, 0x12 written to each of its queues' status words (R333). -/
def Obligations.DiesComeAndGo : Prop :=
  (∀ (s : State) (die : Nat) (d : Die), s.die? die = some d →
    let goes (e : Instr) (st : DockState) : Prop := exec e s = .next (s.setDock die st)
    (d.present = true → d.dock = .undocked → die < 2 → goes (.dockPresence die) .training) ∧
    (∀ w, d.dock = .training → (if die = 0 then 8 else 16) ≤ w → goes (.linkTrained die w) .booting) ∧
    (∀ f, d.dock = .booting → die < 2 → s.die? (die + 1) = some f → f.boot = .running → goes (.farDieRunning die) .syncing) ∧
    (∀ g, d.present = true → d.dock = .syncing → die < 2 → (g ≠ Config.generation die → exec (.dockSync die g) s = .next
        (if d.refused = true then s else (s.updDie die fun d => { d with refused := true }).report die { kind := 14 })) ∧
      (g = Config.generation die → let far := (die + 1) :: (if (s.die? (die + 1)).any (·.dock == .docked) = true then beyond (die + 1) else [])
        let v := (s.setPresent far true).setDock die .docked
        (die ≠ 0 → exec (.dockSync die g) s = .next v) ∧
        (die = 0 → exec (.dockSync die g) s = .next { v with ctxs := v.ctxs.map fun c =>
          if c.die == 0 && c.migratable && c.acceptDock && !c.failed && c.migrating.isNone then { c with migrating := some 1 } else c }))) ∧
    (d.dock = .undocking → (∀ c ∈ s.ctxs, c.die ∉ beyond die ∧ ∀ t, c.migrating = some t → t ∉ beyond die) → exec (.undockComplete die) s = .next (s.detach die)) ∧
    (d.dock = .undocked → exec (.linkLoss die) s = .next s) ∧
    (d.dock = .training ∨ d.dock = .booting ∨ d.dock = .syncing → goes (.linkLoss die) .undocked) ∧
    (d.dock = .docked ∨ d.dock = .undocking → exec (.linkLoss die) s = .next ((s.loseDies die ((beyond die).filter s.present)).detach die))) ∧
  (∀ (s : State) (die : Nat) (st : DockState) (d : Die), s.die? die = some d → (d.dock = st → s.setDock die st = s) ∧
    (d.dock ≠ st → s.setDock die st = (s.updDie die fun d => { d with dock := st, refused := false }).raise die 0)) ∧
  (∀ (s : State) (die : Nat), (∀ d ∈ (s.detach die).dies, d.code ∈ beyond die → d.present = false) ∧ beyond 0 = [1, 2] ∧ beyond 1 = [2] ∧ beyond 2 = []) ∧
  (∀ (s : State) (near : Nat) (lost : List Nat), 
    (∀ d ∈ (s.loseDies near lost).dies, d.code ∉ lost → d.present = true → (1 ∈ lost → d.lost0 = true) ∧ (2 ∈ lost → d.lost1 = true)) ∧
    (∀ e ∈ (s.loseDies near lost).locks, e.key / 2 ^ 52 ∉ lost)) ∧
  (∀ (s : State) (die : Nat),
    let cut := match s.upstream die with | some u => s.lossOf u | none => s
    let left := let v := cut.lossOf die; (v.ctxs.filter (·.die == die)).foldl (fun v c => v.dropCtx die c.num) v
    exec (.thermalTrip die) s = .next ((((cut.ctxs.filter (·.die == die)).foldl (fun v c => v.dropCtx die c.num) (cut.lossOf die))).updDie die fun d => { d with tripped := true, stopped := none }) ∧
    exec (.deviceReset die) s = .next { left with
      dies := left.dies.map fun d => if d.code == die then (if d.isD then Die.resetD d.code d.present else { Die.resetP with present := d.present }) else d
      cores := left.cores.filter fun k => k.die != die
      commits := if die = 0 then [] else left.commits }) ∧
  (∀ (s : State) (die : Nat), exec (.d3hotEntry die) s = .next ((s.endContexts die).dropOver.updDie die fun d => { d with d3hot := true })) ∧
  (
    let ends (die : Nat) (v : State) (c : Context) : State := (v.beginDestroy die c.num).updCtx die c.num fun c =>
      { c with ending := true, checkpoint := false, ckpt := 0, held := [], heldMore := [], migrating := none, sent := none }
    (∀ (s : State) (die : Nat), (∀ q ∈ s.queues, q.die ≠ die) → s.endContexts die = (s.ctxs.filter (·.die == die)).foldl (ends die) s) ∧
    (∀ (s s1 : State) (die : Nat) (c : Context) (q : Queue), s.ctxs.filter (·.die == die) = [c] → (s.queues.filter fun q => q.die == die && q.ctx == c.num) = [q] →
      let v := ends die s c
      engStore ⟨die, (feMaster die c.num).core, c.num, v.nextId⟩ q.statusAddr (bytesLE 8 (v.draw.1 % 2 ^ 32 + 0x12 * 2 ^ 32)) { v.draw.2 with nextId := v.nextId + 1 } = .ok ((), s1) →
      s.endContexts die = { s1 with tlWrites := v.tlWrites.filter (·.op != v.nextId) })) ∧
  (∀ (s : State) (c : Context), s.ctxs = [c] → c.ending = true → (∀ w ∈ s.tlWrites, w.die = c.die → w.ctx ≠ c.num) → s.dropOver = s.dropCtx c.die c.num) ∧
  (∀ s : State, (∀ c ∈ s.ctxs, c.ending = true → ∃ w ∈ s.tlWrites, w.die = c.die ∧ w.ctx = c.num) → s.dropOver = s)

-- placement, the fold, and memory

/-- R29, R30, R37, R49, R52, R59, R76, R79, R81, R86, R87, R204, R266, R481: core 2 places the next team or cohort of the grid of highest priority, oldest first, on cores that
have room, or none of its members; a team starts at its entry with its parameter words in s6 to s15, or 0, and its batch in s2 to s5, its timelines tracked and its scratchpad zero;
each of its threads starts with the registers below the quota dead and the others absent, without a recipe tag, p1 to p7 false, flags, k registers and MSTEP 0; core 1 grants idle
cores; a node's batch is its oldest records, which its team, placed in its turn, takes; a quad enters the fold whole; a bundle takes what waits at an entry in order, by arrival then TID,
or by coherence key then TID, each whole and on home lanes of its own, and leaves out only what meets one already taken; a bundle becomes aged. -/
def Obligations.TeamsArePlaced : Prop :=
  (∀ (s s1 : State) (die ctx num : Nat) (vas cores : List Nat) (c : Context) (g : Grid), s.ctx? die ctx = some c → s.nextGrid die ctx = some g → g.nextNum = some num → cores.length = g.cohortSize →
    cores.all (s.mayTake c g) = true → s.placing c = true →
    let done (s : State) : State := s.updGrid g.uid fun x => if x.again.contains num then { x with again := x.again.filter (· != num) } else { x with nextTeam := x.nextTeam + g.cohortSize }
    let how := s.placeCohort g (((List.range g.cohortSize).map (num + ·)).zip cores)
    (how = .ok s1 → exec (.teamPlace die ctx cores) s = .next ((done s1).giveQuads g s.nextId)) ∧ (how = .noRoom → exec (.teamPlace die ctx cores) s = .next s) ∧
    (how = .waits s1 → exec (.teamPlace die ctx cores) s = .next s1) ∧
    (how = .missed vas s1 → exec (.teamPlace die ctx cores) s = .next ((done s1).updGrid g.uid fun g => { g with parked := g.parked ++ vas.map fun va => (num, va) }))) ∧
  (∀ (s : State) (g : Grid) (ms : List (Nat × Nat)), (seatAll g ms (ms.map fun _ => {}) s = none → s.placeCohort g ms = .noRoom) ∧
    ∀ (v : State) (fs : List FirstWords), fs.length = ms.length → seatAll g ms fs s = some v → v.teams.length = s.teams.length + ms.length ∧ v.nextId = s.nextId + ms.length) ∧
  (∀ (s : State) (die ctx : Nat) (g : Grid), s.nextGrid die ctx = some g → g ∈ s.grids ∧ g.die = die ∧ g.ctx = ctx ∧ g.nextNum.isSome = true ∧ s.fragBehind g = false ∧
    ∀ o ∈ s.grids, o.die = die → o.ctx = ctx → o.nextNum.isSome = true → s.fragBehind o = false → o.prio < g.prio ∨ (o.prio = g.prio ∧ g.uid ≤ o.uid)) ∧
  (∀ (s s1 : State) (g : Grid) (num core : Nat) (tm : Team) (f : FirstWords), s.allocTeam (newTeam g s.nextId num s.steps) core = some (tm, s1) → f.words.length = 10 →
    let p := g.lrec.param
    let batch : List Word := match g.batch with | some (a, z, n) => words64 (BitVec.ofNat 64 a) ++ [w32 z, w32 n] | none => [0, 0, 0, 0]
    ∃ (v : State) (x : Team), s.seatTeam g num core f = some v ∧ v.teams = s1.teams ++ [x] ∧ v.mem = Memory.clear s1.mem (commonsKey g.die core tm.scrBase) tm.scrSize ∧
      x.s.toList = words64 (BitVec.ofNat 64 p) ++ batch ++ (if p = 0 then List.replicate 10 0 else f.words.map fun w => w32 w) ++ List.replicate 16 0 ∧
      (∀ i a sc t, ((i, a, sc), t) ∈ (g.tracked num).zip f.tls → x.ectx[i]? = some { tl := a, next := BitVec.ofNat 64 (t + 1), scope := sc }) ∧
      x.threads = tm.threads.map (fun t => { t with firstTrap := f.trap }) ∧ x.core = tm.core ∧ x.gangs = tm.gangs) ∧
  (∀ (g : Grid) (uid num step : Nat), let tm := newTeam g uid num step
    tm.threads.length = g.lrec.teamSize ∧ tm.gangs.length = g.lrec.gangs ∧ (∀ x ∈ tm.gangs, x.quota = g.lrec.quota) ∧ tm.tiles.length = g.lrec.tiles ∧ tm.version = g.version ∧
    ∀ t ∈ tm.threads, t.pc = BitVec.ofNat 64 g.lrec.entry ∧ t.status = .fold step ∧ t.inHandler = false ∧
      (∀ n, n < 64 → (t.cell n).tag = 0 ∧ regState g.lrec.quota n (t.cell n) = if n < g.lrec.quota then .dead else .absent) ∧
      (∀ n, 1 ≤ n → n ≤ 7 → t.pred n = false) ∧ t.f = Vector.replicate 12 0 ∧ t.k = Vector.replicate 8 0 ∧ t.mstep = 0) ∧
  (∀ (s : State) (die ctx : Nat) (cores : List Nat) (c : Context), s.ctx? die ctx = some c →
    exec (.partitionGrant die ctx cores) s = .next (s.updCtx die ctx fun x => { x with part := c.part ++ cores.eraseDups.filter (s.idleCore die ·), stalled := false })) ∧
  (∀ (s : State) (die ctx node count core : Nat) (c : Context) (gr : Graph) (nd : Node), s.ctx? die ctx = some c → c.die = die → c.num = ctx → c.graph = some gr → gr.nodes[node]? = some nd → nd.kind = 1 → count ≠ 0 →
    s.placing c = true → gr.held = none →
    let e : Instr := .nodeBatchLaunch die ctx node count core
    let frag := match (s.nodeOfKind die ctx 3).bind (s.node? die ctx ·) with | some r => r.succ.contains node | none => false
    (frag = true → nd.queue = [] → exec e s = .next (s.launchFrags c gr nd node count core)) ∧
    (∀ va s0 s1, frag = false → count ≤ (if nd.batch = 0 then nd.lrec.teamSize else nd.batch) → count ≤ nd.queue.length → nd.recSize ≠ 32 →
      (∀ g ∈ s.grids, g.die = die → g.ctx = ctx → g.frags = [] → g.batch = none) → (∀ h ∈ s.hits, ¬(h.die = die ∧ h.ctx = ctx)) →
      s.choose ((List.range (nd.cap + 1 - count)).map fun i => gr.pool + poolOffset gr.nodes node + i * nd.recSize) = (some va, s0) →
      storeWords (feMaster die ctx) (count * nd.recSize / 4) va (nd.queue.take count).flatten s0 = .ok ((), s1) →
      exec e s = .next ((s1.nodeGrid c gr nd node (some (va, nd.recSize, count)) []).2.updNode die ctx node fun nd => { nd with queue := nd.queue.drop count }))) ∧
  (∀ (s : State) (die core : Nat), let v0 := s.dissolveMoves die core
    let lq := Config.lanesPerQuarter (isDie die)
    let bundles := (List.range 4).flatMap fun q =>
      let mine := (v0.foldWaiting die core).filter fun w => w.quarter lq == q
      (foldKeys mine).flatMap fun k => (entryBundles lq mine.length (foldOrder (mine.filter (·.key == k)))).map fun b => ({ quarter := q, members := b, since := v0.steps } : Bundle)
    let v := (bundles.flatMap (·.members)).foldl (fun v id => v.updThread id fun t => { t with status := .bundled, dissolve := none }) v0
    ((∀ w ∈ s.foldWaiting die core, w.coh = none) → v0 = s) ∧ (bundles = [] → exec (.foldFormationStep die core) s = .next v0) ∧
    (bundles ≠ [] → exec (.foldFormationStep die core) s = .next (v.setCore { v.core die core with bundles := (v.core die core).bundles ++ bundles }))) ∧
  (∀ (lq : Nat) (ws : List Waiting), let apart (a b : Waiting) : Prop := ∀ m ∈ a.members, ∀ x ∈ b.members, m.2 % lq ≠ x.2 % lq
    (∀ w ∈ takeBundle lq ws, w ∈ ws) ∧ (takeBundle lq ws).Pairwise apart ∧
    (∀ pre w post, ws = pre ++ w :: post → w ∈ takeBundle lq ws ∨ ∃ b ∈ takeBundle lq pre, ¬ apart b w) ∧ (foldOrder ws).Perm ws ∧
    ((∀ w ∈ ws, w.coh = none) → (foldOrder ws).Pairwise fun a b => a.since < b.since ∨ (a.since = b.since ∧ a.tid ≤ b.tid)) ∧
    ((∀ w ∈ ws, w.coh.isSome = true) → (foldOrder ws).Pairwise fun a b => let ka := (a.coh.getD 0).toNat
      let kb := (b.coh.getD 0).toNat
      ka < kb ∨ (ka = kb ∧ a.tid ≤ b.tid))) ∧
  (∀ (tm : Team) (t : Thread) (q : List Thread), foldUnit tm t = some q → (tm.quads = false → q = [t]) ∧
    (tm.quads = true → t.atEntry = true → q = quadMates tm t.tid ∧ ∀ o ∈ q, o.atEntry = true ∧ o.pc = t.pc ∧ ∃ n, o.status = .fold n)) ∧
  (∀ (s : State) (die core idx : Nat), exec (.bundleAged die core idx) s =
    .next (s.setCore { s.core die core with bundles := (s.core die core).bundles.modify idx fun b => { b with aged := true } }))

/-- R160 to R164, R167, R361, R471: a walk installs its entry; core 3 resolves the oldest fault record by writing its entry, dropping its translations and waking the threads and the engine work that waited, only wakes them where the page has been made valid, and takes a CODEWRITE to the open version; an
unresolvable one traps the parked threads with XLATE, or RECIPE where a recipe met it, and fails the work; a HOME record waits for its page to move or be mapped remotely: a page that moves home takes its bytes and its entries along, or is mapped remotely. -/
def Obligations.PagesAreServed : Prop :=
  (∀ (s s1 : State) (die team tid : Nat) (va : DWord) (kind : Nat) (tm : Team) (t : Thread) (l : Pte × Nat), s.team? team = some tm → tm.threads[tid]? = some t → tm.die = die →
    s.translate die tm.core (s.ctxOf tm) (if kindOf kind = .execute then tm.version else 0) va.toNat (kindOf kind) = (.ok l, s1) → exec (.translationWalk team tid va kind) s = .next s1) ∧
  (∀ (s : State) (die : Nat) (d0 d1 : DWord) (d : Die) (f : FaultRec) (rest : List FaultRec) (c : Context), s.die? die = some d → d.faults = f :: rest → s.ctx? die f.ctx = some c →
    let s1 := s.updDie die fun d => { d with faults := d.faults.drop 1 }
    let served (v : State) : State := (v.wake (v.parkedOn f)).release die f.ctx (f.va / 8192)
    let write (v : State) : State := served (v.dropTlb die f.ctx (f.va / 8192 * 8192) 8192)
    (s1.maps c f.va f.kind = true → exec (.faultResolve die d0 d1) s = .next (served s1)) ∧
    (s1.maps c f.va f.kind = false → f.reason = reasonHome → exec (.faultResolve die d0 d1) s = .next s) ∧
    (s1.maps c f.va f.kind = false → f.reason ≠ reasonCodeWrite → f.reason ≠ reasonHome → let k := s1.leafKey die f.va 4 c.root
      exec (.faultResolve die d0 d1) s = .next (write { k.2 with mem := Memory.write (Memory.write k.2.mem (k.1 + 8) (bytesLE 8 d1.toNat)) k.1 (bytesLE 8 d0.toNat) })) ∧
    (s1.maps c f.va f.kind = false → f.reason = reasonCodeWrite → exec (.faultResolve die d0 d1) s = .next (write (s1.openCode c f.va (Pte.addr ⟨d0.toNat, d1.toNat⟩)))) ∧
    exec (.faultUnresolvable die) s = .next (((s1.parkedOn f).foldl (fun v id => v.takeTrap id (unresolvedTrap (v.thread id) f.reason)) s1).doom die f.ctx (f.va / 8192) f.reason)) ∧
  (∀ (t : Thread) (va reason r0 : Nat) (kind : AccKind), t.status = .parked va kind r0 none → let r := unresolvedTrap t reason
    r.cause = causeXlate ∧ r.addr = BitVec.ofNat 64 va ∧ r.code = (if reason = reasonNotPresent then codeNotMapped else if reason = reasonHome then codeHomeAbsent else if reason = reasonEntryBad then codeEntryBad else codeNoRight)) ∧
  (∀ (t : Thread) (va reason r0 reg depth : Nat) (kind : AccKind), t.status = .parked va kind r0 (some (reg, depth)) → let r := unresolvedTrap t reason
    r.cause = causeRecipe ∧ r.code = 0 ∧ r.reg = reg ∧ r.depth = depth ∧ r.addr = BitVec.ofNat 64 va) ∧
  (∀ (s : State) (die ctx newDie pa : Nat) (va : DWord) (c : Context) (lf : Leaf), s.ctx? die ctx = some c → walkFrom s.mem die va.toNat 4 c.root = .ok lf →
    let n := pageBytes lf.level
    let home := lf.pte.home
    let entry (x : Context) (e : Pte) : Nat := let d0 := e.d0 - e.addr + pa - e.home * 1024 + newDie * 1024; if x.checkpoint && newDie != 0 then d0 ||| 512 else d0
    let moved := (s.recall (physKey home lf.pte.addr) n).rekey (physKey home lf.pte.addr) (physKey newDie pa) n
    let mapped0 := moved.ctxs.foldl (fun v x => (leavesOf v.mem x.die 4 x.root).foldl (fun v (k, lvl, e) =>
      if lvl == lf.level && e.home == home && e.addr == lf.pte.addr then v.writePte k (entry x e) e.d1 else v) v) moved
    let mapped := mapped0.moveFrames c (va.toNat / n * n) n newDie
    (home ≠ 3 → home ≠ newDie → s.present newDie = true → pa % n = 0 → pa + n ≤ Config.memoryBytes (isDie newDie) →
      exec (.homeMigration die ctx va newDie pa) s = .next ((mapped.ctxs.foldl (fun v x => v.dropTlb x.die x.num 0 0) mapped).wakeHome die ctx va.toNat)) ∧
    (home ≠ 3 → home ≠ die → exec (.remoteMap die ctx va) s = .next (((s.writePte lf.key lf.pte.d0 (lf.pte.d1 - lf.pte.coh + 1)).dropTlb die ctx (va.toNat / 8192 * 8192) 8192).wakeHome die ctx va.toNat))) ∧
  (∀ (s : State) (old new n : Nat), (s.rekey old new n).mem = Memory.write s.mem new (Memory.read s.mem old n) ∧
    (∀ r ∈ s.locks, old ≤ r.key → r.key < old + n → { r with key := new + (r.key - old) } ∈ (s.rekey old new n).locks))

/-- R168, R170, R175, R187, R203, R284, R285, R475, R476, R482: an unanswered snoop makes its line OWNERLOST with a record of kind 3; the owner's answer writes dirty data back; a late one is dropped with a record; a first-level line expires unless it is
immutable; a host write reaches memory unless a table refuses it or the owner of its line is lost; core 4 copies a trap record into its context's ring and counts those it cannot. -/
def Obligations.LinesAndLogs : Prop :=
  (∀ (s : State) (line n : Nat) (e : DirEntry), s.dirs.find? (·.key == lineKey line) = some e → e.snoop = some n → ∀ (owner prev : Nat), (e.st = .exclusive owner ∧ prev = 2) ∨ (∃ d, e.st = .modified owner d ∧ prev = 3) →
    let home := e.key / 2 ^ 52
    let writes := (e.waiters.filter fun w => !w.2).length
    let returns := (e.waiters.filter (·.2)).length
    let v := s.report home { kind := 3, ctx := s.waiterCtx e, code := codeOwnerLost, a := e.key % 2 ^ 52
                             detail := bytesLE 1 owner ++ bytesLE 1 prev ++ bytesLE 4 n ++ bytesLE 2 writes ++ bytesLE 2 returns }
    let count (v : State) := (v.die? home).map (·.errProd)
    exec (.ownerTimeout line) s = .next (v.setDir e.key (some { e with
      st := .ownerLost, snoop := none, oldOwner := some owner, prev := prev, writes := writes, returns := returns, errIdx := if count v = count s then none else count s }))) ∧
  (∀ (s : State) (line n : Nat) (e : DirEntry), s.dirs.find? (·.key == lineKey line) = some e → e.snoop = some n → let free : DirEntry := { e with st := .shared [], snoop := none }
    (∀ o, e.st = .exclusive o → exec (.snoopAnswer line) s = .next (s.setDir e.key (some free))) ∧
    (∀ o d, e.st = .modified o d → exec (.snoopAnswer line) s = .next (({ s with mem := Memory.write s.mem e.key d } : State).setDir e.key (some free)))) ∧
  (∀ (s : State) (line o : Nat) (e : DirEntry), s.dirs.find? (·.key == lineKey line) = some e → e.oldOwner = some o → exec (.lateOwnerAnswer line) s =
    .next ((s.report o { kind := 4, a := e.key % 2 ^ 52 }).setDir e.key (if e.st = .shared [] ∧ e.waiters = [] then none else some { e with oldOwner := none }))) ∧
  (∀ (s : State) (die core line : Nat), exec (.lineExpiry die core line) s = .next (s.setCore { s.core die core with l1 := (s.core die core).l1.filter fun l => l.imm || l.key != lineKey line })) ∧
  (∀ (s : State) (die addr : Nat) (data : List Byte) (relaxed : Bool), die ≤ 3 → (die ≠ 3 → s.present die = true) → addr + max 1 data.length ≤ 2 ^ 52 →
    ((die = 3 ∨ s.tableRefuses die addr (max 1 data.length) = none) → (∀ a ∈ linesOf addr (max 1 data.length), ∀ e ∈ s.dirs, e.key ≠ physKey die a) →
      (∃ v, exec (.hostRequest false die addr data relaxed) s = .next v ∧ v.mem = s.mem) ∧
      (s.MemOk → ∃ v, exec (.hostRequest true die addr data relaxed) s = .next v ∧ ∀ k, Memory.get v.mem k =
        if physKey die addr ≤ k ∧ k < physKey die addr + data.length then data[k - physKey die addr]?.getD 0 else Memory.get s.mem k)) ∧
    (∀ e, die ≠ 3 → s.tableRefuses die addr (max 1 data.length) = none → addr / 64 = (addr + max 1 data.length - 1) / 64 → s.dirs.find? (·.key == physKey die (addr / 64 * 64)) = some e →
      e.st = .ownerLost → ∃ v, exec (.hostRequest true die addr data relaxed) s = .next v ∧ v.mem = s.mem) ∧
    (∀ code write, die ≠ 3 → s.tableRefuses die addr (max 1 data.length) = some code → exec (.hostRequest write die addr data relaxed) s = .next (s.report die { kind := 12, code := code, a := addr }))) ∧
  (∀ (s s1 s2 s3 : State) (die : Nat) (d : Die) (r bs : List Byte) (rest : List (List Byte)), s.die? die = some d → d.traps = r :: rest → d.trapHeld = none → d.trapDoomed = false →
    let ctx := natAt r 38 2 % 4096
    let took (v : State) (dropped : Nat) : State := v.updDie die fun d => { d with traps := rest, trapDropped := dropped, trapHeld := none, trapDoomed := false }
    let lost (v : State) : State := v.updDie die fun d => { d with traps := rest, trapDropped := d.trapDropped + 1 + natAt r 48 2, trapHeld := none, trapDoomed := false }
    let m : Master := ⟨die, 0xFFFF, ctx, 0⟩
    (s.ctx? die ctx = none → exec (.trapLogCopy die) s = .next (lost s)) ∧
    (∀ c, s.ctx? die ctx = some c → (c.trapRing = 0 → exec (.trapLogCopy die) s = .next (lost s)) ∧
      (c.trapRing ≠ 0 → engLoad m (c.trapRing + 8) 8 s = .ok (bs, s1) → let used := ringUsed c.trapProd (natLE bs) c.trapRingN
        (used = c.trapRingN → exec (.trapLogCopy die) s = .next (lost s1)) ∧
        (used ≠ c.trapRingN → engStore m (c.trapRing + 64 + 64 * (c.trapProd % c.trapRingN)) (trapLost r (min 0xFFFF (d.trapDropped + natAt r 48 2))) s1 = .ok ((), s2) →
          engStore m c.trapRing (bytesLE 8 (c.trapProd + 1)) s2 = .ok ((), s3) → let v := (took s3 0).updCtx die ctx fun c => { c with trapProd := (c.trapProd + 1) % 2 ^ 64 }
          exec (.trapLogCopy die) s = .next (if used + 1 = c.trapRingN / 2 then v.raiseCtx die ctx c.errVector else v)))))

-- switches, checkpoints, migrations and the display

/-- R43, R56, R78, R79, R282, R287 to R295, R299: a team that is to leave its core enters its save handlers in its slot once nothing of it is in flight, and ends unsaved where its context has failed or has no room; a save TRET writes the thread's
record, its kept registers dropped, and, after the last, the team's, and frees the core; a handler that runs 10 ms fails the switch; a stalled round leaves a record; a saved team comes back on cores with room, and a restore TRET applies its record. -/
def Obligations.TeamsSwitch : Prop :=
  (∀ (s : State) (team cause : Nat) (tm : Team), s.team? team = some tm → tm.status = .resident → tm.prologue = none → s.wantsOut (s.ctxOf tm) tm cause = true → cause < 3 →
    let c := s.ctxOf tm
    let s1 := (tm.threads.filter (·.status != .ended)).foldl (fun v t => match t.status with | .stopping r time seq => v.enterTrap (team, t.tid) r time seq | _ => v.takePending (team, t.tid)) s
    (c.failed = true → exec (.switchOut team cause) s = .next (s.killTeam team)) ∧
    (c.failed = false → s.settledTeam tm = false → exec (.switchOut team cause) s = .next s) ∧
    (c.failed = false → s.settledTeam tm = true → ((s1.ctxOf tm).failed = true → exec (.switchOut team cause) s = .next (s1.killTeam team)) ∧
      ((s1.ctxOf tm).failed = false → (∀ s2, s1.giveSlot tm (s1.ctxOf tm) = (none, s2) → exec (.switchOut team cause) s = .next s2) ∧
        (∀ slot s2, s1.giveSlot tm (s1.ctxOf tm) = (some slot, s2) →
          let v := s2.updTeam team fun t => { t with gave := if cause = 0 ∧ (s2.cohort tm).any (fun o => c.vacating.contains o.core) = false then tm.waitsForRoom else none }
          (c.saveEntry = 0 → exec (.switchOut team cause) s = .next (v.saveFail team codeSavetimeout)) ∧
          (c.saveEntry ≠ 0 → exec (.switchOut team cause) s = .next (v.enterSave team (if cause = 2 then causeMigrate else causePreempt) (if cause = 1 then 0x24 else 0) slot (BitVec.ofNat 64 c.saveEntry)
            (if cause = 0 then .vacate else if cause = 1 then .checkpoint else .migrate))))))) ∧
  (∀ (s : State) (team cause code slot : Nat) (entry : DWord) (why : SwitchCause) (tm : Team), s.team? team = some tm → ∃ x, (s.enterSave team cause code slot entry why).team? team = some x ∧ x.status = .leaving why ∧
    x.threads.length = tm.threads.length ∧ ∀ (k : Nat) (t u : Thread), tm.threads[k]? = some t → x.threads[k]? = some u → (t.status = .ended → u = t) ∧
      (t.status ≠ .ended → u.handler = .save ∧ u.pc = entry ∧ u.x = t.x ∧ u.trapPc = t.pc ∧ u.trapCause = wd cause ∧ u.trapAddr = BitVec.ofNat 64 slot ∧ u.status = .fold s.steps)) ∧
  (∀ (s s1 : State) (id : ThreadId) (tm : Team) (t : Thread), Issuing s id tm t → tm.uid = id.1 → t.infl = [] → let slot := tm.slot.getD 0
    (t.handler = .save → feStore tm.master 32 (recordVa slot t.tid) (s.threadRecord tm t.dropKept) s = .ok ((), s1) → s1.teams = s.teams →
      let s2 := s1.updThread id fun _ => { t.dropKept with status := .out, handler := .none, pc := t.trapPc, clause := none, entry := none }
      let left (x : Team) : Bool := x.threads.all fun t => t.status == .out || t.status == .ended
      ∀ x, s2.team? id.1 = some x → (left x = false → exec .tret s = .next s2.leaveIssue) ∧
        (∀ s3 s4, left x = true → feStore x.master 512 slot (s2.header x) s2 = .ok ((), s3) → feStore x.master (2 * x.gangs.length * x.recipeMax) (slot + 4096) x.recipeTables s3 = .ok ((), s4) →
          exec .tret s = .next ((s4.freeRegions x).updTeam x.uid fun y => { y with status := .out }).leaveIssue)) ∧
    (∀ bs hdr s0, t.handler = .restore → feBytes tm.master (recordVa slot t.tid) 256 s = .ok (bs, s0) → feBytes tm.master slot 200 s0 = .ok (hdr, s1) → s1.teams = s.teams → s1.ctxs = s.ctxs →
      let s2 := s1.setCore (s1.core tm.die tm.core).acquire
      let ok := recordOk bs tm.recipeMax = true ∧ s.inCode tm (natAt bs 0 8) = true
      (¬ ok → exec .tret s = .next (s2.leaveIssue.restoreFail tm.uid)) ∧
      (ok → exec .tret s = .next (((s2.updThread id fun t => t.applyRecord bs (tm.quotaOf t.tid) s2.steps).applyPhasers tm t.tid bs hdr).updTeam tm.uid fun tm =>
        if tm.threads.all (fun t => t.handler != .restore) then { tm with status := .resident } else tm).leaveIssue))) ∧
  (∀ (s : State) (team : Nat) (tm : Team), s.team? team = some tm →
    (∀ why, tm.status = .leaving why → (∃ t ∈ tm.threads, t.handler = .save) → exec (.saveTimeout team) s = .next (s.saveFail team codeSavetimeout)) ∧
    (tm.status = .resident → tm.rounds ≠ [] → (∃ cause < 3, s.wantsOut (s.ctxOf tm) tm cause = true) → exec (.peerRoundStall team) s = .next (s.report tm.die { kind := 2, ctx := tm.ctx })) ∧
    (∀ (core : Nat) (s1 : State), let c := s.ctxOf tm
      s.wantsIn tm = true → c.migrating = none → c.ckpt = 0 → c.takes core = true → (∀ o ∈ s.teams, o.die = tm.die → o.ctx = tm.ctx → s.wantsIn o = true → s.savedBefore tm o = true) →
      let mates := (s.cohort tm).filter fun o => o.uid != team && o.status == .out
      let cs := c.part.filter c.takes
      let plan := (tm, core) :: (mates.zip (List.range mates.length)).map fun (o, i) => (o, cs[s.draw.1 / 256 ^ i % max 1 cs.length]?.getD core)
      (restoreTeams plan s.draw.2 = .ok s1 → exec (.switchIn team core) s = .next s1) ∧
      (restoreTeams plan s.draw.2 = .held s1 → exec (.switchIn team core) s = .next { s.draw.2 with dies := s1.dies, dirs := s1.dirs }) ∧ (restoreTeams plan s.draw.2 = .noRoom → exec (.switchIn team core) s = .next s.draw.2))) ∧
  (∀ (s s1 s2 : State) (tm tm' : Team) (core : Nat) (h r : List Byte), let c := s.ctxOf tm
    let m : Master := ⟨tm.die, core, tm.ctx, 0⟩
    let slot := tm.slot.getD 0
    feBytes m slot 4096 s = .ok (h, s1) → feBytes m (slot + 4096) (16 * tm.gangs.length * tm.recipeMax) s1 = .ok (r, s2) →
    (headerOk h tm = false ∨ recipesOk r = false ∨ c.restoreEntry = 0 → s.restoreTeam tm core = .ok (s2.restoreFail tm.uid)) ∧
    (headerOk h tm = true → recipesOk r = true → c.restoreEntry ≠ 0 → s2.allocTeam (tm.applyHeader h r) core = none → s.restoreTeam tm core = .noRoom) ∧
    (∀ s3, headerOk h tm = true → recipesOk r = true → c.restoreEntry ≠ 0 → s2.allocTeam (tm.applyHeader h r) core = some (tm', s3) → s.restoreTeam tm core = .ok (State.updTeam { s3.setCore (s3.core tm.die core).acquire with
      free := s3.free + 64 * tm'.threads.length } tm.uid fun _ => tm'.enterRestore (BitVec.ofNat 64 c.restoreEntry) slot s3.free s3.steps)))

/-- R297, R300 to R302, R304 to R307: the interval asks for a checkpoint of a context that keeps them; a commit stands once every page and record of the quiet context stands in the granary, its held effects are released and the CHECKPOINT commands
complete; the acknowledgement clears CKD and the held writes. A migration sends its image once the target has room and cores, and completes with 5 where it has none, or waits where the source undocks; its
acknowledgement moves the context, sends its hot pages ahead, and its commands that have not completed start again there. -/
def Obligations.ContextsAreKept : Prop :=
  (∀ (s : State) (die ctx : Nat), exec (.checkpointInterval die ctx) s = .next (s.updCtx die ctx fun c => if c.checkpoint = true ∧ die ≠ 0 ∧ c.failed = false then { c with ckptWanted := true } else c)) ∧
  (∀ (s s00 s0 s1 s1' s2 s3 s4 : State) (die ctx base size : Nat) (c : Context) (own1 fresh1 : List Mirror) (taken0 taken1 : List (Nat × Nat)) (a b r : Nat), s.ctx? die ctx = some c →
    (s.die? 0).bind (·.granary) = some (base, size) → c.ckpt = 1 → c.failed = false → die ≠ 0 → s.present 0 = true → s.quiet c = true → s.closeTiles die ctx = (true, s00) → s00.spillHeads die ctx = (true, s0) →
    let old := s0.commits.find? fun k => k.die == die && k.num == ctx
    let taken := (s0.commits.flatMap fun k => (k.recordVa, 64) :: ((k.pages.map fun m => (m.frame, pageBytes m.level)) ++ k.ctx.frameList.map fun f => (f.2.2, 8192))) ++ ((s0.die? 0).map (·.given)).getD []
    let all := s0.leaves c
    let home (m : Mirror) : Nat := Pte.home ⟨m.d0, m.d1⟩
    let here := all.filter fun m => isDie (home m) && home m != 3
    let ckd (m : Mirror) : Bool := Pte.ckd ⟨m.d0, m.d1⟩
    let own := (c.frameList.filter fun f => f.2.1 != 0 && f.2.1 != 3).map fun f => ({ va := f.1, level := 0, frame := f.2.2, d0 := f.2.2 + f.2.1 * 1024, d1 := 0 } : Mirror)
    s0.mirror base size own taken = some (own1, taken0, s1') → s1'.mirror base size (here.filter ckd) taken0 = some (fresh1, taken1, s1) →
    let there (f : Nat × Nat × Nat) : Nat × Nat × Nat := (((own.zip own1).find? fun x => (x.1.va, x.1.frame) == (f.1, f.2.2)).map fun x => (f.1, 0, x.2.frame)).getD f
    let kept : Context := { c with versions := c.versions.map fun v => { v with frames := v.frames.map there } }
    let pages := fresh1 ++ (here.filter (!ckd ·)).filterMap fun m => (old.bind fun k => k.pages.find? (·.va == m.va)).map fun o => { m with frame := o.frame }
    let body := s1.contextRecord c ++ (s1.queues.filter fun q => q.die == die && q.ctx == ctx).flatMap Queue.record ++ (s1.grids.filter fun g => g.die == die && g.ctx == ctx).flatMap s1.gridRecord
    let map := pages.flatMap Mirror.bytes
    s1.granaryPlace base size taken1 body.length 64 = (some a, s2) → s2.granaryPlace base size ((a, body.length) :: taken1) map.length 64 = (some b, s3) →
    (match old with | some k => r = k.recordVa ∧ s4 = s3 | none => s3.granaryPlace base size ((a, body.length) :: (b, map.length) :: taken1) 64 64 = (some r, s4)) →
    let put (v : State) (pa : Nat) (bs : List Byte) : State := { v with mem := Memory.write v.mem (physKey 0 pa) bs }
    let stored := put (put (put s4 a body) b map) r (commitBytes (c.ckptSeq + 1) (s4.dieTime 0) a b pages.length die ctx)
    let v : State := { stored with
      commits := stored.image c kept (c.ckptSeq + 1) r pages (all.filter fun m => !pages.any (·.va == m.va)) :: stored.commits.filter fun k => !(k.die == die && k.num == ctx) }
    exec (.commitRecord die ctx) s = .next (((v.releaseHeld c c.held).updCtx die ctx fun x => { x with ckpt := 2, ckptSeq := c.ckptSeq + 1 }).finishAll die ctx .checkpointing fun _ => some 0)) ∧
  (∀ (s : State) (die ctx : Nat) (c : Context) (k : Commit), s.ctx? die ctx = some c → s.commits.find? (fun k => k.die == die && k.num == ctx) = some k → c.ckpt = 2 →
    let v := (leavesOf s.mem die 4 c.root).foldl (fun v (key, _, e) => if e.ckd && e.home != 0 && e.home != 3 then { v with mem := Memory.write v.mem key (bytesLE 8 (e.d0 - 512)) } else v) s
    exec (.checkpointAck die ctx) s = .next ((v.dropTlb die ctx 0 0).updCtx die ctx fun c => { c with ckpt := 0, held := c.held.drop k.ctx.held.length })) ∧
  (∀ (s : State) (die ctx t : Nat) (cores : List Nat) (c : Context), s.ctx? die ctx = some c → c.migrating = some t →
    (c.failed = true → exec (.migrationImage die ctx cores) s = .next (((s.dropFailed die ctx).updCtx die ctx fun c => { c with migrating := none, sent := none }).finishAll die ctx .migrating fun _ => some 6)) ∧
    (let got := cores.eraseDups.filter (s.idleCore t ·)
     let room := (s.freeContext t).isSome = true ∧ ∃ b ∈ List.range (4097 - c.phCount), s.phasersFree t b c.phCount = true
     let home := s.undocking die = true
     c.failed = false → c.sent = none → s.quiet c = true → c.ckpt = 0 →
      (home → ¬ room → exec (.migrationImage die ctx cores) s = .next s) ∧
      ((¬ home ∨ room) → (s.present t = false ∨ ¬ room ∨ (got = [] ∧ ¬ home)) → exec (.migrationImage die ctx cores) s =
        .next ((s.updCtx die ctx fun c => { c with migrating := none }).finishAll die ctx .migrating fun _ => some 5)) ∧
      (∀ s0 s1, s.present t = true → room → (got ≠ [] ∨ home) → s.closeTiles die ctx = (true, s0) → s0.spillHeads die ctx = (true, s1) →
        exec (.migrationImage die ctx cores) s = .next (s1.updCtx die ctx fun c => { c with sent := some got })))) ∧
  (∀ (s s1 s2 s3 s4 : State) (die ctx t num root : Nat) (cores : List Nat) (base : Option Nat) (qmap : List (Nat × Nat)) (c : Context), s.ctx? die ctx = some c → c.migrating = some t → c.sent = some cores →
    s.freeContext t = some (num, s1) → s1.freePhasers t c.phCount = (base, s2) → s2.queueNumbers t (s2.queues.filter fun q => q.die == die && q.ctx == ctx) [] = (qmap, s3) → s3.buildTables t (s3.leaves c) = (root, s4) →
    let s5 := if t = 0 then s4.releaseHeld c (c.held ++ c.heldMore) else s4
    let off := match s5.die? t with | some d => d.coresOff | none => []
    let moved := ((s5.moveCtx c { die := t, num := num, root := root, phBase := base.getD 0, part := cores.filter (!off.contains ·), queues := qmap }).sendHot t num (s3.hotPages c)).finishAll t num .migrating
      fun q => some (0x10 + q.num * 256)
    let v : State := { moved with queues := moved.queues.map fun q => if q.die == t && q.ctx == num then q.restored else q }
    let asked := ∃ q ∈ s.queues, q.die = die ∧ q.ctx = ctx ∧ ∃ k ∈ q.cmds, k.st = some .migrating
    (asked → exec (.migrationAck die ctx) s = .next v) ∧
    (¬ asked → exec (.migrationAck die ctx) s = .next ((v.queues.filter fun q => q.die == t && q.ctx == num).foldl (fun v q => v.queueStatus q 0x10) v))) ∧
  (∀ (q : Queue) (k : Cmd), k ∈ q.cmds → (k.st = some .done → k ∈ q.restored.cmds) ∧
    (k.st = some .graphing ∨ k.st = some .checkpointing → { k with st := none } ∈ q.restored.cmds))

/-- R272, R273, R274: a head that scans checks the records of its ring for the next deadline: a bad record is refused with outcome 3, the newest completed one is shown with 1 and the older good ones skipped with 2; with none completed, a shown record
stands, and is re-projected while good ones wait. An outcome is the record's last byte, and raises the head's vector. -/
def Obligations.DisplayShows : Prop :=
  (∀ (s : State) (h : Head) (i code : Nat), let v := s.dispWrite (h.ringBase.toNat + 64 * (i % 2 ^ (h.ringSize.toNat % 16)) + 63) (bytesLE 1 code)
    s.outcome h i code = if h.hvector.getLsbD 31 = true then v.raise 0 (h.hvector.toNat % 2048) else v) ∧
  (∀ (s : State) (head : Nat) (h : Head), s.head? head = some h →
    (h.hctl.getLsbD 0 = false ∨ h.hstat.getLsbD 2 = true → exec (.refreshCheck head) s = .next (s.updHead head fun h => { h with warped := false, age := h.age + 1 })) ∧
    (h.hctl.getLsbD 0 = true → h.hstat.getLsbD 2 = false →
      let n := (h.ringTail - h.ringHead).toNat
      let window := (List.range n).map fun j => (h.ringHead.toNat + j) % 2 ^ 32
      let todo := window.filter fun i => !h.final.contains i && h.shown != some i
      let bytes (i : Nat) : List Byte := s.dispRead (h.ringBase.toNat + 64 * (i % 2 ^ (h.ringSize.toNat % 16))) 64
      let ok (i : Nat) : Bool := presentOk (bytes i) (h.hmode.toNat % 65536)
      let bad := todo.filter (!ok ·)
      let good := todo.filter (!bad.contains ·)
      let ready := good.filter fun i => decide (natAt (bytes i) 24 8 ≤ natLE (s.dispRead (natAt (bytes i) 16 8) 8))
      let refused := bad.foldl (fun v i => v.outcome h i 3) s
      let past (final : List Nat) := advanceHead final n h.ringHead.toNat
      let kept (final : List Nat) := final.filter fun i => (window.dropWhile (· != past final)).contains i
      (∀ c, ready.getLast? = some c → let older := good.takeWhile (· != c)
        let final := h.final ++ bad ++ older ++ h.shown.toList
        exec (.refreshCheck head) s = .next (((older.foldl (fun v i => v.outcome h i 2) refused).outcome h c 1).updHead head fun h =>
          { h with shown := some c, warped := false, age := 0, ringHead := wd (past final), final := kept final })) ∧
      (ready = [] → (good = [] ∨ h.shown = none) → exec (.refreshCheck head) s = .next (refused.updHead head fun o =>
        { o with warped := false, newest := good.getLast?.getD o.newest, age := o.age + 1, ringHead := wd (past (h.final ++ bad)), final := kept (h.final ++ bad) })) ∧
      (∀ c, ready = [] → good ≠ [] → h.shown = some c → let pa := h.ringBase.toNat + 64 * (c % 2 ^ (h.ringSize.toNat % 16)) + 62
        exec (.refreshCheck head) s = .next ((refused.dispWrite pa (bytesLE 1 (min 255 (natLE (refused.dispRead pa 1) + 1)))).updHead head fun o =>
          { o with warped := true, newest := good.getLast?.getD o.newest, age := o.age + 1, ringHead := wd (past (h.final ++ bad)), final := kept (h.final ++ bad) }))))
end

