-- ==== Sys2Proof/Laws/State.lean ====
section
/-! SUPPORT. One lemma per field per update of the state, and what the lookups of teams and threads give after an update. -/
namespace Sys2Proof.Machine

section
variable (s : State) (u : Nat) (f : Team → Team)
@[simp] theorem State.updTeam_conf : (s.updTeam u f).conf = s.conf := rfl
@[simp] theorem State.updTeam_dies : (s.updTeam u f).dies = s.dies := rfl
@[simp] theorem State.updTeam_ctxs : (s.updTeam u f).ctxs = s.ctxs := rfl
@[simp] theorem State.updTeam_queues : (s.updTeam u f).queues = s.queues := rfl
@[simp] theorem State.updTeam_grids : (s.updTeam u f).grids = s.grids := rfl
@[simp] theorem State.updTeam_cores : (s.updTeam u f).cores = s.cores := rfl
@[simp] theorem State.updTeam_phasers : (s.updTeam u f).phasers = s.phasers := rfl
@[simp] theorem State.updTeam_locks : (s.updTeam u f).locks = s.locks := rfl
@[simp] theorem State.updTeam_dirs : (s.updTeam u f).dirs = s.dirs := rfl
@[simp] theorem State.updTeam_dirAgents : (s.updTeam u f).dirAgents = s.dirAgents := rfl
@[simp] theorem State.updTeam_hostReqs : (s.updTeam u f).hostReqs = s.hostReqs := rfl
@[simp] theorem State.updTeam_mem : (s.updTeam u f).mem = s.mem := rfl
@[simp] theorem State.updTeam_poison : (s.updTeam u f).poison = s.poison := rfl
@[simp] theorem State.updTeam_lostPages : (s.updTeam u f).lostPages = s.lostPages := rfl
@[simp] theorem State.updTeam_copies : (s.updTeam u f).copies = s.copies := rfl
@[simp] theorem State.updTeam_mmas : (s.updTeam u f).mmas = s.mmas := rfl
@[simp] theorem State.updTeam_drains : (s.updTeam u f).drains = s.drains := rfl
@[simp] theorem State.updTeam_emits : (s.updTeam u f).emits = s.emits := rfl
@[simp] theorem State.updTeam_notes : (s.updTeam u f).notes = s.notes := rfl
@[simp] theorem State.updTeam_traces : (s.updTeam u f).traces = s.traces := rfl
@[simp] theorem State.updTeam_rays : (s.updTeam u f).rays = s.rays := rfl
@[simp] theorem State.updTeam_scenes : (s.updTeam u f).scenes = s.scenes := rfl
@[simp] theorem State.updTeam_hits : (s.updTeam u f).hits = s.hits := rfl
@[simp] theorem State.updTeam_millHolds : (s.updTeam u f).millHolds = s.millHolds := rfl
@[simp] theorem State.updTeam_gfx : (s.updTeam u f).gfx = s.gfx := rfl
@[simp] theorem State.updTeam_blends : (s.updTeam u f).blends = s.blends := rfl
@[simp] theorem State.updTeam_commits : (s.updTeam u f).commits = s.commits := rfl
@[simp] theorem State.updTeam_ops : (s.updTeam u f).ops = s.ops := rfl
@[simp] theorem State.updTeam_tlWrites : (s.updTeam u f).tlWrites = s.tlWrites := rfl
@[simp] theorem State.updTeam_merges : (s.updTeam u f).merges = s.merges := rfl
@[simp] theorem State.updTeam_time : (s.updTeam u f).time = s.time := rfl
@[simp] theorem State.updTeam_nextId : (s.updTeam u f).nextId = s.nextId := rfl
@[simp] theorem State.updTeam_agenda : (s.updTeam u f).agenda = s.agenda := rfl
@[simp] theorem State.updTeam_issue : (s.updTeam u f).issue = s.issue := rfl
@[simp] theorem State.updTeam_free : (s.updTeam u f).free = s.free := rfl
@[simp] theorem State.updTeam_steps : (s.updTeam u f).steps = s.steps := rfl
end

section
variable (s : State) (id : ThreadId) (f : Thread → Thread)
@[simp] theorem State.updThread_conf : (s.updThread id f).conf = s.conf := rfl
@[simp] theorem State.updThread_dies : (s.updThread id f).dies = s.dies := rfl
@[simp] theorem State.updThread_ctxs : (s.updThread id f).ctxs = s.ctxs := rfl
@[simp] theorem State.updThread_queues : (s.updThread id f).queues = s.queues := rfl
@[simp] theorem State.updThread_grids : (s.updThread id f).grids = s.grids := rfl
@[simp] theorem State.updThread_cores : (s.updThread id f).cores = s.cores := rfl
@[simp] theorem State.updThread_phasers : (s.updThread id f).phasers = s.phasers := rfl
@[simp] theorem State.updThread_locks : (s.updThread id f).locks = s.locks := rfl
@[simp] theorem State.updThread_dirs : (s.updThread id f).dirs = s.dirs := rfl
@[simp] theorem State.updThread_dirAgents : (s.updThread id f).dirAgents = s.dirAgents := rfl
@[simp] theorem State.updThread_hostReqs : (s.updThread id f).hostReqs = s.hostReqs := rfl
@[simp] theorem State.updThread_mem : (s.updThread id f).mem = s.mem := rfl
@[simp] theorem State.updThread_poison : (s.updThread id f).poison = s.poison := rfl
@[simp] theorem State.updThread_lostPages : (s.updThread id f).lostPages = s.lostPages := rfl
@[simp] theorem State.updThread_copies : (s.updThread id f).copies = s.copies := rfl
@[simp] theorem State.updThread_mmas : (s.updThread id f).mmas = s.mmas := rfl
@[simp] theorem State.updThread_drains : (s.updThread id f).drains = s.drains := rfl
@[simp] theorem State.updThread_emits : (s.updThread id f).emits = s.emits := rfl
@[simp] theorem State.updThread_notes : (s.updThread id f).notes = s.notes := rfl
@[simp] theorem State.updThread_traces : (s.updThread id f).traces = s.traces := rfl
@[simp] theorem State.updThread_rays : (s.updThread id f).rays = s.rays := rfl
@[simp] theorem State.updThread_scenes : (s.updThread id f).scenes = s.scenes := rfl
@[simp] theorem State.updThread_hits : (s.updThread id f).hits = s.hits := rfl
@[simp] theorem State.updThread_millHolds : (s.updThread id f).millHolds = s.millHolds := rfl
@[simp] theorem State.updThread_gfx : (s.updThread id f).gfx = s.gfx := rfl
@[simp] theorem State.updThread_blends : (s.updThread id f).blends = s.blends := rfl
@[simp] theorem State.updThread_commits : (s.updThread id f).commits = s.commits := rfl
@[simp] theorem State.updThread_ops : (s.updThread id f).ops = s.ops := rfl
@[simp] theorem State.updThread_tlWrites : (s.updThread id f).tlWrites = s.tlWrites := rfl
@[simp] theorem State.updThread_merges : (s.updThread id f).merges = s.merges := rfl
@[simp] theorem State.updThread_time : (s.updThread id f).time = s.time := rfl
@[simp] theorem State.updThread_nextId : (s.updThread id f).nextId = s.nextId := rfl
@[simp] theorem State.updThread_agenda : (s.updThread id f).agenda = s.agenda := rfl
@[simp] theorem State.updThread_issue : (s.updThread id f).issue = s.issue := rfl
@[simp] theorem State.updThread_free : (s.updThread id f).free = s.free := rfl
@[simp] theorem State.updThread_steps : (s.updThread id f).steps = s.steps := rfl
end

section
variable (s : State) (u : Nat) (f : Grid → Grid)
@[simp] theorem State.updGrid_conf : (s.updGrid u f).conf = s.conf := rfl
@[simp] theorem State.updGrid_dies : (s.updGrid u f).dies = s.dies := rfl
@[simp] theorem State.updGrid_ctxs : (s.updGrid u f).ctxs = s.ctxs := rfl
@[simp] theorem State.updGrid_queues : (s.updGrid u f).queues = s.queues := rfl
@[simp] theorem State.updGrid_teams : (s.updGrid u f).teams = s.teams := rfl
@[simp] theorem State.updGrid_cores : (s.updGrid u f).cores = s.cores := rfl
@[simp] theorem State.updGrid_phasers : (s.updGrid u f).phasers = s.phasers := rfl
@[simp] theorem State.updGrid_locks : (s.updGrid u f).locks = s.locks := rfl
@[simp] theorem State.updGrid_dirs : (s.updGrid u f).dirs = s.dirs := rfl
@[simp] theorem State.updGrid_dirAgents : (s.updGrid u f).dirAgents = s.dirAgents := rfl
@[simp] theorem State.updGrid_hostReqs : (s.updGrid u f).hostReqs = s.hostReqs := rfl
@[simp] theorem State.updGrid_mem : (s.updGrid u f).mem = s.mem := rfl
@[simp] theorem State.updGrid_poison : (s.updGrid u f).poison = s.poison := rfl
@[simp] theorem State.updGrid_lostPages : (s.updGrid u f).lostPages = s.lostPages := rfl
@[simp] theorem State.updGrid_copies : (s.updGrid u f).copies = s.copies := rfl
@[simp] theorem State.updGrid_mmas : (s.updGrid u f).mmas = s.mmas := rfl
@[simp] theorem State.updGrid_drains : (s.updGrid u f).drains = s.drains := rfl
@[simp] theorem State.updGrid_emits : (s.updGrid u f).emits = s.emits := rfl
@[simp] theorem State.updGrid_notes : (s.updGrid u f).notes = s.notes := rfl
@[simp] theorem State.updGrid_traces : (s.updGrid u f).traces = s.traces := rfl
@[simp] theorem State.updGrid_rays : (s.updGrid u f).rays = s.rays := rfl
@[simp] theorem State.updGrid_scenes : (s.updGrid u f).scenes = s.scenes := rfl
@[simp] theorem State.updGrid_hits : (s.updGrid u f).hits = s.hits := rfl
@[simp] theorem State.updGrid_millHolds : (s.updGrid u f).millHolds = s.millHolds := rfl
@[simp] theorem State.updGrid_gfx : (s.updGrid u f).gfx = s.gfx := rfl
@[simp] theorem State.updGrid_blends : (s.updGrid u f).blends = s.blends := rfl
@[simp] theorem State.updGrid_commits : (s.updGrid u f).commits = s.commits := rfl
@[simp] theorem State.updGrid_ops : (s.updGrid u f).ops = s.ops := rfl
@[simp] theorem State.updGrid_tlWrites : (s.updGrid u f).tlWrites = s.tlWrites := rfl
@[simp] theorem State.updGrid_merges : (s.updGrid u f).merges = s.merges := rfl
@[simp] theorem State.updGrid_time : (s.updGrid u f).time = s.time := rfl
@[simp] theorem State.updGrid_nextId : (s.updGrid u f).nextId = s.nextId := rfl
@[simp] theorem State.updGrid_agenda : (s.updGrid u f).agenda = s.agenda := rfl
@[simp] theorem State.updGrid_issue : (s.updGrid u f).issue = s.issue := rfl
@[simp] theorem State.updGrid_free : (s.updGrid u f).free = s.free := rfl
@[simp] theorem State.updGrid_steps : (s.updGrid u f).steps = s.steps := rfl
end

section
variable (s : State) (c : CoreState)
@[simp] theorem State.setCore_conf : (s.setCore c).conf = s.conf := rfl
@[simp] theorem State.setCore_dies : (s.setCore c).dies = s.dies := rfl
@[simp] theorem State.setCore_ctxs : (s.setCore c).ctxs = s.ctxs := rfl
@[simp] theorem State.setCore_queues : (s.setCore c).queues = s.queues := rfl
@[simp] theorem State.setCore_grids : (s.setCore c).grids = s.grids := rfl
@[simp] theorem State.setCore_teams : (s.setCore c).teams = s.teams := rfl
@[simp] theorem State.setCore_phasers : (s.setCore c).phasers = s.phasers := rfl
@[simp] theorem State.setCore_locks : (s.setCore c).locks = s.locks := rfl
@[simp] theorem State.setCore_dirs : (s.setCore c).dirs = s.dirs := rfl
@[simp] theorem State.setCore_dirAgents : (s.setCore c).dirAgents = s.dirAgents := rfl
@[simp] theorem State.setCore_hostReqs : (s.setCore c).hostReqs = s.hostReqs := rfl
@[simp] theorem State.setCore_mem : (s.setCore c).mem = s.mem := rfl
@[simp] theorem State.setCore_poison : (s.setCore c).poison = s.poison := rfl
@[simp] theorem State.setCore_lostPages : (s.setCore c).lostPages = s.lostPages := rfl
@[simp] theorem State.setCore_copies : (s.setCore c).copies = s.copies := rfl
@[simp] theorem State.setCore_mmas : (s.setCore c).mmas = s.mmas := rfl
@[simp] theorem State.setCore_drains : (s.setCore c).drains = s.drains := rfl
@[simp] theorem State.setCore_emits : (s.setCore c).emits = s.emits := rfl
@[simp] theorem State.setCore_notes : (s.setCore c).notes = s.notes := rfl
@[simp] theorem State.setCore_traces : (s.setCore c).traces = s.traces := rfl
@[simp] theorem State.setCore_rays : (s.setCore c).rays = s.rays := rfl
@[simp] theorem State.setCore_scenes : (s.setCore c).scenes = s.scenes := rfl
@[simp] theorem State.setCore_hits : (s.setCore c).hits = s.hits := rfl
@[simp] theorem State.setCore_millHolds : (s.setCore c).millHolds = s.millHolds := rfl
@[simp] theorem State.setCore_gfx : (s.setCore c).gfx = s.gfx := rfl
@[simp] theorem State.setCore_blends : (s.setCore c).blends = s.blends := rfl
@[simp] theorem State.setCore_commits : (s.setCore c).commits = s.commits := rfl
@[simp] theorem State.setCore_ops : (s.setCore c).ops = s.ops := rfl
@[simp] theorem State.setCore_tlWrites : (s.setCore c).tlWrites = s.tlWrites := rfl
@[simp] theorem State.setCore_merges : (s.setCore c).merges = s.merges := rfl
@[simp] theorem State.setCore_time : (s.setCore c).time = s.time := rfl
@[simp] theorem State.setCore_nextId : (s.setCore c).nextId = s.nextId := rfl
@[simp] theorem State.setCore_agenda : (s.setCore c).agenda = s.agenda := rfl
@[simp] theorem State.setCore_issue : (s.setCore c).issue = s.issue := rfl
@[simp] theorem State.setCore_free : (s.setCore c).free = s.free := rfl
@[simp] theorem State.setCore_steps : (s.setCore c).steps = s.steps := rfl
end

section
variable (s : State) (d n : Nat) (f : Context → Context)
@[simp] theorem State.updCtx_conf : (s.updCtx d n f).conf = s.conf := rfl
@[simp] theorem State.updCtx_dies : (s.updCtx d n f).dies = s.dies := rfl
@[simp] theorem State.updCtx_queues : (s.updCtx d n f).queues = s.queues := rfl
@[simp] theorem State.updCtx_grids : (s.updCtx d n f).grids = s.grids := rfl
@[simp] theorem State.updCtx_teams : (s.updCtx d n f).teams = s.teams := rfl
@[simp] theorem State.updCtx_cores : (s.updCtx d n f).cores = s.cores := rfl
@[simp] theorem State.updCtx_phasers : (s.updCtx d n f).phasers = s.phasers := rfl
@[simp] theorem State.updCtx_locks : (s.updCtx d n f).locks = s.locks := rfl
@[simp] theorem State.updCtx_dirs : (s.updCtx d n f).dirs = s.dirs := rfl
@[simp] theorem State.updCtx_dirAgents : (s.updCtx d n f).dirAgents = s.dirAgents := rfl
@[simp] theorem State.updCtx_hostReqs : (s.updCtx d n f).hostReqs = s.hostReqs := rfl
@[simp] theorem State.updCtx_mem : (s.updCtx d n f).mem = s.mem := rfl
@[simp] theorem State.updCtx_poison : (s.updCtx d n f).poison = s.poison := rfl
@[simp] theorem State.updCtx_lostPages : (s.updCtx d n f).lostPages = s.lostPages := rfl
@[simp] theorem State.updCtx_copies : (s.updCtx d n f).copies = s.copies := rfl
@[simp] theorem State.updCtx_mmas : (s.updCtx d n f).mmas = s.mmas := rfl
@[simp] theorem State.updCtx_drains : (s.updCtx d n f).drains = s.drains := rfl
@[simp] theorem State.updCtx_emits : (s.updCtx d n f).emits = s.emits := rfl
@[simp] theorem State.updCtx_notes : (s.updCtx d n f).notes = s.notes := rfl
@[simp] theorem State.updCtx_traces : (s.updCtx d n f).traces = s.traces := rfl
@[simp] theorem State.updCtx_rays : (s.updCtx d n f).rays = s.rays := rfl
@[simp] theorem State.updCtx_scenes : (s.updCtx d n f).scenes = s.scenes := rfl
@[simp] theorem State.updCtx_hits : (s.updCtx d n f).hits = s.hits := rfl
@[simp] theorem State.updCtx_millHolds : (s.updCtx d n f).millHolds = s.millHolds := rfl
@[simp] theorem State.updCtx_gfx : (s.updCtx d n f).gfx = s.gfx := rfl
@[simp] theorem State.updCtx_blends : (s.updCtx d n f).blends = s.blends := rfl
@[simp] theorem State.updCtx_commits : (s.updCtx d n f).commits = s.commits := rfl
@[simp] theorem State.updCtx_ops : (s.updCtx d n f).ops = s.ops := rfl
@[simp] theorem State.updCtx_tlWrites : (s.updCtx d n f).tlWrites = s.tlWrites := rfl
@[simp] theorem State.updCtx_merges : (s.updCtx d n f).merges = s.merges := rfl
@[simp] theorem State.updCtx_time : (s.updCtx d n f).time = s.time := rfl
@[simp] theorem State.updCtx_nextId : (s.updCtx d n f).nextId = s.nextId := rfl
@[simp] theorem State.updCtx_agenda : (s.updCtx d n f).agenda = s.agenda := rfl
@[simp] theorem State.updCtx_issue : (s.updCtx d n f).issue = s.issue := rfl
@[simp] theorem State.updCtx_free : (s.updCtx d n f).free = s.free := rfl
@[simp] theorem State.updCtx_steps : (s.updCtx d n f).steps = s.steps := rfl
end

section
variable (s : State) (d : Nat) (f : Die → Die)
@[simp] theorem State.updDie_conf : (s.updDie d f).conf = s.conf := rfl
@[simp] theorem State.updDie_ctxs : (s.updDie d f).ctxs = s.ctxs := rfl
@[simp] theorem State.updDie_queues : (s.updDie d f).queues = s.queues := rfl
@[simp] theorem State.updDie_grids : (s.updDie d f).grids = s.grids := rfl
@[simp] theorem State.updDie_teams : (s.updDie d f).teams = s.teams := rfl
@[simp] theorem State.updDie_cores : (s.updDie d f).cores = s.cores := rfl
@[simp] theorem State.updDie_phasers : (s.updDie d f).phasers = s.phasers := rfl
@[simp] theorem State.updDie_locks : (s.updDie d f).locks = s.locks := rfl
@[simp] theorem State.updDie_dirs : (s.updDie d f).dirs = s.dirs := rfl
@[simp] theorem State.updDie_dirAgents : (s.updDie d f).dirAgents = s.dirAgents := rfl
@[simp] theorem State.updDie_hostReqs : (s.updDie d f).hostReqs = s.hostReqs := rfl
@[simp] theorem State.updDie_mem : (s.updDie d f).mem = s.mem := rfl
@[simp] theorem State.updDie_poison : (s.updDie d f).poison = s.poison := rfl
@[simp] theorem State.updDie_lostPages : (s.updDie d f).lostPages = s.lostPages := rfl
@[simp] theorem State.updDie_copies : (s.updDie d f).copies = s.copies := rfl
@[simp] theorem State.updDie_mmas : (s.updDie d f).mmas = s.mmas := rfl
@[simp] theorem State.updDie_drains : (s.updDie d f).drains = s.drains := rfl
@[simp] theorem State.updDie_emits : (s.updDie d f).emits = s.emits := rfl
@[simp] theorem State.updDie_notes : (s.updDie d f).notes = s.notes := rfl
@[simp] theorem State.updDie_traces : (s.updDie d f).traces = s.traces := rfl
@[simp] theorem State.updDie_rays : (s.updDie d f).rays = s.rays := rfl
@[simp] theorem State.updDie_scenes : (s.updDie d f).scenes = s.scenes := rfl
@[simp] theorem State.updDie_hits : (s.updDie d f).hits = s.hits := rfl
@[simp] theorem State.updDie_millHolds : (s.updDie d f).millHolds = s.millHolds := rfl
@[simp] theorem State.updDie_gfx : (s.updDie d f).gfx = s.gfx := rfl
@[simp] theorem State.updDie_blends : (s.updDie d f).blends = s.blends := rfl
@[simp] theorem State.updDie_commits : (s.updDie d f).commits = s.commits := rfl
@[simp] theorem State.updDie_ops : (s.updDie d f).ops = s.ops := rfl
@[simp] theorem State.updDie_tlWrites : (s.updDie d f).tlWrites = s.tlWrites := rfl
@[simp] theorem State.updDie_merges : (s.updDie d f).merges = s.merges := rfl
@[simp] theorem State.updDie_time : (s.updDie d f).time = s.time := rfl
@[simp] theorem State.updDie_nextId : (s.updDie d f).nextId = s.nextId := rfl
@[simp] theorem State.updDie_agenda : (s.updDie d f).agenda = s.agenda := rfl
@[simp] theorem State.updDie_issue : (s.updDie d f).issue = s.issue := rfl
@[simp] theorem State.updDie_free : (s.updDie d f).free = s.free := rfl
@[simp] theorem State.updDie_steps : (s.updDie d f).steps = s.steps := rfl
end

section
variable (s : State)
@[simp] theorem State.leaveIssue_conf : (s.leaveIssue).conf = s.conf := rfl
@[simp] theorem State.leaveIssue_dies : (s.leaveIssue).dies = s.dies := rfl
@[simp] theorem State.leaveIssue_ctxs : (s.leaveIssue).ctxs = s.ctxs := rfl
@[simp] theorem State.leaveIssue_queues : (s.leaveIssue).queues = s.queues := rfl
@[simp] theorem State.leaveIssue_grids : (s.leaveIssue).grids = s.grids := rfl
@[simp] theorem State.leaveIssue_teams : (s.leaveIssue).teams = s.teams := rfl
@[simp] theorem State.leaveIssue_cores : (s.leaveIssue).cores = s.cores := rfl
@[simp] theorem State.leaveIssue_phasers : (s.leaveIssue).phasers = s.phasers := rfl
@[simp] theorem State.leaveIssue_locks : (s.leaveIssue).locks = s.locks := rfl
@[simp] theorem State.leaveIssue_dirs : (s.leaveIssue).dirs = s.dirs := rfl
@[simp] theorem State.leaveIssue_dirAgents : (s.leaveIssue).dirAgents = s.dirAgents := rfl
@[simp] theorem State.leaveIssue_hostReqs : (s.leaveIssue).hostReqs = s.hostReqs := rfl
@[simp] theorem State.leaveIssue_mem : (s.leaveIssue).mem = s.mem := rfl
@[simp] theorem State.leaveIssue_poison : (s.leaveIssue).poison = s.poison := rfl
@[simp] theorem State.leaveIssue_lostPages : (s.leaveIssue).lostPages = s.lostPages := rfl
@[simp] theorem State.leaveIssue_copies : (s.leaveIssue).copies = s.copies := rfl
@[simp] theorem State.leaveIssue_mmas : (s.leaveIssue).mmas = s.mmas := rfl
@[simp] theorem State.leaveIssue_drains : (s.leaveIssue).drains = s.drains := rfl
@[simp] theorem State.leaveIssue_emits : (s.leaveIssue).emits = s.emits := rfl
@[simp] theorem State.leaveIssue_notes : (s.leaveIssue).notes = s.notes := rfl
@[simp] theorem State.leaveIssue_traces : (s.leaveIssue).traces = s.traces := rfl
@[simp] theorem State.leaveIssue_rays : (s.leaveIssue).rays = s.rays := rfl
@[simp] theorem State.leaveIssue_scenes : (s.leaveIssue).scenes = s.scenes := rfl
@[simp] theorem State.leaveIssue_hits : (s.leaveIssue).hits = s.hits := rfl
@[simp] theorem State.leaveIssue_millHolds : (s.leaveIssue).millHolds = s.millHolds := rfl
@[simp] theorem State.leaveIssue_gfx : (s.leaveIssue).gfx = s.gfx := rfl
@[simp] theorem State.leaveIssue_blends : (s.leaveIssue).blends = s.blends := rfl
@[simp] theorem State.leaveIssue_commits : (s.leaveIssue).commits = s.commits := rfl
@[simp] theorem State.leaveIssue_ops : (s.leaveIssue).ops = s.ops := rfl
@[simp] theorem State.leaveIssue_tlWrites : (s.leaveIssue).tlWrites = s.tlWrites := rfl
@[simp] theorem State.leaveIssue_merges : (s.leaveIssue).merges = s.merges := rfl
@[simp] theorem State.leaveIssue_time : (s.leaveIssue).time = s.time := rfl
@[simp] theorem State.leaveIssue_nextId : (s.leaveIssue).nextId = s.nextId := rfl
@[simp] theorem State.leaveIssue_agenda : (s.leaveIssue).agenda = s.agenda := rfl
@[simp] theorem State.leaveIssue_free : (s.leaveIssue).free = s.free := rfl
@[simp] theorem State.leaveIssue_steps : (s.leaveIssue).steps = s.steps := rfl
end

section
variable (s : State)
@[simp] theorem State.stayIssue_conf : (s.stayIssue).conf = s.conf := rfl
@[simp] theorem State.stayIssue_dies : (s.stayIssue).dies = s.dies := rfl
@[simp] theorem State.stayIssue_ctxs : (s.stayIssue).ctxs = s.ctxs := rfl
@[simp] theorem State.stayIssue_queues : (s.stayIssue).queues = s.queues := rfl
@[simp] theorem State.stayIssue_grids : (s.stayIssue).grids = s.grids := rfl
@[simp] theorem State.stayIssue_teams : (s.stayIssue).teams = s.teams := rfl
@[simp] theorem State.stayIssue_cores : (s.stayIssue).cores = s.cores := rfl
@[simp] theorem State.stayIssue_phasers : (s.stayIssue).phasers = s.phasers := rfl
@[simp] theorem State.stayIssue_locks : (s.stayIssue).locks = s.locks := rfl
@[simp] theorem State.stayIssue_dirs : (s.stayIssue).dirs = s.dirs := rfl
@[simp] theorem State.stayIssue_dirAgents : (s.stayIssue).dirAgents = s.dirAgents := rfl
@[simp] theorem State.stayIssue_hostReqs : (s.stayIssue).hostReqs = s.hostReqs := rfl
@[simp] theorem State.stayIssue_mem : (s.stayIssue).mem = s.mem := rfl
@[simp] theorem State.stayIssue_poison : (s.stayIssue).poison = s.poison := rfl
@[simp] theorem State.stayIssue_lostPages : (s.stayIssue).lostPages = s.lostPages := rfl
@[simp] theorem State.stayIssue_copies : (s.stayIssue).copies = s.copies := rfl
@[simp] theorem State.stayIssue_mmas : (s.stayIssue).mmas = s.mmas := rfl
@[simp] theorem State.stayIssue_drains : (s.stayIssue).drains = s.drains := rfl
@[simp] theorem State.stayIssue_emits : (s.stayIssue).emits = s.emits := rfl
@[simp] theorem State.stayIssue_notes : (s.stayIssue).notes = s.notes := rfl
@[simp] theorem State.stayIssue_traces : (s.stayIssue).traces = s.traces := rfl
@[simp] theorem State.stayIssue_rays : (s.stayIssue).rays = s.rays := rfl
@[simp] theorem State.stayIssue_scenes : (s.stayIssue).scenes = s.scenes := rfl
@[simp] theorem State.stayIssue_hits : (s.stayIssue).hits = s.hits := rfl
@[simp] theorem State.stayIssue_millHolds : (s.stayIssue).millHolds = s.millHolds := rfl
@[simp] theorem State.stayIssue_gfx : (s.stayIssue).gfx = s.gfx := rfl
@[simp] theorem State.stayIssue_blends : (s.stayIssue).blends = s.blends := rfl
@[simp] theorem State.stayIssue_commits : (s.stayIssue).commits = s.commits := rfl
@[simp] theorem State.stayIssue_ops : (s.stayIssue).ops = s.ops := rfl
@[simp] theorem State.stayIssue_tlWrites : (s.stayIssue).tlWrites = s.tlWrites := rfl
@[simp] theorem State.stayIssue_merges : (s.stayIssue).merges = s.merges := rfl
@[simp] theorem State.stayIssue_time : (s.stayIssue).time = s.time := rfl
@[simp] theorem State.stayIssue_nextId : (s.stayIssue).nextId = s.nextId := rfl
@[simp] theorem State.stayIssue_agenda : (s.stayIssue).agenda = s.agenda := rfl
@[simp] theorem State.stayIssue_free : (s.stayIssue).free = s.free := rfl
@[simp] theorem State.stayIssue_steps : (s.stayIssue).steps = s.steps := rfl
end

section
variable (s : State)
@[simp] theorem State.tick_conf : (s.tick).conf = s.conf := rfl
@[simp] theorem State.tick_dies : (s.tick).dies = s.dies := rfl
@[simp] theorem State.tick_ctxs : (s.tick).ctxs = s.ctxs := rfl
@[simp] theorem State.tick_queues : (s.tick).queues = s.queues := rfl
@[simp] theorem State.tick_grids : (s.tick).grids = s.grids := rfl
@[simp] theorem State.tick_teams : (s.tick).teams = s.teams := rfl
@[simp] theorem State.tick_cores : (s.tick).cores = s.cores := rfl
@[simp] theorem State.tick_phasers : (s.tick).phasers = s.phasers := rfl
@[simp] theorem State.tick_locks : (s.tick).locks = s.locks := rfl
@[simp] theorem State.tick_dirs : (s.tick).dirs = s.dirs := rfl
@[simp] theorem State.tick_dirAgents : (s.tick).dirAgents = s.dirAgents := rfl
@[simp] theorem State.tick_hostReqs : (s.tick).hostReqs = s.hostReqs := rfl
@[simp] theorem State.tick_mem : (s.tick).mem = s.mem := rfl
@[simp] theorem State.tick_poison : (s.tick).poison = s.poison := rfl
@[simp] theorem State.tick_lostPages : (s.tick).lostPages = s.lostPages := rfl
@[simp] theorem State.tick_copies : (s.tick).copies = s.copies := rfl
@[simp] theorem State.tick_mmas : (s.tick).mmas = s.mmas := rfl
@[simp] theorem State.tick_drains : (s.tick).drains = s.drains := rfl
@[simp] theorem State.tick_emits : (s.tick).emits = s.emits := rfl
@[simp] theorem State.tick_notes : (s.tick).notes = s.notes := rfl
@[simp] theorem State.tick_traces : (s.tick).traces = s.traces := rfl
@[simp] theorem State.tick_rays : (s.tick).rays = s.rays := rfl
@[simp] theorem State.tick_scenes : (s.tick).scenes = s.scenes := rfl
@[simp] theorem State.tick_hits : (s.tick).hits = s.hits := rfl
@[simp] theorem State.tick_millHolds : (s.tick).millHolds = s.millHolds := rfl
@[simp] theorem State.tick_gfx : (s.tick).gfx = s.gfx := rfl
@[simp] theorem State.tick_blends : (s.tick).blends = s.blends := rfl
@[simp] theorem State.tick_commits : (s.tick).commits = s.commits := rfl
@[simp] theorem State.tick_ops : (s.tick).ops = s.ops := rfl
@[simp] theorem State.tick_tlWrites : (s.tick).tlWrites = s.tlWrites := rfl
@[simp] theorem State.tick_merges : (s.tick).merges = s.merges := rfl
@[simp] theorem State.tick_nextId : (s.tick).nextId = s.nextId := rfl
@[simp] theorem State.tick_agenda : (s.tick).agenda = s.agenda := rfl
@[simp] theorem State.tick_issue : (s.tick).issue = s.issue := rfl
@[simp] theorem State.tick_free : (s.tick).free = s.free := rfl
end

section
variable (s : State) (k : Nat) (e : Option DirEntry)
@[simp] theorem State.setDir_conf : (s.setDir k e).conf = s.conf := rfl
@[simp] theorem State.setDir_dies : (s.setDir k e).dies = s.dies := rfl
@[simp] theorem State.setDir_ctxs : (s.setDir k e).ctxs = s.ctxs := rfl
@[simp] theorem State.setDir_queues : (s.setDir k e).queues = s.queues := rfl
@[simp] theorem State.setDir_grids : (s.setDir k e).grids = s.grids := rfl
@[simp] theorem State.setDir_teams : (s.setDir k e).teams = s.teams := rfl
@[simp] theorem State.setDir_cores : (s.setDir k e).cores = s.cores := rfl
@[simp] theorem State.setDir_phasers : (s.setDir k e).phasers = s.phasers := rfl
@[simp] theorem State.setDir_locks : (s.setDir k e).locks = s.locks := rfl
@[simp] theorem State.setDir_dirAgents : (s.setDir k e).dirAgents = s.dirAgents := rfl
@[simp] theorem State.setDir_hostReqs : (s.setDir k e).hostReqs = s.hostReqs := rfl
@[simp] theorem State.setDir_mem : (s.setDir k e).mem = s.mem := rfl
@[simp] theorem State.setDir_poison : (s.setDir k e).poison = s.poison := rfl
@[simp] theorem State.setDir_lostPages : (s.setDir k e).lostPages = s.lostPages := rfl
@[simp] theorem State.setDir_copies : (s.setDir k e).copies = s.copies := rfl
@[simp] theorem State.setDir_mmas : (s.setDir k e).mmas = s.mmas := rfl
@[simp] theorem State.setDir_drains : (s.setDir k e).drains = s.drains := rfl
@[simp] theorem State.setDir_emits : (s.setDir k e).emits = s.emits := rfl
@[simp] theorem State.setDir_notes : (s.setDir k e).notes = s.notes := rfl
@[simp] theorem State.setDir_traces : (s.setDir k e).traces = s.traces := rfl
@[simp] theorem State.setDir_rays : (s.setDir k e).rays = s.rays := rfl
@[simp] theorem State.setDir_scenes : (s.setDir k e).scenes = s.scenes := rfl
@[simp] theorem State.setDir_hits : (s.setDir k e).hits = s.hits := rfl
@[simp] theorem State.setDir_millHolds : (s.setDir k e).millHolds = s.millHolds := rfl
@[simp] theorem State.setDir_gfx : (s.setDir k e).gfx = s.gfx := rfl
@[simp] theorem State.setDir_blends : (s.setDir k e).blends = s.blends := rfl
@[simp] theorem State.setDir_commits : (s.setDir k e).commits = s.commits := rfl
@[simp] theorem State.setDir_ops : (s.setDir k e).ops = s.ops := rfl
@[simp] theorem State.setDir_tlWrites : (s.setDir k e).tlWrites = s.tlWrites := rfl
@[simp] theorem State.setDir_merges : (s.setDir k e).merges = s.merges := rfl
@[simp] theorem State.setDir_time : (s.setDir k e).time = s.time := rfl
@[simp] theorem State.setDir_nextId : (s.setDir k e).nextId = s.nextId := rfl
@[simp] theorem State.setDir_agenda : (s.setDir k e).agenda = s.agenda := rfl
@[simp] theorem State.setDir_issue : (s.setDir k e).issue = s.issue := rfl
@[simp] theorem State.setDir_free : (s.setDir k e).free = s.free := rfl
@[simp] theorem State.setDir_steps : (s.setDir k e).steps = s.steps := rfl
end

section
variable (t : Thread) (n : Nat) (c : XCell)
@[simp] theorem Thread.setCell_tid : (t.setCell n c).tid = t.tid := rfl
@[simp] theorem Thread.setCell_pc : (t.setCell n c).pc = t.pc := rfl
@[simp] theorem Thread.setCell_p : (t.setCell n c).p = t.p := rfl
@[simp] theorem Thread.setCell_f : (t.setCell n c).f = t.f := rfl
@[simp] theorem Thread.setCell_k : (t.setCell n c).k = t.k := rfl
@[simp] theorem Thread.setCell_mstep : (t.setCell n c).mstep = t.mstep := rfl
@[simp] theorem Thread.setCell_hstep : (t.setCell n c).hstep = t.hstep := rfl
@[simp] theorem Thread.setCell_fstat : (t.setCell n c).fstat = t.fstat := rfl
@[simp] theorem Thread.setCell_quad : (t.setCell n c).quad = t.quad := rfl
@[simp] theorem Thread.setCell_handler : (t.setCell n c).handler = t.handler := rfl
@[simp] theorem Thread.setCell_frame : (t.setCell n c).frame = t.frame := rfl
@[simp] theorem Thread.setCell_levels : (t.setCell n c).levels = t.levels := rfl
@[simp] theorem Thread.setCell_trapCause : (t.setCell n c).trapCause = t.trapCause := rfl
@[simp] theorem Thread.setCell_trapPc : (t.setCell n c).trapPc = t.trapPc := rfl
@[simp] theorem Thread.setCell_trapAddr : (t.setCell n c).trapAddr = t.trapAddr := rfl
@[simp] theorem Thread.setCell_trapInfo : (t.setCell n c).trapInfo = t.trapInfo := rfl
@[simp] theorem Thread.setCell_trapSeq : (t.setCell n c).trapSeq = t.trapSeq := rfl
@[simp] theorem Thread.setCell_lane : (t.setCell n c).lane = t.lane := rfl
@[simp] theorem Thread.setCell_dissolve : (t.setCell n c).dissolve = t.dissolve := rfl
@[simp] theorem Thread.setCell_status : (t.setCell n c).status = t.status := rfl
@[simp] theorem Thread.setCell_clause : (t.setCell n c).clause = t.clause := rfl
@[simp] theorem Thread.setCell_entry : (t.setCell n c).entry = t.entry := rfl
@[simp] theorem Thread.setCell_infl : (t.setCell n c).infl = t.infl := rfl
@[simp] theorem Thread.setCell_late : (t.setCell n c).late = t.late := rfl
@[simp] theorem Thread.setCell_stamp : (t.setCell n c).stamp = t.stamp := rfl
@[simp] theorem Thread.setCell_arrKind : (t.setCell n c).arrKind = t.arrKind := rfl
@[simp] theorem Thread.setCell_arrOp : (t.setCell n c).arrOp = t.arrOp := rfl
@[simp] theorem Thread.setCell_arrVal : (t.setCell n c).arrVal = t.arrVal := rfl
@[simp] theorem Thread.setCell_reply : (t.setCell n c).reply = t.reply := rfl
@[simp] theorem Thread.setCell_watchPc : (t.setCell n c).watchPc = t.watchPc := rfl
@[simp] theorem Thread.setCell_unwatched : (t.setCell n c).unwatched = t.unwatched := rfl
@[simp] theorem Thread.setCell_firstTrap : (t.setCell n c).firstTrap = t.firstTrap := rfl
@[simp] theorem Thread.setCell_fmode : (t.setCell n c).fmode = t.fmode := rfl
@[simp] theorem Thread.setCell_mfmt : (t.setCell n c).mfmt = t.mfmt := rfl
end

section
variable (t : Thread) (n : Nat) (w : Word)
@[simp] theorem Thread.setK_tid : (t.setK n w).tid = t.tid := rfl
@[simp] theorem Thread.setK_pc : (t.setK n w).pc = t.pc := rfl
@[simp] theorem Thread.setK_x : (t.setK n w).x = t.x := rfl
@[simp] theorem Thread.setK_p : (t.setK n w).p = t.p := rfl
@[simp] theorem Thread.setK_f : (t.setK n w).f = t.f := rfl
@[simp] theorem Thread.setK_mstep : (t.setK n w).mstep = t.mstep := rfl
@[simp] theorem Thread.setK_hstep : (t.setK n w).hstep = t.hstep := rfl
@[simp] theorem Thread.setK_fstat : (t.setK n w).fstat = t.fstat := rfl
@[simp] theorem Thread.setK_quad : (t.setK n w).quad = t.quad := rfl
@[simp] theorem Thread.setK_handler : (t.setK n w).handler = t.handler := rfl
@[simp] theorem Thread.setK_frame : (t.setK n w).frame = t.frame := rfl
@[simp] theorem Thread.setK_levels : (t.setK n w).levels = t.levels := rfl
@[simp] theorem Thread.setK_trapCause : (t.setK n w).trapCause = t.trapCause := rfl
@[simp] theorem Thread.setK_trapPc : (t.setK n w).trapPc = t.trapPc := rfl
@[simp] theorem Thread.setK_trapAddr : (t.setK n w).trapAddr = t.trapAddr := rfl
@[simp] theorem Thread.setK_trapInfo : (t.setK n w).trapInfo = t.trapInfo := rfl
@[simp] theorem Thread.setK_trapSeq : (t.setK n w).trapSeq = t.trapSeq := rfl
@[simp] theorem Thread.setK_lane : (t.setK n w).lane = t.lane := rfl
@[simp] theorem Thread.setK_dissolve : (t.setK n w).dissolve = t.dissolve := rfl
@[simp] theorem Thread.setK_status : (t.setK n w).status = t.status := rfl
@[simp] theorem Thread.setK_clause : (t.setK n w).clause = t.clause := rfl
@[simp] theorem Thread.setK_entry : (t.setK n w).entry = t.entry := rfl
@[simp] theorem Thread.setK_infl : (t.setK n w).infl = t.infl := rfl
@[simp] theorem Thread.setK_late : (t.setK n w).late = t.late := rfl
@[simp] theorem Thread.setK_stamp : (t.setK n w).stamp = t.stamp := rfl
@[simp] theorem Thread.setK_arrKind : (t.setK n w).arrKind = t.arrKind := rfl
@[simp] theorem Thread.setK_arrOp : (t.setK n w).arrOp = t.arrOp := rfl
@[simp] theorem Thread.setK_arrVal : (t.setK n w).arrVal = t.arrVal := rfl
@[simp] theorem Thread.setK_reply : (t.setK n w).reply = t.reply := rfl
@[simp] theorem Thread.setK_watchPc : (t.setK n w).watchPc = t.watchPc := rfl
@[simp] theorem Thread.setK_unwatched : (t.setK n w).unwatched = t.unwatched := rfl
@[simp] theorem Thread.setK_firstTrap : (t.setK n w).firstTrap = t.firstTrap := rfl
@[simp] theorem Thread.setK_fmode : (t.setK n w).fmode = t.fmode := rfl
@[simp] theorem Thread.setK_mfmt : (t.setK n w).mfmt = t.mfmt := rfl
end

section
variable (t : Thread)
@[simp] theorem Thread.settle_tid : (t.settle).tid = t.tid := rfl
@[simp] theorem Thread.settle_pc : (t.settle).pc = t.pc := rfl
@[simp] theorem Thread.settle_x : (t.settle).x = t.x := rfl
@[simp] theorem Thread.settle_p : (t.settle).p = t.p := rfl
@[simp] theorem Thread.settle_f : (t.settle).f = t.f := rfl
@[simp] theorem Thread.settle_k : (t.settle).k = t.k := rfl
@[simp] theorem Thread.settle_mstep : (t.settle).mstep = t.mstep := rfl
@[simp] theorem Thread.settle_hstep : (t.settle).hstep = t.hstep := rfl
@[simp] theorem Thread.settle_fstat : (t.settle).fstat = t.fstat := rfl
@[simp] theorem Thread.settle_quad : (t.settle).quad = t.quad := rfl
@[simp] theorem Thread.settle_handler : (t.settle).handler = t.handler := rfl
@[simp] theorem Thread.settle_frame : (t.settle).frame = t.frame := rfl
@[simp] theorem Thread.settle_levels : (t.settle).levels = t.levels := rfl
@[simp] theorem Thread.settle_trapCause : (t.settle).trapCause = t.trapCause := rfl
@[simp] theorem Thread.settle_trapPc : (t.settle).trapPc = t.trapPc := rfl
@[simp] theorem Thread.settle_trapAddr : (t.settle).trapAddr = t.trapAddr := rfl
@[simp] theorem Thread.settle_trapInfo : (t.settle).trapInfo = t.trapInfo := rfl
@[simp] theorem Thread.settle_trapSeq : (t.settle).trapSeq = t.trapSeq := rfl
@[simp] theorem Thread.settle_lane : (t.settle).lane = t.lane := rfl
@[simp] theorem Thread.settle_dissolve : (t.settle).dissolve = t.dissolve := rfl
@[simp] theorem Thread.settle_status : (t.settle).status = t.status := rfl
@[simp] theorem Thread.settle_clause : (t.settle).clause = t.clause := rfl
@[simp] theorem Thread.settle_entry : (t.settle).entry = t.entry := rfl
@[simp] theorem Thread.settle_infl : (t.settle).infl = t.infl := rfl
@[simp] theorem Thread.settle_late : (t.settle).late = t.late := rfl
@[simp] theorem Thread.settle_stamp : (t.settle).stamp = t.stamp := rfl
@[simp] theorem Thread.settle_watchPc : (t.settle).watchPc = t.watchPc := rfl
@[simp] theorem Thread.settle_firstTrap : (t.settle).firstTrap = t.firstTrap := rfl
@[simp] theorem Thread.settle_fmode : (t.settle).fmode = t.fmode := rfl
@[simp] theorem Thread.settle_mfmt : (t.settle).mfmt = t.mfmt := rfl
end

section
variable (t : Thread) (w : Word)
@[simp] theorem Thread.setProgress_tid : (t.setProgress w).tid = t.tid := by unfold Thread.setProgress; split <;> rfl
@[simp] theorem Thread.setProgress_pc : (t.setProgress w).pc = t.pc := by unfold Thread.setProgress; split <;> rfl
@[simp] theorem Thread.setProgress_x : (t.setProgress w).x = t.x := by unfold Thread.setProgress; split <;> rfl
@[simp] theorem Thread.setProgress_p : (t.setProgress w).p = t.p := by unfold Thread.setProgress; split <;> rfl
@[simp] theorem Thread.setProgress_f : (t.setProgress w).f = t.f := by unfold Thread.setProgress; split <;> rfl
@[simp] theorem Thread.setProgress_k : (t.setProgress w).k = t.k := by unfold Thread.setProgress; split <;> rfl
@[simp] theorem Thread.setProgress_fstat : (t.setProgress w).fstat = t.fstat := by unfold Thread.setProgress; split <;> rfl
@[simp] theorem Thread.setProgress_quad : (t.setProgress w).quad = t.quad := by unfold Thread.setProgress; split <;> rfl
@[simp] theorem Thread.setProgress_handler : (t.setProgress w).handler = t.handler := by unfold Thread.setProgress; split <;> rfl
@[simp] theorem Thread.setProgress_frame : (t.setProgress w).frame = t.frame := by unfold Thread.setProgress; split <;> rfl
@[simp] theorem Thread.setProgress_levels : (t.setProgress w).levels = t.levels := by unfold Thread.setProgress; split <;> rfl
@[simp] theorem Thread.setProgress_trapCause : (t.setProgress w).trapCause = t.trapCause := by unfold Thread.setProgress; split <;> rfl
@[simp] theorem Thread.setProgress_trapPc : (t.setProgress w).trapPc = t.trapPc := by unfold Thread.setProgress; split <;> rfl
@[simp] theorem Thread.setProgress_trapAddr : (t.setProgress w).trapAddr = t.trapAddr := by unfold Thread.setProgress; split <;> rfl
@[simp] theorem Thread.setProgress_trapInfo : (t.setProgress w).trapInfo = t.trapInfo := by unfold Thread.setProgress; split <;> rfl
@[simp] theorem Thread.setProgress_trapSeq : (t.setProgress w).trapSeq = t.trapSeq := by unfold Thread.setProgress; split <;> rfl
@[simp] theorem Thread.setProgress_lane : (t.setProgress w).lane = t.lane := by unfold Thread.setProgress; split <;> rfl
@[simp] theorem Thread.setProgress_dissolve : (t.setProgress w).dissolve = t.dissolve := by unfold Thread.setProgress; split <;> rfl
@[simp] theorem Thread.setProgress_status : (t.setProgress w).status = t.status := by unfold Thread.setProgress; split <;> rfl
@[simp] theorem Thread.setProgress_clause : (t.setProgress w).clause = t.clause := by unfold Thread.setProgress; split <;> rfl
@[simp] theorem Thread.setProgress_entry : (t.setProgress w).entry = t.entry := by unfold Thread.setProgress; split <;> rfl
@[simp] theorem Thread.setProgress_infl : (t.setProgress w).infl = t.infl := by unfold Thread.setProgress; split <;> rfl
@[simp] theorem Thread.setProgress_late : (t.setProgress w).late = t.late := by unfold Thread.setProgress; split <;> rfl
@[simp] theorem Thread.setProgress_stamp : (t.setProgress w).stamp = t.stamp := by unfold Thread.setProgress; split <;> rfl
@[simp] theorem Thread.setProgress_arrKind : (t.setProgress w).arrKind = t.arrKind := by unfold Thread.setProgress; split <;> rfl
@[simp] theorem Thread.setProgress_arrOp : (t.setProgress w).arrOp = t.arrOp := by unfold Thread.setProgress; split <;> rfl
@[simp] theorem Thread.setProgress_arrVal : (t.setProgress w).arrVal = t.arrVal := by unfold Thread.setProgress; split <;> rfl
@[simp] theorem Thread.setProgress_reply : (t.setProgress w).reply = t.reply := by unfold Thread.setProgress; split <;> rfl
@[simp] theorem Thread.setProgress_watchPc : (t.setProgress w).watchPc = t.watchPc := by unfold Thread.setProgress; split <;> rfl
@[simp] theorem Thread.setProgress_unwatched : (t.setProgress w).unwatched = t.unwatched := by unfold Thread.setProgress; split <;> rfl
@[simp] theorem Thread.setProgress_firstTrap : (t.setProgress w).firstTrap = t.firstTrap := by unfold Thread.setProgress; split <;> rfl
@[simp] theorem Thread.setProgress_fmode : (t.setProgress w).fmode = t.fmode := by unfold Thread.setProgress; split <;> rfl
@[simp] theorem Thread.setProgress_mfmt : (t.setProgress w).mfmt = t.mfmt := by unfold Thread.setProgress; split <;> rfl
end

section
variable (t : Thread) (n : Nat) (b : Bool)
@[simp] theorem Thread.setPred_tid : (t.setPred n b).tid = t.tid := by unfold Thread.setPred; split <;> rfl
@[simp] theorem Thread.setPred_pc : (t.setPred n b).pc = t.pc := by unfold Thread.setPred; split <;> rfl
@[simp] theorem Thread.setPred_x : (t.setPred n b).x = t.x := by unfold Thread.setPred; split <;> rfl
@[simp] theorem Thread.setPred_f : (t.setPred n b).f = t.f := by unfold Thread.setPred; split <;> rfl
@[simp] theorem Thread.setPred_k : (t.setPred n b).k = t.k := by unfold Thread.setPred; split <;> rfl
@[simp] theorem Thread.setPred_mstep : (t.setPred n b).mstep = t.mstep := by unfold Thread.setPred; split <;> rfl
@[simp] theorem Thread.setPred_hstep : (t.setPred n b).hstep = t.hstep := by unfold Thread.setPred; split <;> rfl
@[simp] theorem Thread.setPred_fstat : (t.setPred n b).fstat = t.fstat := by unfold Thread.setPred; split <;> rfl
@[simp] theorem Thread.setPred_quad : (t.setPred n b).quad = t.quad := by unfold Thread.setPred; split <;> rfl
@[simp] theorem Thread.setPred_handler : (t.setPred n b).handler = t.handler := by unfold Thread.setPred; split <;> rfl
@[simp] theorem Thread.setPred_frame : (t.setPred n b).frame = t.frame := by unfold Thread.setPred; split <;> rfl
@[simp] theorem Thread.setPred_levels : (t.setPred n b).levels = t.levels := by unfold Thread.setPred; split <;> rfl
@[simp] theorem Thread.setPred_trapCause : (t.setPred n b).trapCause = t.trapCause := by unfold Thread.setPred; split <;> rfl
@[simp] theorem Thread.setPred_trapPc : (t.setPred n b).trapPc = t.trapPc := by unfold Thread.setPred; split <;> rfl
@[simp] theorem Thread.setPred_trapAddr : (t.setPred n b).trapAddr = t.trapAddr := by unfold Thread.setPred; split <;> rfl
@[simp] theorem Thread.setPred_trapInfo : (t.setPred n b).trapInfo = t.trapInfo := by unfold Thread.setPred; split <;> rfl
@[simp] theorem Thread.setPred_trapSeq : (t.setPred n b).trapSeq = t.trapSeq := by unfold Thread.setPred; split <;> rfl
@[simp] theorem Thread.setPred_lane : (t.setPred n b).lane = t.lane := by unfold Thread.setPred; split <;> rfl
@[simp] theorem Thread.setPred_dissolve : (t.setPred n b).dissolve = t.dissolve := by unfold Thread.setPred; split <;> rfl
@[simp] theorem Thread.setPred_status : (t.setPred n b).status = t.status := by unfold Thread.setPred; split <;> rfl
@[simp] theorem Thread.setPred_clause : (t.setPred n b).clause = t.clause := by unfold Thread.setPred; split <;> rfl
@[simp] theorem Thread.setPred_entry : (t.setPred n b).entry = t.entry := by unfold Thread.setPred; split <;> rfl
@[simp] theorem Thread.setPred_infl : (t.setPred n b).infl = t.infl := by unfold Thread.setPred; split <;> rfl
@[simp] theorem Thread.setPred_late : (t.setPred n b).late = t.late := by unfold Thread.setPred; split <;> rfl
@[simp] theorem Thread.setPred_stamp : (t.setPred n b).stamp = t.stamp := by unfold Thread.setPred; split <;> rfl
@[simp] theorem Thread.setPred_arrKind : (t.setPred n b).arrKind = t.arrKind := by unfold Thread.setPred; split <;> rfl
@[simp] theorem Thread.setPred_arrOp : (t.setPred n b).arrOp = t.arrOp := by unfold Thread.setPred; split <;> rfl
@[simp] theorem Thread.setPred_arrVal : (t.setPred n b).arrVal = t.arrVal := by unfold Thread.setPred; split <;> rfl
@[simp] theorem Thread.setPred_reply : (t.setPred n b).reply = t.reply := by unfold Thread.setPred; split <;> rfl
@[simp] theorem Thread.setPred_watchPc : (t.setPred n b).watchPc = t.watchPc := by unfold Thread.setPred; split <;> rfl
@[simp] theorem Thread.setPred_unwatched : (t.setPred n b).unwatched = t.unwatched := by unfold Thread.setPred; split <;> rfl
@[simp] theorem Thread.setPred_firstTrap : (t.setPred n b).firstTrap = t.firstTrap := by unfold Thread.setPred; split <;> rfl
@[simp] theorem Thread.setPred_fmode : (t.setPred n b).fmode = t.fmode := by unfold Thread.setPred; split <;> rfl
@[simp] theorem Thread.setPred_mfmt : (t.setPred n b).mfmt = t.mfmt := by unfold Thread.setPred; split <;> rfl
end

section
variable (t : Thread)
@[simp] theorem Thread.clearMstep_tid : t.clearMstep.tid = t.tid := t.setProgress_tid 0
@[simp] theorem Thread.clearMstep_pc : t.clearMstep.pc = t.pc := t.setProgress_pc 0
@[simp] theorem Thread.clearMstep_x : t.clearMstep.x = t.x := t.setProgress_x 0
@[simp] theorem Thread.clearMstep_p : t.clearMstep.p = t.p := t.setProgress_p 0
@[simp] theorem Thread.clearMstep_f : t.clearMstep.f = t.f := t.setProgress_f 0
@[simp] theorem Thread.clearMstep_k : t.clearMstep.k = t.k := t.setProgress_k 0
@[simp] theorem Thread.clearMstep_fstat : t.clearMstep.fstat = t.fstat := t.setProgress_fstat 0
@[simp] theorem Thread.clearMstep_quad : t.clearMstep.quad = t.quad := t.setProgress_quad 0
@[simp] theorem Thread.clearMstep_handler : t.clearMstep.handler = t.handler := t.setProgress_handler 0
@[simp] theorem Thread.clearMstep_frame : t.clearMstep.frame = t.frame := t.setProgress_frame 0
@[simp] theorem Thread.clearMstep_levels : t.clearMstep.levels = t.levels := t.setProgress_levels 0
@[simp] theorem Thread.clearMstep_trapCause : t.clearMstep.trapCause = t.trapCause := t.setProgress_trapCause 0
@[simp] theorem Thread.clearMstep_trapPc : t.clearMstep.trapPc = t.trapPc := t.setProgress_trapPc 0
@[simp] theorem Thread.clearMstep_trapAddr : t.clearMstep.trapAddr = t.trapAddr := t.setProgress_trapAddr 0
@[simp] theorem Thread.clearMstep_trapInfo : t.clearMstep.trapInfo = t.trapInfo := t.setProgress_trapInfo 0
@[simp] theorem Thread.clearMstep_trapSeq : t.clearMstep.trapSeq = t.trapSeq := t.setProgress_trapSeq 0
@[simp] theorem Thread.clearMstep_lane : t.clearMstep.lane = t.lane := t.setProgress_lane 0
@[simp] theorem Thread.clearMstep_dissolve : t.clearMstep.dissolve = t.dissolve := t.setProgress_dissolve 0
@[simp] theorem Thread.clearMstep_status : t.clearMstep.status = t.status := t.setProgress_status 0
@[simp] theorem Thread.clearMstep_clause : t.clearMstep.clause = t.clause := t.setProgress_clause 0
@[simp] theorem Thread.clearMstep_entry : t.clearMstep.entry = t.entry := t.setProgress_entry 0
@[simp] theorem Thread.clearMstep_infl : t.clearMstep.infl = t.infl := t.setProgress_infl 0
@[simp] theorem Thread.clearMstep_late : t.clearMstep.late = t.late := t.setProgress_late 0
@[simp] theorem Thread.clearMstep_stamp : t.clearMstep.stamp = t.stamp := t.setProgress_stamp 0
@[simp] theorem Thread.clearMstep_arrKind : t.clearMstep.arrKind = t.arrKind := t.setProgress_arrKind 0
@[simp] theorem Thread.clearMstep_arrOp : t.clearMstep.arrOp = t.arrOp := t.setProgress_arrOp 0
@[simp] theorem Thread.clearMstep_arrVal : t.clearMstep.arrVal = t.arrVal := t.setProgress_arrVal 0
@[simp] theorem Thread.clearMstep_reply : t.clearMstep.reply = t.reply := t.setProgress_reply 0
@[simp] theorem Thread.clearMstep_watchPc : t.clearMstep.watchPc = t.watchPc := t.setProgress_watchPc 0
@[simp] theorem Thread.clearMstep_unwatched : t.clearMstep.unwatched = t.unwatched := t.setProgress_unwatched 0
@[simp] theorem Thread.clearMstep_firstTrap : t.clearMstep.firstTrap = t.firstTrap := t.setProgress_firstTrap 0
@[simp] theorem Thread.clearMstep_fmode : t.clearMstep.fmode = t.fmode := t.setProgress_fmode 0
@[simp] theorem Thread.clearMstep_mfmt : t.clearMstep.mfmt = t.mfmt := t.setProgress_mfmt 0
end

section
variable (t : Team) (n : Nat) (f : Thread → Thread)
@[simp] theorem Team.updThread_uid : (t.updThread n f).uid = t.uid := rfl
@[simp] theorem Team.updThread_die : (t.updThread n f).die = t.die := rfl
@[simp] theorem Team.updThread_ctx : (t.updThread n f).ctx = t.ctx := rfl
@[simp] theorem Team.updThread_core : (t.updThread n f).core = t.core := rfl
@[simp] theorem Team.updThread_grid : (t.updThread n f).grid = t.grid := rfl
@[simp] theorem Team.updThread_num : (t.updThread n f).num = t.num := rfl
@[simp] theorem Team.updThread_declared : (t.updThread n f).declared = t.declared := rfl
@[simp] theorem Team.updThread_quads : (t.updThread n f).quads = t.quads := rfl
@[simp] theorem Team.updThread_laneBase : (t.updThread n f).laneBase = t.laneBase := rfl
@[simp] theorem Team.updThread_gangs : (t.updThread n f).gangs = t.gangs := rfl
@[simp] theorem Team.updThread_s : (t.updThread n f).s = t.s := rfl
@[simp] theorem Team.updThread_fmode : (t.updThread n f).fmode = t.fmode := rfl
@[simp] theorem Team.updThread_mfmt : (t.updThread n f).mfmt = t.mfmt := rfl
@[simp] theorem Team.updThread_tags : (t.updThread n f).tags = t.tags := rfl
@[simp] theorem Team.updThread_tagErr : (t.updThread n f).tagErr = t.tagErr := rfl
@[simp] theorem Team.updThread_tagCount : (t.updThread n f).tagCount = t.tagCount := rfl
@[simp] theorem Team.updThread_ectx : (t.updThread n f).ectx = t.ectx := rfl
@[simp] theorem Team.updThread_cv : (t.updThread n f).cv = t.cv := rfl
@[simp] theorem Team.updThread_tiles : (t.updThread n f).tiles = t.tiles := rfl
@[simp] theorem Team.updThread_scrBase : (t.updThread n f).scrBase = t.scrBase := rfl
@[simp] theorem Team.updThread_scrSize : (t.updThread n f).scrSize = t.scrSize := rfl
@[simp] theorem Team.updThread_quota0 : (t.updThread n f).quota0 = t.quota0 := rfl
@[simp] theorem Team.updThread_recipeMax : (t.updThread n f).recipeMax = t.recipeMax := rfl
@[simp] theorem Team.updThread_bphase : (t.updThread n f).bphase = t.bphase := rfl
@[simp] theorem Team.updThread_bsignals : (t.updThread n f).bsignals = t.bsignals := rfl
@[simp] theorem Team.updThread_gbarArrived : (t.updThread n f).gbarArrived = t.gbarArrived := rfl
@[simp] theorem Team.updThread_rounds : (t.updThread n f).rounds = t.rounds := rfl
@[simp] theorem Team.updThread_quotaQ : (t.updThread n f).quotaQ = t.quotaQ := rfl
@[simp] theorem Team.updThread_slot : (t.updThread n f).slot = t.slot := rfl
@[simp] theorem Team.updThread_regs : (t.updThread n f).regs = t.regs := rfl
@[simp] theorem Team.updThread_status : (t.updThread n f).status = t.status := rfl
@[simp] theorem Team.updThread_gave : (t.updThread n f).gave = t.gave := rfl
@[simp] theorem Team.updThread_version : (t.updThread n f).version = t.version := rfl
@[simp] theorem Team.updThread_prologue : (t.updThread n f).prologue = t.prologue := rfl
end

section
variable (t : Team) (n : Nat) (f : Gang → Gang)
@[simp] theorem Team.updGang_uid : (t.updGang n f).uid = t.uid := rfl
@[simp] theorem Team.updGang_die : (t.updGang n f).die = t.die := rfl
@[simp] theorem Team.updGang_ctx : (t.updGang n f).ctx = t.ctx := rfl
@[simp] theorem Team.updGang_core : (t.updGang n f).core = t.core := rfl
@[simp] theorem Team.updGang_grid : (t.updGang n f).grid = t.grid := rfl
@[simp] theorem Team.updGang_num : (t.updGang n f).num = t.num := rfl
@[simp] theorem Team.updGang_declared : (t.updGang n f).declared = t.declared := rfl
@[simp] theorem Team.updGang_quads : (t.updGang n f).quads = t.quads := rfl
@[simp] theorem Team.updGang_laneBase : (t.updGang n f).laneBase = t.laneBase := rfl
@[simp] theorem Team.updGang_threads : (t.updGang n f).threads = t.threads := rfl
@[simp] theorem Team.updGang_s : (t.updGang n f).s = t.s := rfl
@[simp] theorem Team.updGang_fmode : (t.updGang n f).fmode = t.fmode := rfl
@[simp] theorem Team.updGang_mfmt : (t.updGang n f).mfmt = t.mfmt := rfl
@[simp] theorem Team.updGang_tags : (t.updGang n f).tags = t.tags := rfl
@[simp] theorem Team.updGang_tagErr : (t.updGang n f).tagErr = t.tagErr := rfl
@[simp] theorem Team.updGang_tagCount : (t.updGang n f).tagCount = t.tagCount := rfl
@[simp] theorem Team.updGang_ectx : (t.updGang n f).ectx = t.ectx := rfl
@[simp] theorem Team.updGang_cv : (t.updGang n f).cv = t.cv := rfl
@[simp] theorem Team.updGang_tiles : (t.updGang n f).tiles = t.tiles := rfl
@[simp] theorem Team.updGang_scrBase : (t.updGang n f).scrBase = t.scrBase := rfl
@[simp] theorem Team.updGang_scrSize : (t.updGang n f).scrSize = t.scrSize := rfl
@[simp] theorem Team.updGang_quota0 : (t.updGang n f).quota0 = t.quota0 := rfl
@[simp] theorem Team.updGang_recipeMax : (t.updGang n f).recipeMax = t.recipeMax := rfl
@[simp] theorem Team.updGang_bphase : (t.updGang n f).bphase = t.bphase := rfl
@[simp] theorem Team.updGang_bsignals : (t.updGang n f).bsignals = t.bsignals := rfl
@[simp] theorem Team.updGang_gbarArrived : (t.updGang n f).gbarArrived = t.gbarArrived := rfl
@[simp] theorem Team.updGang_rounds : (t.updGang n f).rounds = t.rounds := rfl
@[simp] theorem Team.updGang_quotaQ : (t.updGang n f).quotaQ = t.quotaQ := rfl
@[simp] theorem Team.updGang_slot : (t.updGang n f).slot = t.slot := rfl
@[simp] theorem Team.updGang_regs : (t.updGang n f).regs = t.regs := rfl
@[simp] theorem Team.updGang_status : (t.updGang n f).status = t.status := rfl
@[simp] theorem Team.updGang_gave : (t.updGang n f).gave = t.gave := rfl
@[simp] theorem Team.updGang_version : (t.updGang n f).version = t.version := rfl
@[simp] theorem Team.updGang_prologue : (t.updGang n f).prologue = t.prologue := rfl
end

-- lookups after updates

theorem find?_modifyFirst {α : Type} (p : α → Bool) (f : α → α) (hf : ∀ a, p (f a) = p a) (l : List α) :
    (modifyFirst p f l).find? p = (l.find? p).map f := by
  induction l with
  | nil => rfl
  | cons a l ih => by_cases h : p a <;> simp_all [modifyFirst]

theorem find?_modifyFirst_other {α : Type} (p q : α → Bool) (f : α → α) (hf : ∀ a, p a → q (f a) = false ∧ q a = false) (l : List α) :
    (modifyFirst p f l).find? q = l.find? q := by
  induction l with
  | nil => rfl
  | cons a l ih =>
    by_cases h : p a
    · simp [modifyFirst, h, hf a h]
    · rw [modifyFirst, if_neg h, List.find?_cons, List.find?_cons, ih]

theorem modifyFirst_congr {α : Type} (p : α → Bool) (f g : α → α) (l : List α) (h : ∀ a, l.find? p = some a → f a = g a) :
    modifyFirst p f l = modifyFirst p g l := by
  induction l with
  | nil => rfl
  | cons a l ih => by_cases hp : p a <;> simp_all [modifyFirst]

theorem modifyFirst_modifyFirst {α : Type} (p : α → Bool) (f g : α → α) (hf : ∀ a, p (f a) = p a) (l : List α) :
    modifyFirst p g (modifyFirst p f l) = modifyFirst p (fun a => g (f a)) l := by
  induction l with
  | nil => rfl
  | cons a l ih => by_cases h : p a <;> simp_all [modifyFirst]

theorem modifyFirst_id {α : Type} (p : α → Bool) (l : List α) : modifyFirst p (fun a => a) l = l := by
  induction l with
  | nil => rfl
  | cons a l ih => by_cases h : p a <;> simp_all [modifyFirst]

/-- A change of a team, looked up. -/
theorem State.team?_updTeam {s : State} {u : Nat} {f : Team → Team} (hf : ∀ t, (f t).uid = t.uid) :
    (s.updTeam u f).team? u = (s.team? u).map f :=
  find?_modifyFirst _ _ (fun t => by simp [hf]) _
/-- Another team, looked up. -/
theorem State.team?_updTeam_other {s : State} {u v : Nat} {f : Team → Team} (hf : ∀ t, (f t).uid = t.uid) (h : v ≠ u) :
    (s.updTeam u f).team? v = s.team? v :=
  find?_modifyFirst_other _ _ _ (fun t ht => by simp_all [Ne.symm h]) _

@[simp] theorem State.team?_updThread (s : State) (id : ThreadId) (f : Thread → Thread) :
    (s.updThread id f).team? id.1 = (s.team? id.1).map (·.updThread id.2 f) := State.team?_updTeam fun _ => rfl

/-- Two changes of one team are one. -/
theorem State.updTeam_updTeam (s : State) (u : Nat) (f g : Team → Team) (hf : ∀ t, (f t).uid = t.uid) :
    (s.updTeam u f).updTeam u g = s.updTeam u (fun t => g (f t)) := by
  simp only [State.updTeam]
  rw [modifyFirst_modifyFirst _ _ _ fun t => by simp [hf]]

/-- Two changes that agree on the team are one change. -/
theorem State.updTeam_congr {s : State} {u : Nat} {f g : Team → Team} (h : ∀ t, s.team? u = some t → f t = g t) :
    s.updTeam u f = s.updTeam u g := by
  simp only [State.updTeam]
  rw [modifyFirst_congr _ _ _ _ h]

theorem Team.updThread_updThread (tm : Team) (n : Nat) (f g : Thread → Thread) :
    (tm.updThread n f).updThread n g = tm.updThread n (fun t => g (f t)) := by
  simp only [Team.updThread]
  congr 1
  refine List.ext_getElem (by simp only [List.length_modify]) fun i _ _ => ?_
  simp only [List.getElem_modify]
  split <;> rfl

/-- Two changes of one thread are one. -/
theorem State.updThread_updThread (s : State) (id : ThreadId) (f g : Thread → Thread) :
    (s.updThread id f).updThread id g = s.updThread id (fun t => g (f t)) := by
  unfold State.updThread
  rw [State.updTeam_updTeam s id.1 (fun t => t.updThread id.2 f) _ fun _ => rfl]
  simp only [Team.updThread_updThread]

theorem Team.updThread_id (tm : Team) (n : Nat) : (tm.updThread n fun t => t) = tm := by
  simp only [Team.updThread]
  have h : tm.threads.modify n (fun t => t) = tm.threads := by
    refine List.ext_getElem (by simp only [List.length_modify]) fun i _ _ => ?_
    simp only [List.getElem_modify, ite_self]
  rw [h]

theorem State.updTeam_id (s : State) (u : Nat) : (s.updTeam u fun t => t) = s := by
  simp only [State.updTeam]
  rw [modifyFirst_id]

/-- Two changes that agree on the thread are one change. -/
theorem State.updThread_congr {s : State} {id : ThreadId} {f g : Thread → Thread} (h : ∀ t, s.thread? id = some t → f t = g t) :
    s.updThread id f = s.updThread id g := by
  apply State.updTeam_congr
  intro tm htm
  simp only [Team.updThread]
  congr 1
  refine List.ext_getElem (by simp only [List.length_modify]) fun i hi _ => ?_
  simp only [List.getElem_modify]
  split
  · rename_i hid
    have hi : i < tm.threads.length := by simpa only [List.length_modify] using hi
    apply h
    simp only [State.thread?, htm, hid, Option.bind_some, List.getElem?_eq_getElem hi]
  · rfl

/-- A change of nothing. -/
theorem State.updThread_id (s : State) (id : ThreadId) : (s.updThread id fun t => t) = s := by
  simp only [State.updThread, Team.updThread_id, State.updTeam_id]

/-- The thread that issues stays the same while a team changes. -/
@[simp] theorem State.cur?_updTeam (s : State) (u : Nat) (f : Team → Team) : (s.updTeam u f).cur? = s.cur? := rfl
@[simp] theorem State.cur_updTeam (s : State) (u : Nat) (f : Team → Team) : (s.updTeam u f).cur = s.cur := rfl
@[simp] theorem State.cur?_updThread (s : State) (id : ThreadId) (f : Thread → Thread) : (s.updThread id f).cur? = s.cur? := rfl
@[simp] theorem State.cur_updThread (s : State) (id : ThreadId) (f : Thread → Thread) : (s.updThread id f).cur = s.cur := rfl
@[simp] theorem State.pfx_updThread (s : State) (id : ThreadId) (f : Thread → Thread) : (s.updThread id f).pfx = s.pfx := rfl
@[simp] theorem State.pfx_updTeam (s : State) (u : Nat) (f : Team → Team) : (s.updTeam u f).pfx = s.pfx := rfl

end Sys2Proof.Machine
end

