-- ==== Sys2Proof/Laws/Lane.lean ====
section
/-! SUPPORT. What the operations of an instruction do when its thread is `Ready`: register reads and writes, last-read marks, retirement;
and what a lane operation answers. -/
namespace Sys2Proof.Machine

-- the monad of operations

section Monad
variable {α β : Type} {s s' : State}

theorem Op.bind_ok {x : Op α} {a : α} (h : x s = .ok (a, s')) (f : α → Op β) : (x >>= f) s = f a s' := by
  simp [bind, StateT.bind, h, Except.bind]
theorem Op.bind_error {x : Op α} {e : Stop} (h : x s = .error e) (f : α → Op β) : (x >>= f) s = .error e := by
  simp [bind, StateT.bind, h, Except.bind]
theorem Op.map_ok {x : Op α} {a : α} (h : x s = .ok (a, s')) (f : α → β) : (f <$> x) s = .ok (f a, s') := by
  simp [Functor.map, StateT.map, h, bind, Except.bind, pure, Except.pure]
@[simp] theorem Op.pure_apply (a : α) : (pure a : Op α) s = .ok (a, s) := rfl
@[simp] theorem Op.get_apply : (get : Op State) s = .ok (s, s) := rfl
@[simp] theorem Op.set_apply (t : State) : (set t : Op PUnit) s = .ok ((), t) := rfl
@[simp] theorem Op.modify_apply (f : State → State) : (modify f : Op PUnit) s = .ok ((), f s) := rfl
@[simp] theorem Op.modThread_apply (f : Thread → Thread) : modThread f s = .ok ((), s.updThread s.cur f) := rfl
@[simp] theorem Op.modTeam_apply (f : Team → Team) : modTeam f s = .ok ((), s.updTeam s.cur.1 f) := rfl
@[simp] theorem Op.stop_apply (r : Stop) : (stop r : Op α) s = .error r := rfl
@[simp] theorem Op.trap_apply (r : TrapRec) : (trap r : Op α) s = .error (.trap r) := rfl
@[simp] theorem Op.illegal_apply (c : Nat) : (illegal c : Op α) s = .error (.trap { cause := causeIllegal, code := c }) := rfl
@[simp] theorem Op.stopKeep_apply (r : Stop) : (stopKeep r : Op α) s = .error (.keep s r) := rfl
@[simp] theorem Op.drawFree_apply : drawFree s = .ok (Config.freeNat s.free, { s with free := s.free + 1 }) := rfl
@[simp] theorem Op.freshId_apply : freshId s = .ok (s.nextId, { s with nextId := s.nextId + 1 }) := rfl
@[simp] theorem Op.get_bind (f : State → Op β) : ((get : Op State) >>= f) s = f s s := rfl
@[simp] theorem Op.set_bind (t : State) (f : PUnit → Op β) : ((set t : Op PUnit) >>= f) s = f () t := rfl
@[simp] theorem Op.modify_bind (g : State → State) (f : PUnit → Op β) : ((modify g : Op PUnit) >>= f) s = f () (g s) := rfl
@[simp] theorem Op.modThread_bind (g : Thread → Thread) (f : Unit → Op β) :
    (modThread g >>= f) s = f () (s.updThread s.cur g) := rfl
@[simp] theorem Op.modTeam_bind (g : Team → Team) (f : Unit → Op β) : (modTeam g >>= f) s = f () (s.updTeam s.cur.1 g) := rfl
@[simp] theorem Op.pure_bind (a : α) (f : α → Op β) : ((pure a : Op α) >>= f) s = f a s := rfl
@[simp] theorem Op.stop_bind (r : Stop) (f : α → Op β) : ((stop r : Op α) >>= f) s = .error r := rfl
@[simp] theorem Op.trap_bind (r : TrapRec) (f : α → Op β) : ((trap r : Op α) >>= f) s = .error (.trap r) := rfl
@[simp] theorem Op.illegal_bind (c : Nat) (f : α → Op β) :
    ((illegal c : Op α) >>= f) s = .error (.trap { cause := causeIllegal, code := c }) := rfl
@[simp] theorem Op.freshId_bind (f : Nat → Op β) : (freshId >>= f) s = f s.nextId { s with nextId := s.nextId + 1 } := rfl
@[simp] theorem Op.drawFree_bind (f : Nat → Op β) : (drawFree >>= f) s = f (Config.freeNat s.free) { s with free := s.free + 1 } := rfl
@[simp] theorem Op.bind_bind (x : Op α) (f : α → Op β) {γ : Type} (g : β → Op γ) : ((x >>= f) >>= g) s = (x >>= fun a => f a >>= g) s := by
  cases h : x s with
  | ok p => simp [bind, StateT.bind, h, Except.bind]
  | error e => simp [bind, StateT.bind, h, Except.bind]

end Monad

namespace Issuing
variable {s : State} {id : ThreadId} {tm : Team} {t : Thread}

theorem cur_eq (h : Issuing s id tm t) : s.cur = id := by simp [State.cur, h.cur]
theorem team_eq (h : Issuing s id tm t) : s.team id.1 = tm := by simp [State.team, h.team]
theorem curTeam_eq (h : Issuing s id tm t) : s.curTeam = tm := by simp [State.curTeam, h.cur_eq, h.team_eq]
theorem thread?_eq (h : Issuing s id tm t) : s.thread? id = some t := by simp [State.thread?, h.team, h.thread]
theorem curThread_eq (h : Issuing s id tm t) : s.curThread = t := by
  simp [State.curThread, State.thread, h.cur_eq, h.thread?_eq]

/-- The issuing thread after a change that keeps what `Issuing` speaks of. -/
theorem upd (h : Issuing s id tm t) {f : Thread → Thread} (htid : (f t).tid = t.tid)
    (hf : (f t).fmode = t.fmode) (hm : (f t).mfmt = t.mfmt) (hms : (f t).progress.msb = false) :
    Issuing (s.updThread id f) id (tm.updThread id.2 f) (f t) := by
  refine ⟨h.cur, by simp [h.team], ?_, by rw [htid, h.tid], by rw [hf, h.fmode]; rfl, by rw [hm, h.mfmt]; rfl, hms⟩
  simp [Team.updThread, h.thread]

end Issuing

/-- The issuing thread after a change that leaves it untagged. -/
theorem Ready.upd {s : State} {id : ThreadId} {tm : Team} {t : Thread} (h : Ready s id tm t) {f : Thread → Thread} (htid : (f t).tid = t.tid)
    (hp : (f t).Plain) (hf : (f t).fmode = t.fmode) (hm : (f t).mfmt = t.mfmt) (hms : (f t).progress.msb = false) :
    Ready (s.updThread id f) id (tm.updThread id.2 f) (f t) := ⟨h.toIssuing.upd htid hf hm hms, hp⟩

/-- An operation of the issuing thread that replaces it. -/
theorem updThread_of {s : State} {id : ThreadId} {t : Thread} (ht : s.thread? id = some t) {f g : Thread → Thread} (h : f t = g t) :
    s.updThread id f = s.updThread id g :=
  State.updThread_congr fun u hu => by rw [ht] at hu; cases hu; exact h

section Plain
variable {t : Thread}

theorem Thread.Plain.tag (h : t.Plain) (n : Nat) : (t.cell n).tag = 0 := by
  unfold Thread.cell
  by_cases hn : n < 64
  · have hm : t.x[n] ∈ t.x.toList := by simp
    have h0 := List.all_eq_true.mp h _ hm
    simpa [hn] using h0
  · simp [hn]

theorem readsThrough_plain (h : t.Plain) (tm : Team) (ns : List Nat) (f m : Nat) : readsThrough tm t ns f m = false := by
  cases f <;> simp [readsThrough, h.tag]

theorem dependents_plain (h : t.Plain) (tm : Team) (ns : List Nat) : dependents tm t ns = [] := by
  simp [dependents, readsThrough_plain h]

theorem Thread.cell_setCell (t : Thread) (m n : Nat) (c : XCell) :
    (t.setCell m c).cell n = if m = n ∧ n < 64 then c else t.cell n := by
  unfold Thread.cell Thread.setCell
  by_cases hn : n < 64
  · simp [hn, Vector.getElem_setIfInBounds]
  · simp [hn]

theorem Thread.plain_iff : t.Plain ↔ ∀ n, (t.cell n).tag = 0 := by
  refine ⟨fun h n => h.tag n, fun h => ?_⟩
  unfold Thread.Plain
  rw [List.all_eq_true]
  intro c hc
  obtain ⟨i, hi, rfl⟩ := List.getElem_of_mem hc
  have := h i
  simp at hi
  simp_all [Thread.cell]

theorem Thread.Plain.setCell (h : t.Plain) (n : Nat) {c : XCell} (hc : c.tag = 0) : (t.setCell n c).Plain := by
  rw [Thread.plain_iff]
  intro m
  rw [Thread.cell_setCell]
  split
  · exact hc
  · exact h.tag m

theorem Thread.Plain.setK (h : t.Plain) (n : Nat) (w : Word) : (t.setK n w).Plain := h

end Plain

/-- Untagged registers have no dependents: nothing is settled (R100). -/
theorem settleDependents_ready {s : State} {id : ThreadId} {tm : Team} {t : Thread} (h : Ready s id tm t) (ns : List Nat) :
    settleDependents ns s = .ok ((), s) := by
  simp only [settleDependents, Op.get_bind, h.curTeam_eq, h.curThread_eq, dependents_plain h.plain, List.forIn_nil, Op.pure_bind,
    Op.modThread_apply, Thread.untag, State.updThread_id]

section Registers
variable {s : State} {id : ThreadId} {tm : Team} {t : Thread}

/-- A readable register gives its value (R96). -/
theorem readX_ready (h : Ready s id tm t) {n : Nat} (hr : t.Reads (tm.quotaOf t.tid) n) : readX n s = .ok (t.reg n, s) := by
  obtain ⟨hn, hp, hk⟩ := hr
  simp only [readX, Op.get_bind, h.curTeam_eq, h.curThread_eq, hp]
  by_cases hK : t.isK n = true
  · have : t.inHandler = true ∧ 56 ≤ n := by simpa [Thread.isK] using hK
    simp [this, Thread.reg, hK]
  · obtain ⟨hq, hd⟩ := hk.resolve_left hK
    have hK' : (t.inHandler && decide (56 ≤ n)) = false := by simpa [Thread.isK] using hK
    simp only [Thread.reg, Thread.isK, hK', regState, hq, h.plain.tag, hd]
    simp

/-- Readable registers, in order. -/
theorem readList_ready (h : Ready s id tm t) : ∀ {ns : List Nat}, (∀ n ∈ ns, t.Reads (tm.quotaOf t.tid) n) →
    readList ns s = .ok (ns.map t.reg, s)
  | [], _ => rfl
  | n :: ns, hr => by
    have h1 := readX_ready h (hr n (by simp))
    have h2 := readList_ready h (ns := ns) fun m hm => hr m (by simp [hm])
    simp [readList, Op.bind_ok h1, Op.map_ok h2]

theorem readPair_ready (h : Ready s id tm t) {n : Nat} (h1 : t.Reads (tm.quotaOf t.tid) n) (h2 : t.Reads (tm.quotaOf t.tid) (n + 1)) :
    readPair n s = .ok (pair64 (t.reg n) (t.reg (n + 1)), s) := by
  simp [readPair, Op.bind_ok (readX_ready h h1), Op.map_ok (readX_ready h h2)]

theorem modeView_same (w : Word) : modeView w w s = .ok (w, s) := by simp [modeView]

theorem curFtz_ready (h : Ready s id tm t) : curFtz s = .ok (ftzOf t.fmode, s) := by
  simp only [curFtz, Op.get_bind, h.curTeam_eq, h.curThread_eq, h.fmode]
  simp [Op.bind_ok (modeView_same tm.fmode)]

theorem home_of_isK {n : Nat} (hk : t.isK n = true) : t.home n = n + 8 := by
  have : t.inHandler = true ∧ 56 ≤ n := by simpa [Thread.isK] using hk
  simp [Thread.home, this]
theorem home_of_not_isK {n : Nat} (hk : ¬ t.isK n = true) : t.home n = n := by
  have : (t.inHandler && decide (56 ≤ n)) = false := by simpa [Thread.isK] using hk
  simp only [Thread.home, this]; rfl

/-- Writable destinations without a recipe are made ready (R96). -/
theorem prepareDsts_ready (h : Ready s id tm t) {ds : List Nat} (hw : ∀ n ∈ ds, t.Writes (tm.quotaOf t.tid) n) :
    prepareDsts ds none s = .ok ((), s.updThread id (·.readied ((ds.map t.home).filter (· < 64)))) := by
  have hp : (ds.any fun n => t.pending (t.home n)) = false := by
    simp only [List.any_eq_false]; intro n hn; simp [(hw n hn).2.1]
  have hq : (ds.map t.home |>.filter (· < 64)).find? (fun n => decide (tm.quotaOf t.tid ≤ n)) = none := by
    simp only [List.find?_eq_none, List.mem_filter, List.mem_map]
    rintro _ ⟨⟨n, hn, rfl⟩, hlt⟩
    obtain ⟨_, _, hk⟩ := hw n hn
    by_cases hK : t.isK n = true
    · have : 56 ≤ n := by have := hK; simp [Thread.isK] at this; exact this.2
      simp [home_of_isK hK] at hlt; omega
    · have := hk.resolve_left hK
      simp [home_of_not_isK hK]; omega
  simp only [prepareDsts, Op.get_bind, h.curTeam_eq, h.curThread_eq, hp, Option.bind_none, Option.isNone_none, Bool.true_and, hq]
  by_cases he : (ds.map t.home |>.filter (· < 64)) = []
  · simp [he, Thread.readied, State.updThread_id]
  · have he' : (ds.map t.home |>.filter (· < 64)).isEmpty = false := by simpa using he
    simp only [he', Bool.false_eq_true, if_false]
    rw [Op.bind_ok (settleDependents_ready h _)]
    simp [h.cur_eq, Thread.readied]

theorem Thread.readied_plain (hp : t.Plain) (hs : List Nat) : (t.readied hs).Plain := by
  induction hs generalizing t with
  | nil => exact hp
  | cons a hs ih => exact ih (hp.setCell _ rfl)

/-- A value stored in a slot, its marks kept. -/
def Thread.slot (t : Thread) (n : Nat) (w : Word) : Thread := t.setCell n { t.cell n with val := w }

theorem setCell_setCell (t : Thread) (n : Nat) (c d : XCell) : (t.setCell n c).setCell n d = t.setCell n d := by
  simp only [Thread.setCell, Thread.mk.injEq, true_and, and_true]
  apply Vector.ext
  intro i hi
  simp only [Vector.getElem_setIfInBounds]
  split <;> rfl

theorem setCell_comm (t : Thread) {m n : Nat} (hmn : m ≠ n) (c d : XCell) : (t.setCell m c).setCell n d = (t.setCell n d).setCell m c := by
  simp only [Thread.setCell, Thread.mk.injEq, true_and, and_true]
  apply Vector.ext
  intro i hi
  simp only [Vector.getElem_setIfInBounds]
  split <;> split <;> simp_all

theorem slot_ready_comm (t : Thread) (m n : Nat) (w : Word) (hn : n < 64) :
    (t.setCell m { t.cell m with dead := false, tag := 0, stored := false }).slot n w =
      (t.slot n w).setCell m { (t.slot n w).cell m with dead := false, tag := 0, stored := false } := by
  by_cases h : m = n
  · subst h; simp [Thread.slot, Thread.cell_setCell, setCell_setCell, hn]
  · simp only [Thread.slot, Thread.cell_setCell, h, Ne.symm h, false_and, if_false]
    rw [setCell_comm _ h]

theorem slot_readied (hs : List Nat) (t : Thread) (n : Nat) (w : Word) (hn : n < 64) :
    (t.readied hs).slot n w = (t.slot n w).readied hs := by
  induction hs generalizing t with
  | nil => rfl
  | cons m hs ih =>
    simp only [Thread.readied, List.foldl_cons] at ih ⊢
    rw [ih, slot_ready_comm _ _ _ _ hn]

theorem setK_readied (hs : List Nat) (t : Thread) (n : Nat) (w : Word) : (t.readied hs).setK n w = (t.setK n w).readied hs := by
  induction hs generalizing t with
  | nil => rfl
  | cons m hs ih => exact ih _

@[simp] theorem readied_handler (hs : List Nat) (t : Thread) : (t.readied hs).handler = t.handler := by
  induction hs generalizing t with
  | nil => rfl
  | cons m hs ih => exact ih _
@[simp] theorem readied_tid (hs : List Nat) (t : Thread) : (t.readied hs).tid = t.tid := by
  induction hs generalizing t with
  | nil => rfl
  | cons m hs ih => exact ih _
theorem readied_home (hs : List Nat) (t : Thread) : (t.readied hs).home = t.home := by
  funext n; simp [Thread.home, Thread.inHandler]
theorem home_congr {t u : Thread} (h : t.handler = u.handler) : t.home = u.home := by
  funext n; simp [Thread.home, Thread.inHandler, h]
theorem isK_congr {t u : Thread} (h : t.handler = u.handler) : t.isK = u.isK := by
  funext n; simp [Thread.isK, Thread.inHandler, h]

/-- Values stored in destinations that were made ready are what `gets` says. -/
theorem putValues_readied (tm : Team) : ∀ (ds : List Nat) (vs : List Word) (t : Thread), ds.length = vs.length →
    (∀ n ∈ ds, n < 64 ∧ (t.isK n = true ∨ n < tm.quotaOf t.tid)) →
    putValues tm (t.readied ((ds.map t.home).filter (· < 64))) (ds.zip vs) = t.gets (ds.zip vs)
  | [], _, t, _, _ => by simp [putValues, Thread.gets, Thread.readied]
  | n :: ds, [], t, hl, _ => by simp at hl
  | n :: ds, w :: vs, t, hl, hw => by
    obtain ⟨hn, hk⟩ := hw n (by simp)
    have hw' : ∀ m ∈ ds, m < 64 ∧ (t.isK m = true ∨ m < tm.quotaOf t.tid) := fun m hm => hw m (by simp [hm])
    have hl' : ds.length = vs.length := by simpa using hl
    by_cases hK : t.isK n = true
    · have h56 : 56 ≤ n := by have := hK; simp [Thread.isK] at this; exact this.2
      have hh : t.home n = n + 8 := home_of_isK hK
      have ih := putValues_readied tm ds vs (t.setK (n - 56) w) hl' (by
        intro m hm; have := hw' m hm; rwa [isK_congr (t := t.setK (n - 56) w) (u := t) rfl])
      rw [home_congr (t := t.setK (n - 56) w) (u := t) rfl] at ih
      simp only [List.zip_cons_cons, List.map_cons, putValues, readied_home, hh, Thread.gets, hK, if_true]
      rw [List.filter_cons_of_neg (by simp; omega)]
      rw [← ih]
      have : 64 ≤ n + 8 := by omega
      simp only [this, decide_true, Bool.true_or, if_true, Thread.putHome]
      rw [setK_readied, show n + 8 - 64 = n - 56 by omega]
    · have hq := hk.resolve_left hK
      have hh : t.home n = n := home_of_not_isK hK
      have hK' : t.isK n = false := by simpa using hK
      have ih := putValues_readied tm ds vs (t.setCell n { val := w, dead := false }) hl' (by
        intro m hm; have := hw' m hm; rwa [isK_congr (t := t.setCell n _) (u := t) rfl])
      rw [home_congr (t := t.setCell n _) (u := t) rfl] at ih
      simp only [List.zip_cons_cons, List.map_cons, putValues, readied_home, hh, Thread.gets, hK', Bool.false_eq_true, if_false]
      rw [List.filter_cons_of_pos (by simpa using hn), ← ih]
      have h1 : ¬ 64 ≤ n := by omega
      simp only [readied_tid, h1, decide_false, Bool.false_or, hq, decide_true, if_true, Thread.putHome, if_false]
      rw [show ∀ u : Thread, u.setCell n { u.cell n with val := w } = u.slot n w from fun _ => rfl, slot_readied _ _ _ _ hn]
      simp only [Thread.readied, List.foldl_cons, Thread.slot, setCell_setCell, Thread.cell_setCell, hn, and_self, if_true]

@[simp] theorem readied_infl (hs : List Nat) (t : Thread) : (t.readied hs).infl = t.infl := by
  induction hs generalizing t with
  | nil => rfl
  | cons m hs ih => exact ih _
@[simp] theorem readied_modes (hs : List Nat) (t : Thread) :
    (t.readied hs).fmode = t.fmode ∧ (t.readied hs).mfmt = t.mfmt ∧ (t.readied hs).progress = t.progress := by
  induction hs generalizing t with
  | nil => exact ⟨rfl, rfl, rfl⟩
  | cons m hs ih => exact ih _

/-- The same thread, its registers and k registers apart. -/
structure SameBut (t u : Thread) : Prop where
  handler : u.handler = t.handler
  tid : u.tid = t.tid
  infl : u.infl = t.infl
  fmode : u.fmode = t.fmode
  mfmt : u.mfmt = t.mfmt
  progress : u.progress = t.progress

theorem gets_plain : ∀ (vs : List (Nat × Word)) {t : Thread}, t.Plain → (t.gets vs).Plain
  | [], _, h => h
  | (n, w) :: vs, t, h => by
    unfold Thread.gets
    split
    · exact gets_plain vs (h.setK _ _)
    · exact gets_plain vs (h.setCell _ rfl)

theorem gets_same : ∀ (vs : List (Nat × Word)) (t : Thread), SameBut t (t.gets vs)
  | [], t => ⟨rfl, rfl, rfl, rfl, rfl, rfl⟩
  | (n, w) :: vs, t => by
    unfold Thread.gets
    split
    · obtain ⟨a, b, c, d, e, f⟩ := gets_same vs (t.setK (n - 56) w); exact ⟨a, b, c, d, e, f⟩
    · obtain ⟨a, b, c, d, e, f⟩ := gets_same vs (t.setCell n { val := w, dead := false }); exact ⟨a, b, c, d, e, f⟩

/-- The issuing thread after its registers are written. -/
theorem Ready.gets (h : Ready s id tm t) (vs : List (Nat × Word)) :
    Ready (s.updThread id (·.gets vs)) id (tm.updThread id.2 (·.gets vs)) (t.gets vs) :=
  let g := gets_same vs t
  h.upd g.tid (gets_plain vs h.plain) g.fmode g.mfmt (by rw [g.progress]; exact h.mstep)

/-- Writable destinations written without a recipe (R96). -/
theorem writeRegs_ready (h : Ready s id tm t) {ds : List Nat} {vs : List Word} (hl : ds.length = vs.length)
    (hw : ∀ n ∈ ds, t.Writes (tm.quotaOf t.tid) n) :
    writeRegs ds vs none s = .ok ((), s.updThread id (·.gets (ds.zip vs))) := by
  have hu := h.upd (f := (·.readied ((ds.map t.home).filter (· < 64)))) (by simp) (Thread.readied_plain h.plain _)
    (by simp) (by simp) (by simpa using h.mstep)
  simp only [writeRegs]
  rw [Op.bind_ok (prepareDsts_ready h hw)]
  simp only [Op.modify_apply, hu.cur_eq, hu.curTeam_eq, State.updThread_updThread]
  congr 2
  apply updThread_of h.thread?_eq
  have hq : (tm.updThread id.2 (·.readied ((ds.map t.home).filter (· < 64)))).quotaOf t.tid = tm.quotaOf t.tid := rfl
  have := putValues_readied (tm.updThread id.2 (·.readied ((ds.map t.home).filter (· < 64)))) ds vs t hl
    (fun n hn => ⟨(hw n hn).1, hq ▸ (hw n hn).2.2⟩)
  simpa using this

/-- Marks applied to registers that were readable (R103). -/
theorem applyMarks_ready (h : Ready s id tm t) {ms ds : List Nat}
    (hm : ∀ n ∈ ms, n < 64 ∧ (t.isK n = true ∨ n < tm.quotaOf t.tid)) :
    applyMarks ms ds s = .ok ((), s.updThread id (·.killed (t.marked ms ds))) := by
  have hf : (ms.filter fun n => !ds.contains n && decide (t.home n < 64)) = t.marked ms ds := by
    unfold Thread.marked
    apply List.filter_congr
    intro n hn
    congr 1
    by_cases hK : t.isK n = true
    · have h56 : 56 ≤ n := by have := hK; simp [Thread.isK] at this; exact this.2
      simp [hK, home_of_isK hK]; omega
    · simp [hK, home_of_not_isK hK, (hm n hn).1]
  simp only [applyMarks, Op.get_bind, h.curThread_eq, hf]
  by_cases he : t.marked ms ds = []
  · simp [he, Thread.killed, State.updThread_id]
  · have he' : (t.marked ms ds).isEmpty = false := by simpa using he
    simp only [he', Bool.false_eq_true, if_false]
    rw [Op.bind_ok (settleDependents_ready h _)]
    simp only [Op.get_bind, Op.modThread_apply, h.cur_eq, h.curTeam_eq]
    congr 2
    apply updThread_of h.thread?_eq
    have hq : ∀ n ∈ t.marked ms ds, n < tm.quotaOf t.tid := by
      intro n hn
      have hn' : n ∈ ms ∧ t.isK n = false := by
        simp only [Thread.marked, List.mem_filter] at hn; exact ⟨hn.1, by have := hn.2; simp_all⟩
      exact (hm n hn'.1).2.resolve_left (by simp [hn'.2])
    clear he he' hf
    generalize t.marked ms ds = l at hq
    revert hq
    generalize hu : t = u
    have : tm.quotaOf u.tid = tm.quotaOf t.tid := by rw [hu]
    clear h hm hu
    intro hq
    have key : ∀ (l : List Nat) (q : Nat) (u : Thread), (∀ n ∈ l, n < q) →
        l.foldl (fun (t : Thread) n => t.setCell n { t.cell n with dead := decide (n < q) || (t.cell n).dead, tag := 0, stored := false }) u
          = u.killed l := by
      intro l q
      induction l with
      | nil => intros; rfl
      | cons n l ih =>
        intro u hl
        simp only [List.foldl_cons, Thread.killed]
        rw [ih _ fun m hm => hl m (by simp [hm])]
        simp [hl n (by simp)]
    exact key l _ u hq

/-- An instruction retires (R344). -/
theorem retire_ready (h : Ready s id tm t) (i : Instr) (pf : Option Nat)
    (hm : ∀ n ∈ marksOf i pf, n < 64 ∧ (t.isK n = true ∨ n < tm.quotaOf t.tid)) :
    retire i pf s = .ok ((), s.passes id (unitLen i pf) (·.killed (t.marked (marksOf i pf) i.dstX))) := by
  simp only [retire]
  rw [Op.bind_ok (applyMarks_ready h hm)]
  simp [State.passes, h.cur_eq, State.updThread_updThread]

/-- A segment ender retires (R29). -/
theorem retireTo_ready (h : Ready s id tm t) (i : Instr) (pc : DWord)
    (hm : ∀ n ∈ marksOf i none, n < 64 ∧ (t.isK n = true ∨ n < tm.quotaOf t.tid)) :
    retireTo i pc s = .ok ((), s.jumps id pc (·.killed (t.marked (marksOf i none) []))) := by
  simp only [retireTo]
  rw [Op.bind_ok (applyMarks_ready h hm)]
  simp [State.jumps, h.cur_eq, State.updThread_updThread]

/-- No macro instruction of the thread stands half done (R224). -/
theorem Issuing.free {s : State} {id : ThreadId} {tm : Team} {t : Thread} (h : Issuing s id tm t) : (t.handler == .none && t.mstep.msb) = false := by
  have := h.mstep
  unfold Thread.progress at this
  split at this <;> simp_all

/-- What a guarded instruction answers, when the checks of its thread pass and its body succeeds (R379). -/
theorem runThread_ready (h : Ready s id tm t) {i : Instr} {body : Op Unit} {s' : State}
    (hl : lateDecode tm (s.gridOf tm).lrec.gridsync t i s.pfx = none) (hg : guardHolds t i = true) (hb : body s = .ok ((), s')) :
    runThread i body s = .next s' := by
  simp [runThread, h.cur, h.thread?_eq, h.curTeam_eq, hl, h.free, hg, hb]

/-- A guard that does not hold: the instruction only passes (R379). -/
theorem runThread_false (h : Ready s id tm t) {i : Instr} {body : Op Unit} {s' : State}
    (hl : lateDecode tm (s.gridOf tm).lrec.gridsync t i s.pfx = none) (hg : guardHolds t i = false)
    (hb : retire i s.pfx s = .ok ((), s')) : runThread i body s = .next s' := by
  simp [runThread, h.cur, h.thread?_eq, h.curTeam_eq, hl, h.free, hg, hb]

/-- What an instruction that stops answers. -/
theorem runThread_stop (h : Ready s id tm t) {i : Instr} {body : Op Unit} {r : Stop}
    (hl : lateDecode tm (s.gridOf tm).lrec.gridsync t i s.pfx = none) (hg : guardHolds t i = true) (hb : body s = .error r) :
    runThread i body s = .next ((s.stopped i r).onStop r) := by
  simp [runThread, h.cur, h.thread?_eq, h.curTeam_eq, hl, h.free, hg, hb]

/-- What a lane operation answers (R379): its results in its destinations, its flags in FSTAT, its marks applied. -/
theorem aluOp_ready (h : Ready s id tm t) {i : Instr} {outs : List Word} {fl : Nat}
    (hl : lateDecode tm (s.gridOf tm).lrec.gridsync t i s.pfx = none) (hg : guardHolds t i = true)
    (hs : ∀ n ∈ i.srcX, t.Reads (tm.quotaOf t.tid) n) (hd : ∀ n ∈ i.dstX, t.Writes (tm.quotaOf t.tid) n)
    (hk : recipeFor i s.pfx (ftzOf t.fmode) = none)
    (he : aluEval i s.pfx (ftzOf t.fmode) 0 tm.s (i.srcX.map t.reg) = some (outs, fl)) (hlen : i.dstX.length = outs.length)
    (hm : ∀ n ∈ marksOf i s.pfx, n < 64 ∧ (t.isK n = true ∨ n < tm.quotaOf t.tid)) :
    aluOp i s = .next (s.passes id (unitLen i s.pfx) fun u =>
      ((u.gets (i.dstX.zip outs)).raises fl).killed (t.marked (marksOf i s.pfx) i.dstX)) := by
  apply runThread_ready h hl hg
  simp only [aluBody, Op.get_bind]
  rw [Op.bind_ok (curFtz_ready h), Op.bind_ok (readList_ready h hs), h.curTeam_eq, he]
  simp only [hk]
  rw [Op.bind_ok (writeRegs_ready h hlen hd)]
  have h1 := h.gets (i.dstX.zip outs)
  have h2 := h1.upd (f := fun u => u.raises fl) rfl h1.plain rfl rfl h1.mstep
  have hst := gets_same (i.dstX.zip outs) t
  have hK : ((t.gets (i.dstX.zip outs)).raises fl).isK = t.isK := isK_congr hst.handler
  have ht : ((t.gets (i.dstX.zip outs)).raises fl).tid = t.tid := hst.tid
  rw [show setFlags fl = modThread (·.raises fl) from rfl, Op.modThread_bind, h1.cur_eq]
  rw [retire_ready h2 i s.pfx (by intro n hn; rw [hK, ht]; exact hm n hn)]
  simp only [State.passes, State.updThread_updThread, Thread.marked, hK]

end Registers

end Sys2Proof.Machine
end

