-- ==== Sys2Proof/Laws/Memory.lean ====
section
/-! SUPPORT. The laws of the cell list (06_memory.md R143, R144, R146 are what it holds): every operation keeps the canonical form, a write is read back, and
every other byte stays. -/
namespace Sys2Proof.Machine

/-- A key is above a bound, or there is none. -/
def Memory.above (lo : Option Nat) (k : Nat) : Bool := match lo with | none => true | some l => decide (l < k)

theorem Memory.wfAbove_cons (lo : Option Nat) (a : Nat) (b : Byte) (m : List Host.Cell) :
    Memory.wfAbove lo ((a, b) :: m) = (Memory.above lo a && b != unlistedByte && Memory.wfAbove (some a) m) := rfl

theorem Memory.wfAbove_mono {l k : Nat} (h : l ≤ k) : ∀ {m : List Host.Cell}, Memory.wfAbove (some k) m = true → Memory.wfAbove (some l) m = true
  | [], _ => rfl
  | (a, b) :: m, hw => by
    simp only [Memory.wfAbove_cons, Memory.above, Bool.and_eq_true, decide_eq_true_eq] at hw ⊢
    exact ⟨⟨by omega, hw.1.2⟩, hw.2⟩

theorem Memory.wfAbove_none {k : Nat} {m : List Host.Cell} (h : Memory.wfAbove (some k) m = true) : Memory.wfAbove none m = true := by
  cases m with
  | nil => rfl
  | cons c m =>
    obtain ⟨a, b⟩ := c
    simp only [Memory.wfAbove_cons, Memory.above, Bool.and_eq_true, Bool.true_and] at h ⊢
    exact ⟨h.1.2, h.2⟩

/-- No key below the bound of a canonical list is listed. -/
theorem Memory.get_below {l k : Nat} (h : k ≤ l) : ∀ {m : List Host.Cell}, Memory.wfAbove (some l) m = true → Memory.get m k = unlistedByte
  | [], _ => rfl
  | (a, b) :: m, hw => by
    simp only [Memory.wfAbove_cons, Memory.above, Bool.and_eq_true, decide_eq_true_eq] at hw
    simp only [Memory.get]
    rw [if_pos (by omega)]

theorem Memory.wfAbove_put (k : Nat) (v : Byte) : ∀ (m : List Host.Cell) (lo : Option Nat),
    Memory.wfAbove lo m = true → Memory.above lo k = true → Memory.wfAbove lo (Memory.put m k v) = true
  | [], lo, _, hk => by
    simp only [Memory.put]
    split
    · rfl
    · rename_i hv
      simp only [Memory.wfAbove_cons, Bool.and_eq_true]
      exact ⟨⟨hk, by simpa using hv⟩, rfl⟩
  | (a, b) :: m, lo, hw, hk => by
    simp only [Memory.wfAbove_cons, Bool.and_eq_true] at hw
    simp only [Memory.put]
    by_cases h1 : k < a
    · rw [if_pos h1]
      by_cases h2 : v = unlistedByte
      · rw [if_pos h2]; simp only [Memory.wfAbove_cons, Bool.and_eq_true]; exact hw
      · rw [if_neg h2]
        simp only [Memory.wfAbove_cons, Bool.and_eq_true]
        exact ⟨⟨hk, by simpa using h2⟩, ⟨by simpa [Memory.above] using h1, hw.1.2⟩, hw.2⟩
    rw [if_neg h1]
    by_cases h3 : k = a
    · rw [if_pos h3]
      by_cases h2 : v = unlistedByte
      · rw [if_pos h2]
        cases lo with
        | none => exact Memory.wfAbove_none hw.2
        | some l =>
          have : l < a := by simpa [Memory.above] using hw.1.1
          exact Memory.wfAbove_mono (by omega) hw.2
      · rw [if_neg h2]
        subst h3
        simp only [Memory.wfAbove_cons, Bool.and_eq_true]
        exact ⟨⟨hw.1.1, by simpa using h2⟩, hw.2⟩
    · rw [if_neg h3]
      simp only [Memory.wfAbove_cons, Bool.and_eq_true]
      exact ⟨hw.1, Memory.wfAbove_put k v m (some a) hw.2 (by simp only [Memory.above, decide_eq_true_eq]; omega)⟩

/-- A write of one byte keeps the canonical form. -/
theorem Memory.wf_put {m : List Host.Cell} (h : Memory.wf m = true) (k : Nat) (v : Byte) : Memory.wf (Memory.put m k v) = true :=
  Memory.wfAbove_put k v m none h rfl

/-- A write of bytes keeps the canonical form. -/
theorem Memory.wf_write : ∀ (bs : List Byte) {m : List Host.Cell} (k : Nat), Memory.wf m = true → Memory.wf (Memory.write m k bs) = true
  | [], _, _, h => h
  | b :: bs, _, k, h => Memory.wf_write bs (k + 1) (Memory.wf_put h k b)

theorem Memory.wfAbove_filter (p : Host.Cell → Bool) : ∀ (m : List Host.Cell) (lo : Option Nat),
    Memory.wfAbove lo m = true → Memory.wfAbove lo (m.filter p) = true
  | [], _, _ => rfl
  | (a, b) :: m, lo, hw => by
    simp only [Memory.wfAbove_cons, Bool.and_eq_true] at hw
    have ih := Memory.wfAbove_filter p m (some a) hw.2
    by_cases hp : p (a, b) = true
    · rw [List.filter_cons_of_pos hp]
      simp only [Memory.wfAbove_cons, Bool.and_eq_true]
      exact ⟨hw.1, ih⟩
    · rw [List.filter_cons_of_neg hp]
      cases lo with
      | none => exact Memory.wfAbove_none ih
      | some l =>
        have : l < a := by simpa [Memory.above] using hw.1.1
        exact Memory.wfAbove_mono (by omega) ih

/-- Clearing a range keeps the canonical form. -/
theorem Memory.wf_clear {m : List Host.Cell} (h : Memory.wf m = true) (k n : Nat) : Memory.wf (Memory.clear m k n) = true :=
  Memory.wfAbove_filter _ m none h

/-- The empty memory has the canonical form. -/
theorem Memory.wf_nil : Memory.wf [] = true := rfl

theorem Memory.get_put_above (k : Nat) (v : Byte) : ∀ (m : List Host.Cell) (lo : Option Nat), Memory.wfAbove lo m = true →
    ∀ a, Memory.get (Memory.put m k v) a = if a = k then v else Memory.get m a
  | [], _, _, a => by
    simp only [Memory.put]
    by_cases h1 : v = unlistedByte
    · rw [if_pos h1]
      by_cases h2 : a = k
      · rw [if_pos h2, h1]; rfl
      · rw [if_neg h2]
    · rw [if_neg h1]
      simp only [Memory.get]
      by_cases h2 : a = k
      · subst h2; simp
      · rw [if_neg h2]; split <;> rfl
  | (b, w) :: m, lo, hw, a => by
    simp only [Memory.wfAbove_cons, Bool.and_eq_true] at hw
    simp only [Memory.put]
    by_cases h1 : k < b
    · rw [if_pos h1]
      by_cases h2 : v = unlistedByte
      · rw [if_pos h2]
        by_cases h3 : a = k
        · subst h3; simp [Memory.get, h1, h2]
        · rw [if_neg h3]
      · rw [if_neg h2]
        by_cases h3 : a = k
        · subst h3; simp [Memory.get]
        · rw [if_neg h3]
          simp only [Memory.get]
          by_cases h4 : a < k
          · rw [if_pos h4, if_pos (by omega)]
          · rw [if_neg h4, if_neg h3]
    · rw [if_neg h1]
      by_cases h2 : k = b
      · rw [if_pos h2]; subst h2
        by_cases h3 : v = unlistedByte
        · rw [if_pos h3]
          by_cases h4 : a ≤ k
          · rw [Memory.get_below h4 hw.2]
            by_cases h5 : a = k
            · rw [if_pos h5, h3]
            · rw [if_neg h5]; simp only [Memory.get]; rw [if_pos (by omega)]
          · rw [if_neg (by omega)]
            simp only [Memory.get]; rw [if_neg (by omega), if_neg (by omega)]
        · rw [if_neg h3]
          simp only [Memory.get]
          by_cases h4 : a = k
          · rw [if_pos h4, if_neg (by omega), if_pos h4]
          · rw [if_neg h4, if_neg h4, if_neg h4]
      · rw [if_neg h2]
        simp only [Memory.get]
        by_cases h3 : a < b
        · rw [if_pos h3, if_pos h3, if_neg (by omega)]
        · by_cases h4 : a = b
          · rw [if_neg h3, if_pos h4, if_neg h3, if_pos h4, if_neg (by omega)]
          · rw [if_neg h3, if_neg h4, if_neg h3, if_neg h4]
            exact Memory.get_put_above k v m (some b) hw.2 a

/-- One byte written is read back, and every other byte stays. -/
theorem Memory.get_put {m : List Host.Cell} (h : Memory.wf m = true) (k a : Nat) (v : Byte) :
    Memory.get (Memory.put m k v) a = if a = k then v else Memory.get m a := Memory.get_put_above k v m none h a

/-- Every byte outside the written ones stays. -/
theorem Memory.get_write_outside : ∀ (bs : List Byte) {m : List Host.Cell} (k a : Nat), Memory.wf m = true → a < k ∨ k + bs.length ≤ a →
    Memory.get (Memory.write m k bs) a = Memory.get m a
  | [], _, _, _, _, _ => rfl
  | b :: bs, m, k, a, hm, h => by
    simp only [List.length_cons] at h
    simp only [Memory.write]
    rw [Memory.get_write_outside bs (k + 1) a (Memory.wf_put hm k b) (by omega), Memory.get_put hm, if_neg (by omega)]

/-- Every byte written is read back. -/
theorem Memory.get_write_inside : ∀ (bs : List Byte) {m : List Host.Cell} (k i : Nat), Memory.wf m = true → (h : i < bs.length) →
    Memory.get (Memory.write m k bs) (k + i) = bs[i]
  | b :: bs, m, k, 0, hm, _ => by
    simp only [Memory.write]
    rw [show k + 0 = k from rfl, Memory.get_write_outside bs (k + 1) k (Memory.wf_put hm k b) (by omega), Memory.get_put hm, if_pos rfl]
    rfl
  | b :: bs, m, k, i + 1, hm, h => by
    simp only [List.length_cons] at h
    simp only [Memory.write]
    have := Memory.get_write_inside bs (k + 1) i (Memory.wf_put hm k b) (by omega)
    rw [show k + (i + 1) = k + 1 + i from by omega, this]
    rfl

/-- The bytes written at a key read back as they were written. -/
theorem Memory.read_write {m : List Host.Cell} (hm : Memory.wf m = true) (k : Nat) (bs : List Byte) :
    Memory.read (Memory.write m k bs) k bs.length = bs := by
  apply List.ext_getElem
  · simp [Memory.read]
  · intro i h1 h2
    simp only [Memory.read, List.getElem_map, List.getElem_range]
    exact Memory.get_write_inside bs k i hm h2

/-- Bytes read elsewhere stay as they were. -/
theorem Memory.read_write_other {m : List Host.Cell} (hm : Memory.wf m = true) (k a n : Nat) (bs : List Byte) (h : a + n ≤ k ∨ k + bs.length ≤ a) :
    Memory.read (Memory.write m k bs) a n = Memory.read m a n := by
  simp only [Memory.read]
  apply List.map_congr_left
  intro i hi
  rw [List.mem_range] at hi
  exact Memory.get_write_outside bs k (a + i) hm (by omega)

end Sys2Proof.Machine
end

