-- ==== Sys2Proof/Tests/Slice0.lean ====
section
/-! SUPPORT. The model's own tests: ill-formed instructions refused, words of every instruction decoded, one step of each kind computed by hand from the
manual, and a witness for the hypotheses of every statement. -/
namespace Sys2Proof.Tests
-- the tests are checked one after another, so that few of them stand in memory at once
set_option Elab.async false
open Sys2Proof Sys2Proof.Machine

-- well-formedness: one ill-formed term for each check

/-- R337 to R341, R365 to R370, R376, R377, R403, R468: field limits. -/
theorem test_wf_refuses_lane : [
  .ld16 false 3 0, .st16 false 5 0, .addc 0 1 2 4 false false, .addc 0 0 3 4 false false, .addc 0 0 2 5 false false, .subb 0 1 2 4 false false,
  .subb 0 0 3 4 false false, .subb 0 0 2 5 false false, .madw 0 1 2 3 4 false false, .madw 0 0 2 3 5 false false, .div 0 1 2 3 false false,
  .lea 0 1 2 3 0 false false, .lea 0 0 3 4 0 false false, .movs 0 1 16 true, .smov 0 15 0 false, .fsfu 0 1 2 11 false false,
  .fcvt 0 0 2 0x16 0 false false, .fcvt 0 1 2 4 0 false false, .fcvt 0 0 3 5 0 false false, .fcvt 0 0 2 3 1 false false,
  .vote 0 8 1 false 0, .vote 0 3 1 false 2, .matchAny 0 1 2 false, .matchAll 0 1 2 3 false, .gred 0 1 2 11 false, .gscan 0 1 2 11 false false,
  .bfly 0 1 2 3 false, .bfly 0 1 2 0 false, .dotp4 0 0 5 8 false, .dotp4 0 0 4 9 false, .dotp4 0 5 4 8 false, .dotp4 0 9 4 8 false].all
    (fun i : Instr => !i.wf) = true := by decide +kernel

/-- R340, R198, R199, R193, R365, R216, R221, R107 and the entries of the reference. -/
theorem test_wf_refuses_rest : [
  .ld 0 5 0 0 0 1, .ld 0 6 0 0 0 2, .ld 0 4 0 7 0 0, .st 0 5 0 0 0 1, .st 0 6 0 0 0 2, .st 0 4 0 7 0 0, .atom 0 17 false 0 0, .atom 0 12 true 0 0,
  .atom 0 0 true 0 1, .atom 0 9 false 0 1, .atom 0 9 true 0 2, .red 0 8 false 0 0, .red 0 9 false 0 0, .fence 0 false 0 11, .pfetch 0 0 7 0, .cflush 0 0 7 0,
  .cinv 0 0 7 0, .cwb 0 0 7 0, .ldc 0 16 1 0, .ldc 0 15 0 0, .ldc 0 17 0 1, .ldc 0 18 0 2, .ldc 0 16 0 3, .cpy 0 0 0 0 0 16, .wtag 0 1 false false,
  .ftag 0 1 0 false, .ftag 0 0 1 false, .tagclr 0 1 false, .tlwait 0 1 2 false, .tlwait 0 0 3 false, .tlread 0 2 0 false, .tlread 0 0 1 false, .tlnote 0 1,
  .mma 0 0 0 false false false 4 8, .mma 0 0 0 false true false 31 8, .mma 0 0 0 false false true 0 32, .mzero 0 0 2, .mld 0 0 0 0 1 false, .mld 0 0 1 3 0 false,
  .mld 0 0 1 0 0 true, .mld 0 0 2 1 0 false, .mld 0 0 3 0 0 false, .mdrain 0 0 0 0 1 false, .mdrain 0 0 1 3 0 false, .mdrain 0 0 2 1 0 false, .mdrain 0 0 3 0 1 false,
  .mdrain 0 0 5 0 0 false, .mtile 0 1, .lock 0 1 false, .unlock 0 1 false, .phreg 0 0 0 0 false, .phreg 0 0 0 4 false, .trace 0 1 0 false, .trace 0 0 1 false,
  .traceWait 0 0 1 0 false, .traceWait 0 0 0 1 false, .rayld 0 0 1 0 false, .rayld 0 2 0 0 false, .hitrpt 0 1 0 false, .tex 0 2 0 0 false, .tex 0 0 2 0 false,
  .tex 0 0 0 1 false, .texn 0 2 0 0 false, .texn 0 0 2 0 false, .texn 0 0 0 1 false, .pxout 0 0 0 false, .pxout 0 60 5 false, .ipa 0 0 3 0, .ipa 0 0 0 16,
  .emit 0 1 0 false, .srd 0 0 0x22, .srd 0 1 0x41, .swr 0 0 0x00, .swr 0 1 0x41, .tstamp 0 1, .nextx 1, .callx 1, .launch 0 0 1, .setpri 0 8, .rmat 0 1, .rdrop 0 1,
  .callk 0 1].all (fun i : Instr => !i.wf) = true := by decide +kernel

/-- R99: K beside an L mark is KLAST, K on a destination that is a source KSELF; R364: the word of an ill-formed term is refused. -/
theorem test_wf_recipe : (Instr.add 0 1 2 3 true true).wfCode = some 6 ∧ (Instr.add 0 2 2 3 false true).wfCode = some 5 ∧
    (Instr.bfi 0 1 2 3 false true).wfCode = some 5 ∧ (Instr.add 0 1 2 3 false true).wf = true := by decide +kernel

/-- R336, R347, R348, R364: an odd register of a pair, a reserved SIZE register, a payload that its instruction does not take. -/
theorem test_decode_refuses : (decode 0x0C1C).isOk = false ∧ (decode 0x00004005).isOk = true ∧ (decode 0x00005005).isOk = false ∧
    pfxCode 0 (.add 0 1 2 3 false false) = some 0 ∧ pfxCode (11 * 2 ^ 18) (.ld 0 4 0 0 0 0) = some 0 ∧ pfxCode (2 ^ 23 + 2 ^ 21) (.fmin 0 1 2 3 false false false) = some 0 ∧
    pfxCode (2 ^ 24 + 11 * 2 ^ 15) (.tlnote 0 0) = some 0 ∧ pfxCode (3 * 2 ^ 23 + 2 ^ 18) (.mma 0 0 0 false false false 0 8) = some 0x19 := by decide +kernel

-- decoding: words written from the fields of the opcode table

/-- Each word decodes to the instruction beside it, and that encodes to the word. -/
def wordsStand (ws : List (Nat × Instr)) : Bool :=
  ws.all fun (w, i) => (match decode w with | .ok j => decide (j = i) | .error _ => false) && encode i == some w

/-- One word of each of the 16-bit forms (R336, R337). -/
theorem test_decode_short_forms : wordsStand [
  (0xA280, .add16 true 8 20),
  (0xA282, .sub16 true 8 20),
  (0xA284, .mul16 true 8 20),
  (0xA286, .and16 true 8 20),
  (0xA288, .or16 true 8 20),
  (0xA28A, .xor16 true 8 20),
  (0x768C, .shl16 29 20),
  (0x7A8E, .shrN16 30 20),
  (0xA290, .mov16 true 8 20),
  (0x4692, .ldi16 17 20),
  (0x7E94, .addi16 31 20),
  (0xA296, .fadd16 true 8 20),
  (0xA298, .fsub16 true 8 20),
  (0xA29A, .fmul16 true 8 20),
  (0xA29C, .ld16 true 8 20),
  (0xA29E, .st16 true 8 20)] = true := by decide +kernel

/-- One word of each of formats H and P (R339, R342, R347). -/
theorem test_decode_clause_and_prefix : wordsStand [
  (0x9CB52981, .clause 19 9 6 2643),
  (0xAAD51983, .pfx 22391347)] = true := by decide +kernel

/-- One word of each of integer words (R339, R381 to R449). -/
theorem test_decode_integer_a : wordsStand [
  (0x62830A85, .add 5 12 40 24 true false),
  (0x62831685, .addc 5 12 40 24 false true),
  (0x62832A85, .sub 5 12 40 24 true false),
  (0x62833685, .subb 5 12 40 24 false true),
  (0xD2D06687, .addImm 5 12 40 421 true),
  (0x62830689, .mul 5 12 40 24 false true),
  (0x62831A89, .mulhSS 5 12 40 24 true false),
  (0x62832689, .mulhNN 5 12 40 24 false true),
  (0x62833A89, .mulhSN 5 12 40 24 true false),
  (0x38CAA68B, .mad 5 20 10 6 14 false true),
  (0xB8CAA28D, .madw 5 20 10 6 14 true false),
  (0x62831A8F, .div 5 12 40 24 true true),
  (0x62830A91, .and 5 12 40 24 true false),
  (0x62831691, .or 5 12 40 24 false true),
  (0x62832A91, .xor 5 12 40 24 true false),
  (0x62833691, .andn 5 12 40 24 false true)] = true := by decide +kernel

/-- One word of each of integer words (R339, R381 to R449). -/
theorem test_decode_integer_b : wordsStand [
  (0x62830A93, .shl 5 12 40 24 true false),
  (0x62831693, .shrN 5 12 40 24 false true),
  (0x62832A93, .shrS 5 12 40 24 true false),
  (0x62833693, .rot 5 12 40 24 false true),
  (0xB8CAA295, .shf 5 20 10 6 14 true false),
  (0x62831697, .imin 5 12 40 24 true false true),
  (0x62833A97, .imax 5 12 40 24 true true false),
  (0x2830699, .popc 5 12 40 false true),
  (0x2831A99, .clz 5 12 40 true false),
  (0x2832699, .brev 5 12 40 false true),
  (0x2833A99, .iabs 5 12 40 true false),
  (0x6283169B, .bfe 5 12 40 24 true false true),
  (0x62832A9B, .bfi 5 12 40 24 true false),
  (0x6283229D, .lea 5 12 40 24 2 false false)] = true := by decide +kernel

/-- One word of each of comparisons, predicates, moves and constants (R339, R366, R402, R425, R434, R443, R447). -/
theorem test_decode_compare_and_move : wordsStand [
  (0x628CEA9F, .icmp 5 3 40 24 6 2 true),
  (0x62875AA1, .fcmp 5 5 40 24 3 1 true),
  (0x460A2A3, .plop 5 2 6 1 2),
  (0x28306A5, .mov 5 12 40 false true),
  (0xA316A5, .movs 5 12 10 true),
  (0x2852AA5, .smov 5 20 40 true),
  (0x332A5, .movpToReg 5 12),
  (0x6803AA5, .movpToPreds 5 40 true),
  (0x628309A7, .sel 3 12 40 24 true false),
  (0xBEEF32A9, .ldi 5 12 48879),
  (0xCAFE32AB, .ldhi 5 12 51966)] = true := by decide +kernel

/-- One word of each of float words (R367, R368, R400 to R409). -/
theorem test_decode_float : wordsStand [
  (0x628306AD, .fadd 5 12 40 24 false true),
  (0x62831AAD, .fsub 5 12 40 24 true false),
  (0x628326AD, .fmul 5 12 40 24 false true),
  (0xB8CAA2AF, .ffma 5 20 10 6 14 true false),
  (0x628326B1, .fmin 5 12 40 24 true false true),
  (0x62833AB1, .fmax 5 12 40 24 true true false),
  (0x268306B3, .fsfu 5 12 40 9 false true),
  (0x32833AB5, .fcvt 5 12 40 12 3 true false),
  (0x28326B7, .frnd 5 12 40 2 false true),
  (0x62831AB9, .fadd2 5 12 40 24 true true false),
  (0x628336B9, .fmul2 5 12 40 24 true false true),
  (0xB8CAA2BB, .ffma2H 5 20 10 6 14 true false),
  (0x38CAA6BD, .ffma2B 5 20 10 6 14 false true),
  (0xB8CAA2BF, .fdot 5 20 10 6 14 true false),
  (0x38CAA6C1, .idot 5 20 10 6 14 false true)] = true := by decide +kernel

/-- One word of each of collectives and macro operations (R369, R376, R377, R395, R414, R429, R451, R468). -/
theorem test_decode_collective : wordsStand [
  (0x62832AC3, .shfl 5 12 40 24 2 true),
  (0x46B72C5, .vote 5 45 6 true 3),
  (0x2830AC7, .matchAny 5 12 40 true),
  (0x6831AC7, .matchAll 5 12 40 1 true),
  (0x1E830AC9, .gred 5 12 40 7 true),
  (0x2A831ACB, .gscan 5 12 40 10 true true),
  (0x2832ACD, .ddx 5 12 40 true true),
  (0x2833ACD, .ddy 5 12 40 true true),
  (0x42830ACF, .bfly 5 12 40 16 true),
  (0x62830AD1, .dotp4 5 12 40 24 true)] = true := by decide +kernel

/-- One word of each of formats M, A and F, and LDC (R339, R340, R199, R365). -/
theorem test_decode_memory : wordsStand [
  (0xD4A652D3, .ld 5 6 2 37 6 20),
  (0xBCA652D5, .st 5 5 3 37 6 20),
  (0x5C0652D7, .atom 5 11 true 6 20),
  (0x140652D9, .red 5 2 true 6 20),
  (0x1AADB, .fence 5 true 2 10),
  (0xCA602DD, .pfetch 5 1 37 6),
  (0x34A602DD, .cflush 5 2 37 6),
  (0x5CA602DD, .cinv 5 3 37 6),
  (0x6CA602DD, .cwb 5 1 37 6),
  (0xA522DF, .ldc 5 20 10 2)] = true := by decide +kernel

/-- One word of each of format C, tags, timelines and the matrix engine (R339, R208, R216, R410, R430, R462). -/
theorem test_decode_engine : wordsStand [
  (0xB6D69EE1, .cpy 5 11 13 2 45 7),
  (0x2801AE3, .wtag 5 40 true true),
  (0x2832AE3, .ftag 5 12 40 true),
  (0x2803AE3, .tagclr 5 40 true),
  (0x62800AE5, .tlwait 5 40 24 true),
  (0x2831AE5, .tlread 5 12 40 true),
  (0x322E5, .tlnote 5 12),
  (0x28342E7, .cvset 5 13 40),
  (0x5A8B6EE9, .mma 5 5 11 true false true 40 22),
  (0x382EB, .mzero 5 6 1),
  (0x6284DAEB, .mld 5 3 2 40 24 true),
  (0x6289EAEB, .mdrain 5 7 4 40 24 true),
  (0xA002ED, .mtile 5 10)] = true := by decide +kernel

/-- One word of each of barriers, locks and phasers (R230, R232, R229, R412). -/
theorem test_decode_synchronisation : wordsStand [
  (0x2EF, .bar 5),
  (0x12EF, .gbar 5),
  (0x2802AEF, .lock 5 40 true),
  (0x2803AEF, .unlock 5 40 true),
  (0xA830AF1, .phreg 5 12 40 2 true),
  (0x2831AF1, .phsig 5 12 40 true),
  (0x62802AF1, .phwait 5 40 24 true),
  (0x2803AF1, .phdrop 5 40 true)] = true := by decide +kernel

/-- One word of each of rays, textures, pixels and EMIT (R248, R249, R256, R459, R460, R268, R269, R398). -/
theorem test_decode_rays_and_pixels : wordsStand [
  (0x5A800AF3, .trace 5 40 22 true),
  (0x5A831AF3, .traceWait 5 12 40 22 true),
  (0xA830AF5, .rayld 5 12 40 2 true),
  (0x62801AF5, .hitrpt 5 40 24 true),
  (0x5A830AF7, .tex 5 12 40 22 true),
  (0x5A831AF7, .texn 5 12 40 22 true),
  (0x8C0302F9, .pxld 5 12 35),
  (0xB2801AF9, .pxst 5 44 40 true),
  (0x52802AF9, .pxout 5 40 20 true),
  (0x22F9, .pxoutDiscard 5),
  (0x342332F9, .ipa 5 12 2 13),
  (0x62800AFB, .emit 5 40 24 true)] = true := by decide +kernel

/-- One word of each of formats J and S (R339, R341, R437, R390, R453). -/
theorem test_decode_control_a : wordsStand [
  (0x7FFFF07D, .next 524287),
  (0x800015FD, .nextp 524289 3),
  (0xABCDE9FD, .nextpN 703710 3),
  (0x12345C7D, .call 74565),
  (0x2FF, .nop 5),
  (0x47F, .bkpt),
  (0x90000AFF, .trap 5 9),
  (0xC7F, .tret),
  (0x104C12FF, .srd 5 12 65),
  (0x104C16FF, .swr 5 12 65),
  (0xC1AFF, .tstamp 5 12),
  (0xA001EFF, .sleep 5 40),
  (0x207F, .yield),
  (0xD000247F, .exit 13),
  (0x287F, .ret),
  (0xA002C7F, .nextx 40)] = true := by decide +kernel

/-- One word of each of formats J and S (R339, R341, R437, R390, R453). -/
theorem test_decode_control_b : wordsStand [
  (0xA00307F, .callx 40),
  (0xA0C36FF, .launch 5 12 40),
  (0x3AFF, .joinc 5),
  (0x273C7F, .quota 39),
  (0x600042FF, .setpri 5 6),
  (0xA0046FF, .rmat 5 40),
  (0xA004AFF, .rdrop 5 40),
  (0xA0C4C7F, .callk 12 40)] = true := by decide +kernel

-- witnesses: a concrete state and operands that meet the hypotheses of each statement

/-- A result that is no error, and of which `p` holds. -/
def okAnd {ε α : Type} (e : Except ε α) (p : α → Bool) : Bool := match e with | .ok a => p a | .error _ => false
theorem of_okAnd {ε α : Type} {e : Except ε α} {p : α → Bool} (h : okAnd e p = true) : ∃ a, e = .ok a ∧ p a = true := by
  cases e with
  | error _ => cases h
  | ok a => exact ⟨a, rfl, h⟩
theorem of_ok {ε α σ : Type} {e : Except ε (α × σ)} (h : okAnd e (fun _ => true) = true) : ∃ a s, e = .ok (a, s) := by
  obtain ⟨⟨a, s⟩, h, -⟩ := of_okAnd h
  exact ⟨a, s, h⟩

/-- A data page of context 1, outside the window whatever the base, at physical 0x20000 of P. -/
def dataVa : Nat := 0xFF00000000020000
def dataLeaf : TlbEntry := { ctx := 1, page := dataVa / 8192, level := 0, d0 := 0x200CF, d1 := 0 }
/-- A thread that issues in an open clause; every register is live, x2:x3 the data page's address, every other 0. -/
def thr : Thread :=
  { tid := 0, pc := 0x10000, status := .bundled, clause := some { left := none, fresh := false }
    x := ((Vector.replicate 64 { dead := false }).set 2 { val := 0x20000, dead := false }).set 3 { val := 0xFF000000, dead := false } }
/-- Its team of team 1 on core 0 of P; s0:s1 are the data page's address. -/
def mk (ts : List Thread) : Team :=
  { uid := 1, die := 0, ctx := 1, core := 0, grid := 2, num := 0, declared := 64, threads := ts, gangs := [{ quota := 64 }], quota0 := 64, recipeMax := 31
    version := 1, s := ((Vector.replicate 32 0).set 0 0x20000).set 1 0xFF000000 }
/-- The machine in which thread 0 of a team issues. -/
def on (tm : Team) : State :=
  { State.reset with
    ctxs := [placedCtx], grids := [{ placedGrid 2 with lrec := { (placedGrid 2).lrec with quads := false } }], teams := [tm], nextId := 4
    cores := [{ die := 0, num := 0, tlb := [placedLeaf, dataLeaf] }]
    issue := some { die := 0, core := 0, quarter := 0, pc := 0x10000, todo := [(1, 0)], num := 3 } }

theorem ready {s : State} {tm : Team} {t : Thread} {rest : List Thread} (hc : s.cur? = some (1, 0)) (hT : s.teams = [tm]) (hu : tm.uid = 1)
    (ht : tm.threads = t :: rest) (h0 : t.tid = 0) (hf : t.fmode = tm.fmode) (hm : t.mfmt = tm.mfmt) (hs : t.progress.msb = false) (hp : t.Plain) :
    Ready s (1, 0) tm t :=
  { cur := hc, team := by simp [State.team?, hT, hu], thread := by simp [ht], tid := h0, fmode := hf, mfmt := hm, mstep := hs, plain := hp }
theorem ready_thr : Ready (on (mk [thr])) (1, 0) (mk [thr]) thr := ready rfl rfl rfl rfl rfl rfl rfl rfl (by unfold Thread.Plain; decide +kernel)
theorem thr_reads {n : Nat} (h : n < 64) : thr.Reads 64 n := by
  have : ∀ k < 64, thr.Reads 64 k := by simp only [Thread.Reads]; decide +kernel
  exact this n h
theorem thr_writes {n : Nat} (h : n < 64) : thr.Writes 64 n := by
  have : ∀ k < 64, thr.Writes 64 k := by simp only [Thread.Writes]; decide +kernel
  exact this n h
theorem thr_runs {r : LaneRow} (hs : (r.srcs ++ r.dsts).all (· < 64) = true) (hg : thr.pred r.guard = true) : r.Runs (on (mk [thr])) (mk [thr]) thr := by
  simp only [List.all_append, Bool.and_eq_true, List.all_eq_true, decide_eq_true_eq] at hs
  exact ⟨fun _ => rfl, fun n h => thr_reads (hs.1 n h), fun n h => thr_writes (hs.2 n h), hg⟩

theorem witness_IntegerOperationsCompute : Ready (on (mk [thr])) (1, 0) (mk [thr]) thr ∧
    (∃ r, shortRow (.add16 true 31 30) = some r ∧ r.k = false ∧ r.Runs (on (mk [thr])) (mk [thr]) thr) ∧
    (∃ r, arithRow (.madw 0 30 1 2 4 true false) = some r ∧ r.k = false ∧ r.Runs (on (mk [thr])) (mk [thr]) thr) ∧
    (∃ r, bitRow (.bfi 0 63 62 61 true false) = some r ∧ r.k = false ∧ r.Runs (on (mk [thr])) (mk [thr]) thr) ∧
    (∃ r, moveRow (.mov 0 63 63 true false) = some r ∧ r.k = false ∧ r.Runs (on (mk [thr])) (mk [thr]) thr) :=
  ⟨ready_thr, ⟨_, rfl, rfl, thr_runs (by decide) rfl⟩, ⟨_, rfl, rfl, thr_runs (by decide) rfl⟩, ⟨_, rfl, rfl, thr_runs (by decide) rfl⟩,
    ⟨_, rfl, rfl, thr_runs (by decide) rfl⟩⟩

theorem witness_FloatOperationsCompute : Ready (on (mk [thr])) (1, 0) (mk [thr]) thr ∧
    (∃ r, floatRow (.ffma2H 0 1 2 3 4 true false) = some r ∧ r.k = false ∧ r.Runs (on (mk [thr])) (mk [thr]) thr) :=
  ⟨ready_thr, ⟨_, rfl, rfl, thr_runs (by decide) rfl⟩⟩

/-- Every recipe index is free: index 1 is taken; without entries none is, with backing and without. -/
theorem witness_RecipesAreKept : Ready (on (mk [thr])) (1, 0) (mk [thr]) thr ∧ (on (mk [thr])).pfx = none ∧
    (∀ i ∈ [Instr.add 0 1 4 5 false true, .fdot 0 1 4 5 6 false true, .idot 0 1 4 5 6 false true, .fcvt 0 1 4 4 0 false true], ∃ r w,
      (laneRow i <|> convRow none i) = some r ∧ r.k = true ∧ r.marks = [] ∧ encode i = some w ∧ thr.pred r.guard = true ∧
      (∀ n ∈ r.srcs, thr.Reads 64 n) ∧ (∀ n ∈ r.dsts, n < 64 ∧ thr.pending n = false ∧ thr.isK n = false) ∧
      recordable (mk [thr]) thr r.dsts { word := w, payload := none, ftz := false } = some 1 ∧
      recordable { mk [thr] with recipeMax := 0 } thr r.dsts { word := w, payload := none, ftz := false } = none ∧ (∀ n ∈ r.dsts, n < 64)) ∧
    (∃ r, laneRow (.add 0 33 4 5 false true) = some r ∧ ({ mk [thr] with gangs := [{ quota := 32 }] } : Team).quotaOf 0 = 32 ∧
      r.dsts.find? (fun n => decide (32 ≤ n)) = some 33) ∧
    (∃ w, encode (.movs 0 7 1 true) = some w ∧ recordable (mk [thr]) thr [7] { word := w, payload := none, ftz := false } = some 1 ∧
      (thr.infl.all fun f => f.sdsts.all (·.1 != 1)) = true) ∧
    (∃ w, encode (.mov 0 7 5 false true) = some w ∧ (5 : XReg) = (if thr.pred 1 then 4 else 5) ∧ recordable (mk [thr]) thr [7] { word := w, payload := none, ftz := false } = some 1) ∧
    (∃ w, encode (.ldi 0 7 5) = some w ∧ recordable (mk [thr]) thr [7] { word := w, payload := none, ftz := false } = some 1) ∧
    (∃ w, encode (.ldhi 0 7 5) = some w ∧ recordable { mk [thr] with recipeMax := 0 } thr [7] { word := w, payload := none, ftz := false } = none) := by
  refine ⟨ready_thr, rfl, fun i hi => ?_, ⟨_, rfl, by decide +kernel, by decide⟩, ⟨_, rfl, by decide +kernel, rfl⟩, ⟨_, rfl, by decide, by decide +kernel⟩,
    ⟨_, rfl, by decide +kernel⟩, ⟨_, rfl, by decide +kernel⟩⟩
  simp only [List.mem_cons, List.not_mem_nil, or_false] at hi
  rcases hi with rfl | rfl | rfl | rfl <;>
    exact ⟨_, _, rfl, rfl, rfl, rfl, rfl, fun n h => thr_reads (by revert n; decide), by decide +kernel, by decide +kernel, by decide +kernel, by decide⟩

/-- A helper; its guard p0 is true. -/
def helper : Thread := { thr with quad := .helper }
theorem ready_helper : Ready (on (mk [helper])) (1, 0) (mk [helper]) helper := ready rfl rfl rfl rfl rfl rfl rfl rfl (by unfold Thread.Plain; decide +kernel)
theorem witness_FalseGuardOnlyPasses :
    (Ready (on (mk [thr])) (1, 0) (mk [thr]) thr ∧ Instr.guard? (.add 1 2 3 4 true false) = some 1 ∧ arrives (.add 1 2 3 4 true false) = false ∧ thr.pred 1 = false ∧
      lateDecode (mk [thr]) true thr (.add 1 2 3 4 true false) none = none ∧ ∀ n ∈ marksOf (.add 1 2 3 4 true false) none, n < 64 ∧ n < (mk [thr]).quotaOf 0) ∧
    (Ready (on (mk [helper])) (1, 0) (mk [helper]) helper ∧ Instr.guard? (.st 0 4 0 0 1 4) = some 0 ∧ arrives (.st 0 4 0 0 1 4) = false ∧ helper.quad = .helper ∧
      helperFalse (.st 0 4 0 0 1 4) = true ∧ lateDecode (mk [helper]) true helper (.st 0 4 0 0 1 4) none = none ∧ marksOf (.st 0 4 0 0 1 4) none = []) :=
  ⟨⟨ready_thr, by decide +kernel⟩, ready_helper, by decide +kernel⟩

/-- x5 is dead. -/
def dead5 : Thread := { thr with x := thr.x.set 5 { dead := true } }
theorem witness_UnreadableOperandsStop :
    (Ready (on (mk [dead5])) (1, 0) (mk [dead5]) dead5 ∧ dead5.Reads 64 4 ∧ dead5.isK 5 = false ∧ dead5.pending 5 = false ∧ (dead5.cell 5).dead = true ∧
      ∃ r, laneRow (.add 0 1 4 5 false false) = some r ∧ r.k = false ∧ dead5.pred r.guard = true ∧ r.srcs = [4] ++ 5 :: []) ∧
    (let tm := { mk [thr] with gangs := [{ quota := 32 }] }
     Ready (on tm) (1, 0) tm thr ∧ tm.quotaOf 0 ≤ 32 ∧ ∃ r, laneRow (.mov 0 1 32 false false) = some r ∧ r.k = false ∧ thr.pred r.guard = true ∧ r.srcs = [] ++ 32 :: []) ∧
    (∀ op ∈ [none, some 3], let t : Thread := { thr with infl := [{ isWrite := false, flag := none, dsts := [(5, 1)], op := op }] }
     Ready (on (mk [t])) (1, 0) (mk [t]) t ∧ t.pending 5 = true ∧ t.isK 5 = false ∧ t.Reads 64 4) :=
  ⟨⟨ready rfl rfl rfl rfl rfl rfl rfl rfl (by unfold Thread.Plain; decide +kernel), by unfold Thread.Reads; decide +kernel, by decide, by decide, by decide +kernel,
    _, rfl, rfl, rfl, rfl⟩, ⟨ready rfl rfl rfl rfl rfl rfl rfl rfl (by unfold Thread.Plain; decide +kernel), by decide +kernel, _, rfl, rfl, rfl, rfl⟩,
    fun op h => by
      have hs : ∀ op ∈ [none, some 3], let t : Thread := { thr with infl := [{ isWrite := false, flag := none, dsts := [(5, 1)], op := op }] }
        ((t.x.toList.all fun x => x.tag == 0) = true) ∧ t.progress.msb = false ∧ t.pending 5 = true ∧ t.isK 5 = false ∧
        (4 < 64 ∧ t.pending (t.home 4) = false ∧ (t.isK 4 = true ∨ (4 < 64 ∧ (t.cell 4).dead = false))) := by decide +kernel
      exact ⟨ready rfl rfl rfl rfl rfl rfl rfl (hs op h).2.1 (hs op h).1, (hs op h).2.2.1, (hs op h).2.2.2.1, (hs op h).2.2.2.2⟩⟩

theorem witness_ComparisonsSetPredicates : Ready (on (mk [thr])) (1, 0) (mk [thr]) thr ∧ (on (mk [thr])).pfx = none ∧ thr.pred 0 = true ∧ thr.Reads 64 2 ∧ thr.Reads 64 3 ∧
    (true = true ↔ wordCond 3 (thr.reg 2) (thr.reg 3)) := by
  refine ⟨ready_thr, rfl, rfl, thr_reads (by decide), thr_reads (by decide), ?_⟩
  simp only [wordCond]; decide +kernel

theorem witness_PredicatesAndMoves : Ready (on (mk [thr])) (1, 0) (mk [thr]) thr ∧ (on (mk [thr])).pfx = none ∧ thr.pred 0 = true ∧ thr.Reads 64 63 ∧ thr.Writes 64 63 ∧
    ((1 : Word).toNat < 256 ∧ ∀ i : Fin 8, (1 : Word).getLsbD i.val = thr.pred i.val) ∧ (thr.infl.all fun f => f.sdsts.all (·.1 != 16)) = true ∧
    (∀ i, (on (mk [thr])).issue = some i → ∀ o ∈ i.done, o.1 = 1 → o.2 ≤ 0) ∧ (63 : XReg) = (if thr.pred 0 then 63 else 62) :=
  ⟨ready_thr, rfl, rfl, thr_reads (by decide), thr_writes (by decide), by decide +kernel, rfl, by intro i h; cases h; simp, rfl⟩

theorem witness_ConversionsAndDotProducts : Ready (on (mk [thr])) (1, 0) (mk [thr]) thr ∧
    ∀ i ∈ [Instr.fcvt 0 1 2 5 0 true false, .fcvt 0 62 4 10 0 false false, .fdot 0 1 2 3 4 true false, .idot 0 1 2 3 4 true false],
      ∃ r, convRow (on (mk [thr])).pfx i = some r ∧ r.k = false ∧ r.Runs (on (mk [thr])) (mk [thr]) thr := by
  refine ⟨ready_thr, fun i hi => ?_⟩
  simp only [List.mem_cons, List.not_mem_nil, or_false] at hi
  rcases hi with rfl | rfl | rfl | rfl <;> exact ⟨_, rfl, rfl, thr_runs (by decide) rfl⟩

theorem witness_DecodeInvertsEncode : ∃ w, encode (.mma 7 7 15 true false true 56 30) = some w ∧ (Instr.mma 7 7 15 true false true 56 30).wf = true ∧
    w < 2 ^ (8 * unitBytes w) := ⟨_, rfl, by decide +kernel, by decide +kernel⟩

/-- A NOP, a 16-bit form, and a PFX with the LD after it, where the machine fetches next. -/
theorem witness_FetchReadsUnit :
    okAnd (fetchHalf 0x10000 (State.reset.placed 0x0420)) (fun r => r.1 == 0x0420) = true ∧
    okAnd (fetchHalf 0x10000 (State.reset.placed 0x0000007F)) (fun r => r.1 == 0x7F && okAnd (fetchHalf 0x10002 r.2) (fun q => q.1 == 0)) = true ∧
    okAnd (fetchHalf 0x10000 (State.reset.placed (3 + 2 ^ 32 * 0x80010053))) (fun r => r.1 == 3 && okAnd (fetchHalf 0x10002 r.2) fun q =>
      q.1 == 0 && okAnd (fetchWord 0x10004 q.2) fun u => u.1 == 0x80010053) = true ∧ (State.reset.placed 3).curThread.pc = 0x10000 := by
  decide +kernel

/-- A NOP where the machine fetches next, and the state its fetch leaves. -/
def nopState : State := State.reset.placed 0x7F
def nopBegun : State := { nopState.tick with issue := nopState.issue.map fun i => { i with pfx := none } }
def nopFetched : State := match fetchUnit nopBegun with | .ok r => r.2 | .error _ => nopBegun
theorem nop_fetches : fetchUnit nopBegun = .ok ((0x7F, none), nopFetched) := by
  obtain ⟨⟨⟨w, n⟩, s⟩, h, hp⟩ := of_okAnd (e := fetchUnit nopBegun) (p := fun r => r.1 == (0x7F, none)) (by decide +kernel)
  have : (w, n) = (0x7F, none) := by simpa using hp
  rw [nopFetched, h, this]
theorem witness_StepRunsTheDecodedInstruction : nopState.agenda = [] ∧ (∃ is, nopState.issue = some is ∧ is.todo.head? = some (1, 0) ∧ is.pc = 0x10000) ∧
    (∃ t, nopState.thread? (1, 0) = some t ∧ t.status = .bundled ∧ t.pc = 0x10000 ∧ t.late = [] ∧ t.firstTrap = none ∧ t.clauseBad 0x7F (unitSize 0x7F none) = false ∧
      t.pastLimit (unitSize 0x7F none) = false ∧ t.waitHolds = false ∧ nopFetched.thread? (1, 0) = some t) ∧
    fetchUnit nopBegun = .ok ((0x7F, none), nopFetched) ∧ nopFetched.cur? = some (1, 0) ∧ watchOp 0x10000 (unitSize 0x7F none) .execute nopFetched = .ok ((), nopFetched) ∧
    unitOf 0x7F none = .ok (none, .nop 0) ∧ nopBegun.curTeam.prologue = none :=
  ⟨rfl, ⟨_, rfl, rfl, rfl⟩, ⟨placedThread false, by decide +kernel, by decide +kernel⟩, nop_fetches, by decide +kernel, rfl, rfl, rfl⟩

/-- A reserved word where the machine fetches next, and a NOP that stands in no clause: the state before the fetch, and what the fetch answers. -/
def badState : State := State.reset.placed 0x1047F
def bareState : State := nopState.updThread (1, 0) fun t => { t with clause := none }
def beginOf (s : State) : State := { s.tick with issue := s.issue.map fun i => { i with pfx := none } }
def fetchedOf (s : State) : State := match fetchUnit (beginOf s) with | .ok r => r.2 | .error _ => s
/-- The premises of the two ILLEGAL clauses but for the watch, as a check. -/
def illegalCase (s : State) (w : Nat) (bad : Bool) : Bool :=
  (match fetchUnit (beginOf s) with | .ok ((v, n), _) => v == w && n.isNone | .error _ => false) &&
  (match s.thread? (1, 0) with
   | some t => (fetchedOf s).thread? (1, 0) == some t && t.status == .bundled && t.pc == 0x10000 && t.late.isEmpty && t.firstTrap.isNone &&
     t.clauseBad w (unitSize w none) == bad && !t.pastLimit (unitSize w none)
   | none => false) &&
  (fetchedOf s).cur? == some (1, 0) && (match unitOf w none with | .error _ => !bad | .ok _ => bad)
theorem witness_StepRunsTheDecodedInstruction_illegal : (illegalCase badState 0x1047F false = true ∧ illegalCase bareState 0x7F true = true) ∧
    badState.agenda = [] ∧ bareState.agenda = [] ∧ ∀ s ∈ [badState, bareState], watchOp 0x10000 4 .execute (fetchedOf s) = .ok ((), fetchedOf s) := by
  refine ⟨⟨by decide +kernel, by decide +kernel⟩, rfl, rfl, fun s hs => ?_⟩
  simp only [List.mem_cons, List.not_mem_nil, or_false] at hs
  rcases hs with rfl | rfl <;> rfl

theorem witness_StepKeepsMemoryCanonical : nopState.MemOk ∧ goesOn (step nopState) = true := by
  unfold State.MemOk; decide +kernel

/-- A thread in its trap handler, with TRAPPC at an address. -/
def handling (pc : DWord) : Thread := { thr with handler := .trap, trapPc := pc }
theorem ready_handling (pc : DWord) : Ready (on (mk [handling pc])) (1, 0) (mk [handling pc]) (handling pc) :=
  ready rfl rfl rfl rfl rfl rfl rfl (by show thr.mstep.msb = false; rfl) (by show thr.Plain; unfold Thread.Plain; decide +kernel)

theorem witness_TrapEntersTheHandler : let s := on (mk [thr])
    s.team? 1 = some (mk [thr]) ∧ (mk [thr]).threads[0]? = some thr ∧ (mk [thr]).prologue = none ∧ s.ctx? 0 1 = some placedCtx ∧ placedCtx.trapEntry ≠ 0 ∧
    thr.handler = .none ∧ thr.flagsClear = true ∧ thr.infl = [] ∧ ∃ d, s.die? 0 = some d ∧ d.traps.length < 1024 ∧ d.trapDropped = 0 :=
  ⟨rfl, rfl, rfl, rfl, by decide, rfl, by decide +kernel, rfl, _, rfl, by decide, rfl⟩

/-- One access in flight, counted by f0; stopped for a trap with it, and with nothing in flight. -/
def flying : Thread := { thr with infl := [{ isWrite := false, flag := some 0, dsts := [(5, 7)] }], f := thr.f.set 0 1 }
theorem witness_TrapsWaitOrHalt :
    (flying.handler = .none ∧ flying.flagsClear = false ∧ flying.infl ≠ []) ∧
    (let t := { thr with status := .stopping { cause := 0x0C } 5 9 }
     t.status = .stopping { cause := 0x0C } 5 9 ∧ t.flagsClear = true ∧ t.infl = [] ∧ t.handler = .none) ∧
    (on (mk [flying])).team? 1 = some (mk [flying]) ∧ (mk [flying]).threads[0]? = some flying ∧ (on (mk [flying])).ctx? 0 1 = some placedCtx ∧
    (handling 0).handler ≠ .none ∧ ({ placedCtx with trapEntry := 0 } : Context).trapEntry = 0 :=
  ⟨⟨rfl, by decide +kernel, by decide +kernel⟩, ⟨rfl, by decide +kernel, rfl, rfl⟩, rfl, rfl, rfl, by decide, rfl⟩

theorem witness_SoftwareTraps : (Ready (on (mk [thr])) (1, 0) (mk [thr]) thr ∧ thr.pred 0 = true ∧ thr.pred 1 = false ∧ (on (mk [thr])).pfx = none) ∧
    ((on (mk [thr])).team? 1 = some (mk [thr]) ∧ (mk [thr]).threads[0]? = some thr ∧ (mk [thr]).prologue = none ∧ (on (mk [thr])).ctx? 0 1 = some placedCtx ∧
      placedCtx.trapEntry ≠ 0 ∧ thr.handler = .none ∧ thr.flagsClear = true ∧ thr.infl = []) ∧
    ((on (mk [handling 0])).team? 1 = some (mk [handling 0]) ∧ (mk [handling 0]).threads[0]? = some (handling 0) ∧ (on (mk [handling 0])).ctx? 0 1 = some placedCtx ∧
      (handling 0).handler ≠ .none) :=
  ⟨⟨ready_thr, rfl, rfl, rfl⟩, ⟨rfl, rfl, rfl, rfl, by decide, rfl, by decide +kernel, rfl⟩, rfl, rfl, rfl, by decide⟩

theorem witness_TrapReturns : (Ready (on (mk [thr])) (1, 0) (mk [thr]) thr ∧ thr.handler = .none) ∧
    ∀ pc ∈ [(0x10001 : DWord), 0x12000, 0x10000], Ready (on (mk [handling pc])) (1, 0) (mk [handling pc]) (handling pc) ∧ (handling pc).infl = [] ∧
      (pc = 0x10001 → pc.toNat % 2 = 1) ∧ (pc = 0x12000 → pc.toNat % 2 = 0 ∧ (on (mk [handling pc])).inCode (mk [handling pc]) pc.toNat = false) ∧
      (pc = 0x10000 → pc.toNat % 2 = 0 ∧ (on (mk [handling pc])).inCode (mk [handling pc]) pc.toNat = true) := by
  refine ⟨⟨ready_thr, rfl⟩, fun pc h => ⟨ready_handling pc, rfl, ?_⟩⟩
  simp only [List.mem_cons, List.not_mem_nil, or_false] at h
  rcases h with rfl | rfl | rfl <;> decide +kernel

/-- A thread whose pair x4:x5 is an address. -/
def at4 (lo hi : Word) : Thread := { thr with x := (thr.x.set 4 { val := lo, dead := false }).set 5 { val := hi, dead := false } }
theorem at4_reads (lo hi : Word) {n : Nat} (h : n < 64) : (at4 lo hi).Reads 64 n := by
  have e : ∀ k < 64, ((at4 lo hi).cell k).dead = (thr.cell k).dead := by
    intro k hk
    simp only [Thread.cell, at4, Vector.getElem?_set]
    by_cases h5 : 5 = k <;> by_cases h4 : 4 = k
    · omega
    · subst h5; simp; decide +kernel
    · subst h4; simp; decide +kernel
    · simp [h5, h4]
  obtain ⟨h1, h2, h3⟩ := thr_reads h
  refine ⟨h1, h2, ?_⟩
  rcases h3 with h3 | h3
  · exact .inl h3
  · exact .inr ⟨h3.1, (e n h).trans h3.2⟩
theorem at4_plain (lo hi : Word) : (at4 lo hi).Plain := by
  unfold Thread.Plain
  have : ((at4 lo hi).x.toList.map (·.tag)) = thr.x.toList.map (·.tag) := by
    simp only [at4, Vector.toList_set, List.map_set]; decide +kernel
  have h2 : (thr.x.toList.map (·.tag)).all (· == 0) = true := by decide +kernel
  rw [← this] at h2
  simpa [List.all_map, Function.comp_def] using h2
theorem ready_at4 (lo hi : Word) : Ready (on (mk [at4 lo hi])) (1, 0) (mk [at4 lo hi]) (at4 lo hi) := ready rfl rfl rfl rfl rfl rfl rfl (by show thr.mstep.msb = false; rfl) (at4_plain lo hi)

/-- Targets inside the bound code, misaligned, outside it; a dissolve entry; a quota that gives x63 no backing. -/
theorem witness_EndersTransferControl :
    (∀ lo ∈ [(0x10000 : Word), 0x10002, 0x12000], Ready (on (mk [at4 lo 0])) (1, 0) (mk [at4 lo 0]) (at4 lo 0) ∧ (at4 lo 0).Reads 64 4 ∧ (at4 lo 0).Reads 64 5 ∧
      (at4 lo 0).Writes 64 63) ∧
    ((pair64 0x10000 0).toNat % 4 = 0 ∧ (on (mk [thr])).inCode (mk [thr]) (pair64 0x10000 0).toNat = true) ∧ (pair64 0x10002 0).toNat % 4 ≠ 0 ∧
    ((pair64 0x12000 0).toNat % 4 = 0 ∧ (on (mk [thr])).inCode (mk [thr]) (pair64 0x12000 0).toNat = false) ∧
    (∃ cv, ((on (mk [thr])).ctxOf (mk [thr])).version? (mk [thr]).version = some cv ∧ (pair64 0x10000 0).toNat ∉ cv.dissolve) ∧
    (thr.isK 63 = false ∧ thr.pending 63 = false ∧ ({ mk [thr] with gangs := [{ quota := 32 }] } : Team).quotaOf 0 ≤ 63) ∧
    (let r := BitVec.append (BitVec.ofNat 32 (((on (mk [thr])).ctxOf (mk [thr])).codeBase / 2 ^ 32)) (0x10000 : Word)
     r.toNat % 4 = 0 ∧ (on (mk [thr])).inCode (mk [thr]) r.toNat = true) :=
  ⟨fun lo _ => ⟨ready_at4 lo 0, at4_reads lo 0 (by decide), at4_reads lo 0 (by decide), thr_writes (by decide)⟩, by decide +kernel, by decide, by decide +kernel,
    ⟨_, rfl, by decide +kernel⟩, by decide +kernel, by decide +kernel⟩

theorem witness_ClausesPrefixesAndNop : Ready (on (mk [thr])) (1, 0) (mk [thr]) thr ∧ (on (mk [thr])).pfx = none ∧
    ((none : Option Clause).all fun c => (c.left == some 0) || (c.left.isNone && !c.fresh)) = true ∧
    ((some { left := some 0 } : Option Clause).all fun c => (c.left == some 0) || (c.left.isNone && !c.fresh)) = true ∧
    (thr.clause.all fun c => (c.left == some 0) || (c.left.isNone && !c.fresh)) = true ∧
    (({ left := some 1 } : Clause).left.getD 0 ≠ 0) ∧ (({ left := none } : Clause).left = none ∧ ({ left := none } : Clause).fresh = true) :=
  ⟨ready_thr, rfl, rfl, rfl, rfl, by decide, rfl, rfl⟩

theorem witness_ThreadsSleepAndEnd : Ready (on (mk [thr])) (1, 0) (mk [thr]) thr ∧ (mk [thr]).uid = 1 ∧ (mk [thr]).prologue = none ∧ thr.late = [] ∧ thr.infl = [] ∧
    ({ thr with handler := .save } : Thread).handler = .save ∧ (thr.handler = .none ∧ (mk [thr]).quads = false ∧ thr.status ≠ .ended) ∧
    (quadOthers { mk [thr] with quads := true } 0).isEmpty = true ∧ (quadOthers { mk [thr, { thr with tid := 1 }] with quads := true } 0).isEmpty = false ∧
    (∀ o ∈ (mk [thr, { thr with tid := 1 }]).threads, (mk [thr, { thr with tid := 1 }]).threads[o.tid]? = some o) ∧
    (thr.reg 4 = 0 ∧ thr.reg 2 ≠ 0) ∧ ((on (mk [{ thr with status := .sleeping 5 }])).thread (1, 0)).status = .sleeping 5 :=
  ⟨ready_thr, rfl, rfl, rfl, rfl, rfl, ⟨rfl, rfl, by decide⟩, by decide +kernel, by decide +kernel, by simp [mk, thr], by decide +kernel, rfl⟩

/-- A step that answers a next state. -/
theorem of_next {o : Host.Outcome State Fault Refusal} (h : goesOn o = true) : ∃ s, o = .next s := by
  cases o with
  | next s => exact ⟨s, rfl⟩
  | fault _ => cases h
  | refused _ => cases h

theorem witness_RegistersAndTimeAreRead : Ready (on (mk [thr])) (1, 0) (mk [thr]) thr ∧ (on (mk [thr])).pfx = none ∧ thr.pred 0 = true ∧ thr.Writes 64 62 ∧ thr.Writes 64 63 ∧
    (sysValue (on (mk [thr])) (mk [thr]) thr ((on (mk [thr])).gridOf (mk [thr])) ((on (mk [thr])).ctxOf (mk [thr])) 0x010 = some 64 ∧ sr64 0x010 = false) ∧
    (sysValue (on (mk [thr])) (mk [thr]) thr ((on (mk [thr])).gridOf (mk [thr])) ((on (mk [thr])).ctxOf (mk [thr])) 0x017 = some 0x10000 ∧ sr64 0x017 = true) ∧
    (∀ n < 64, (32 : Nat).testBit n = (decide (n < 64) && (dead5.cell n).dead)) :=
  ⟨ready_thr, rfl, rfl, thr_writes (by decide), thr_writes (by decide), by decide +kernel, by decide +kernel, by decide +kernel⟩

/-- A thread of context 0, and one in a handler. -/
def team0 : Team := { mk [thr] with ctx := 0 }
theorem witness_SystemRegistersWrite : Ready (on (mk [thr])) (1, 0) (mk [thr]) thr ∧ (on (mk [thr])).pfx = none ∧ thr.pred 0 = true ∧ thr.Reads 64 2 ∧ thr.Reads 64 3 ∧
    thr.handler = .none ∧ (mk [thr]).ctx ≠ 0 ∧ (Ready (on (mk [handling 0])) (1, 0) (mk [handling 0]) (handling 0) ∧ (handling 0).handler ≠ .none ∧ (handling 0).Reads 64 2 ∧
      (handling 0).Reads 64 3) ∧ (Ready (on team0) (1, 0) team0 thr ∧ team0.ctx = 0) :=
  ⟨ready_thr, rfl, rfl, thr_reads (by decide), thr_reads (by decide), rfl, by decide, ⟨ready_handling 0, by decide, by unfold Thread.Reads; decide +kernel,
    by unfold Thread.Reads; decide +kernel⟩, ready rfl rfl rfl rfl rfl rfl rfl rfl (by unfold Thread.Plain; decide +kernel), rfl⟩

/-- x7 carries the recipe of an LDI, its value stored or dropped; x4:x5 hold the mask of x7. -/
def kept7 (stored : Bool) : Thread := { at4 128 0 with x := (at4 128 0).x.set 7 { val := 9, dead := false, tag := 1, stored := stored } }
def team7 (stored : Bool) : Team := { mk [kept7 stored] with gangs := [{ quota := 64, recipes := [(1, { word := 0x00091C29, payload := none, ftz := false })] }] }
theorem issuing7 (stored : Bool) : Issuing (on (team7 stored)) (1, 0) (team7 stored) (kept7 stored) :=
  { cur := rfl, team := rfl, thread := rfl, tid := rfl, fmode := rfl, mfmt := rfl, mstep := by show thr.mstep.msb = false; rfl }
theorem witness_RecipesDropAndReplay :
    (∀ b, Issuing (on (team7 b)) (1, 0) (team7 b) (kept7 b) ∧ (kept7 b).ReadsPlain 64 4 ∧ (kept7 b).ReadsPlain 64 5) ∧ (on (team7 true)).pfx = none ∧ thr.pred 0 = true ∧
    (∀ n < 64, (pair64 128 0).getLsbD n = true → ((kept7 true).cell n).tag = 0 ∨ (n < 64 ∧ ((kept7 true).cell n).stored = true)) ∧
    (pair64 128 0 = BitVec.ofNat 64 (2 ^ 7) ∧ ((kept7 false).cell 7).tag ≠ 0 ∧ ((kept7 false).cell 7).stored = false ∧
      (∃ v s1, replay 4 7 (on (team7 false)) = .ok (v, s1)) ∧ (kept7 false).isK 7 = false ∧ (kept7 false).pending 7 = false ∧
      recipeOf (team7 false) 0 1 = some { word := 0x00091C29, payload := none, ftz := false } ∧ decode 0x00091C29 = .ok (.ldi 0 7 9)) ∧
    (let th := (on (team7 true)).thread (1, 0)
     7 < ((on (team7 true)).team 1).quotaOf 0 ∧ (th.cell 7).tag ≠ 0 ∧ (th.cell 7).stored = true ∧ th.pending 7 = false) := by
  refine ⟨fun b => ⟨issuing7 b, ?_, ?_⟩, rfl, rfl, by decide +kernel, ⟨by decide, by decide +kernel, by decide +kernel, of_ok (by decide +kernel), by decide, by decide,
    by decide +kernel, rfl⟩, by decide +kernel⟩ <;> unfold Thread.ReadsPlain Thread.Reads <;> cases b <;> decide +kernel

-- the commons window: its base is free, and no base reaches a high address

/-- An offset in the window. -/
theorem window_in {o : Nat} (h : o < 2 ^ 28) : inWindow (Config.commons + o) = true := by
  simp only [inWindow, Bool.and_eq_true, decide_eq_true_eq]
  unfold Config.commons
  omega
/-- A location in the window is judged by its offset. -/
theorem window_at (s : State) (die ctx o : Nat) : s.window die ctx (Config.commons + o) =
    (if Config.cores (isDie die) ≤ o / 2 ^ 20 || Config.sliceBytes (isDie die) ≤ o % 2 ^ 20 then .error (.trap causeAccess codeWindowHole)
    else match (s.core die (o / 2 ^ 20)).region? (o % 2 ^ 20) with
      | none => .error (.trap causeAccess codeWindowHole)
      | some r => if r.ctx != ctx then .error (.trap causeAccess codeCrossCtx) else .ok (o / 2 ^ 20, o % 2 ^ 20, r)) := by
  simp only [State.window, Nat.add_sub_cancel_left] <;> rfl

/-- Core 0 with a scratchpad, a register block, and another context's scratchpad. -/
def onSlice : State := { on (mk [thr]) with
  cores := [{ die := 0, num := 0, tlb := [placedLeaf, dataLeaf], regions := [⟨.scratch 1, 0, 4096, 1⟩, ⟨.block 1 0, 4096, 16384, 1⟩, ⟨.scratch 9, 20480, 4096, 2⟩] }] }
theorem ready_slice : Ready onSlice (1, 0) (mk [thr]) thr := ready rfl rfl rfl rfl rfl rfl rfl rfl (by unfold Thread.Plain; decide +kernel)

theorem slice_window {s : State} {o : Nat} (h : o < 4096) (hs : s.cores = onSlice.cores := by rfl) :
    s.window 0 1 (Config.commons + o) = .ok (0, o, ⟨.scratch 1, 0, 4096, 1⟩) := by
  have h1 : o / 2 ^ 20 = 0 := by omega
  have h2 : o % 2 ^ 20 = o := by omega
  rw [window_at, h1, h2]
  simp [Config.cores, Config.sliceBytes, isDie, State.core, hs, onSlice, CoreState.region?, h]
  omega

/-- A misaligned address, and one place for each check: the first absent core, the first absent byte of a slice, no region, another context's, a block. -/
theorem witness_AccessChecksTrap :
    (Ready (on (mk [at4 0x20001 0xFF000000])) (1, 0) (mk [at4 0x20001 0xFF000000]) (at4 0x20001 0xFF000000) ∧ AddrReads (at4 0x20001 0xFF000000) 64 0 0 2 ∧
      accessAddr (on (mk [at4 0x20001 0xFF000000])) (at4 0x20001 0xFF000000) 4 0 0 2 % sizeAlign 4 ≠ 0 ∧ (memFields none).k = false ∧ (at4 0x20001 0xFF000000).quad ≠ .helper) ∧
    (∀ w, thr.FlagRoom w) ∧ (Ready onSlice (1, 0) (mk [thr]) thr) ∧
    (inWindow (Config.commons + 64 * 2 ^ 20) = true ∧ Config.cores (isDie 0) ≤ (Config.commons + 64 * 2 ^ 20 - Config.commons) / 2 ^ 20) ∧
    (inWindow (Config.commons + 393216) = true ∧ Config.sliceBytes (isDie 0) ≤ (Config.commons + 393216 - Config.commons) % 2 ^ 20) ∧
    (∀ o ∈ [24576, 20480, 4096], inWindow (Config.commons + o) = true ∧ (Config.commons + o - Config.commons) / 2 ^ 20 < Config.cores (isDie 0) ∧
      (Config.commons + o - Config.commons) % 2 ^ 20 < Config.sliceBytes (isDie 0)) ∧
    (onSlice.core 0 0).region? 24576 = none ∧ (∃ r, (onSlice.core 0 0).region? 20480 = some r ∧ r.ctx ≠ 1) ∧
    (∃ r, (onSlice.core 0 0).region? 4096 = some r ∧ r.ctx = 1 ∧ r.kind = .block 1 0) ∧ (inWindow (2 ^ 56) = false ∧ canonical (2 ^ 56) = false) := by
  refine ⟨⟨ready_at4 _ _, ⟨at4_reads _ _ (by decide), at4_reads _ _ (by decide), fun h => absurd rfl h⟩, by decide +kernel, rfl, by decide⟩, ?_, ready_slice,
    ⟨window_in (by decide), ?_⟩, ⟨window_in (by decide), ?_⟩, ?_, by decide +kernel, ⟨_, rfl, by decide⟩, ⟨_, rfl, rfl, rfl⟩, by decide +kernel⟩
  · intro w n hn; cases w <;> (cases hn)
  · rw [Nat.add_sub_cancel_left]; decide
  · rw [Nat.add_sub_cancel_left]; decide
  · intro o ho
    rw [Nat.add_sub_cancel_left]
    simp only [List.mem_cons, List.not_mem_nil, or_false] at ho
    rcases ho with rfl | rfl | rfl <;> exact ⟨window_in (by decide), by decide, by decide⟩

/-- The location of an access, and the bytes a load finds there. -/
def located (s : State) (va n : Nat) (kind : AccKind) (onBlock watched : Bool) (f : Loc → State → Bool) : Bool :=
  okAnd (locateOp va n n kind onBlock watched false (fun _ => none) s) fun r => decide (r.1.2 = none) && f r.1.1 r.2
theorem of_located {s : State} {va n : Nat} {kind : AccKind} {onBlock watched : Bool} {f : Loc → State → Bool} (h : located s va n kind onBlock watched f = true) :
    ∃ l s1, locateOp va n n kind onBlock watched false (fun _ => none) s = .ok ((l, none), s1) ∧ f l s1 = true := by
  obtain ⟨⟨⟨l, o⟩, s1⟩, h, hp⟩ := of_okAnd h
  simp only [Bool.and_eq_true, decide_eq_true_eq] at hp
  obtain ⟨rfl, hp⟩ := hp
  exact ⟨l, s1, h, hp⟩
theorem of_read {l : Loc} {n : Nat} {a : Bool} {s : State} (h : okAnd (readBytes l n a s) (fun q => q.1.2 == 0) = true) : ∃ bs s2, readBytes l n a s = .ok ((bs, 0), s2) := by
  obtain ⟨⟨⟨bs, e⟩, s2⟩, h, hp⟩ := of_okAnd h
  have : e = 0 := by simpa using hp
  subst this
  exact ⟨bs, s2, h⟩
/-- A record of n bytes with little-endian fields: offset, width, value. -/
def record (n : Nat) (fields : List (Nat × Nat × Nat)) : List Byte :=
  fields.foldl (fun bs (o, w, v) => bs.take o ++ bytesLE w v ++ bs.drop (o + w)) (List.replicate n 0)
/-- The machine with bytes on the data page. -/
def holding (s : State) (bs : List Byte) : State := { s with mem := Memory.write s.mem 0x20000 bs }
/-- A read that goes through. -/
def loads (s : State) (va n : Nat) (onBlock watched acq : Bool) : Bool :=
  located s va n .read onBlock watched fun l s1 => okAnd (readBytes l n acq s1) (fun q => q.1.2 == 0)
theorem of_loads {s : State} {va n : Nat} {onBlock watched acq : Bool} (h : loads s va n onBlock watched acq = true) :
    ∃ l s1 bs s2, locateOp va n n .read onBlock watched false (fun _ => none) s = .ok ((l, none), s1) ∧ readBytes l n acq s1 = .ok ((bs, 0), s2) := by
  obtain ⟨l, s1, h1, h2⟩ := of_located h
  obtain ⟨bs, s2, h3⟩ := of_read h2
  exact ⟨l, s1, bs, s2, h1, h3⟩

theorem thr_addr : AddrReads thr 64 0 0 1 := ⟨thr_reads (by decide), thr_reads (by decide), fun h => absurd rfl h⟩
theorem thr_room (w : Bool) : thr.FlagRoom w := by intro n hn; cases w <;> (cases hn)
theorem thr_data (size : Fin 8) : accessAddr (on (mk [thr])) thr size 0 0 1 = dataVa := by revert size; decide +kernel

/-- A location whose read answers gives a load something. -/
theorem of_gives {tm : Team} {m : MemPfx} {size va count : Nat} {l : Loc} {reg : Option (Nat × Region)} {s : State}
    (h : reg = none → okAnd (readBytes l (sizeBytes size) (decide (m.order = 1) && decide (4 ≤ m.scope)) s) (fun _ => true) = true) (h7 : size ≠ 7) :
    ∃ vals late s', LoadGives tm m size va count l reg vals late s s' := by
  rcases reg with _ | ⟨off, r⟩
  · obtain ⟨⟨bs, err⟩, s', h⟩ := of_ok (h rfl)
    by_cases he : err = 0
    · refine ⟨loadWords size bs, none, s', ?_⟩
      simp only [LoadGives, if_neg h7]
      exact ⟨bs, err, h, by simp [he]⟩
    · refine ⟨List.replicate count 0, some { cause := 6, code := err, addr := BitVec.ofNat 64 va }, s', ?_⟩
      simp only [LoadGives, if_neg h7]
      exact ⟨bs, err, h, by simp [he]⟩
  · simp only [LoadGives]
    generalize hb : blockLoad _ r off (sizeBytes size) = o
    cases o with
    | none => exact ⟨_, _, _, rfl, by rw [hb]; exact ⟨rfl, rfl⟩⟩
    | some ws => exact ⟨_, _, _, rfl, by rw [hb]; exact ⟨rfl, rfl⟩⟩

/-- The machine whose core holds another entry for the data page, and a prefix. -/
def through (s : State) (d0 : DWord) (pfx : Option Nat) : State :=
  { s with cores := [{ die := 0, num := 0, tlb := [placedLeaf, { dataLeaf with d0 := d0 }] }], issue := s.issue.map fun i => { i with pfx := pfx } }
/-- A load, or with K, of 32 bits at the data page. -/
def begins (s : State) (k : Bool) (z : Nat) : Bool :=
  okAnd (locateOp dataVa (sizeBytes z) (sizeAlign z) .read (decide (4 ≤ z) && decide (z ≠ 7)) true (decide (z = 7)) (fun l => if k = true ∧ l.imm = false then some 0x04 else none) s) fun r =>
    decide (r.1.2 = none) && (if z = 7 then okAnd (typedLines r.1.1 dataVa false r.2) fun q => q.1 == 0 else okAnd (readBytes r.1.1 (sizeBytes z) false r.2) fun _ => true)

theorem witness_LoadsAndStoresBegin : Ready (on (mk [thr])) (1, 0) (mk [thr]) thr ∧ (mk [thr]).uid = 1 ∧ (on (mk [thr])).pfx = none ∧ thr.pred 0 = true ∧ AddrReads thr 64 0 0 1 ∧
    (∀ w, thr.FlagRoom w) ∧ (memFields none).k = false ∧ thr.quad ≠ .helper ∧ (∀ k ∈ sizeR 6 20, thr.Reads 64 k ∧ thr.Writes 64 k) ∧
    (∀ z ∈ [4, 6], begins (on (mk [thr])) false z = true) ∧ begins { on (mk [thr]) with poison := [0x20000] } false 4 = true ∧
    begins (through (on (mk [thr])) (0x200CF + 2 ^ 52 * 8) none) false 7 = true ∧
    (begins (through (on (mk [thr])) 0x200EF (some (2 ^ 22 + 2 ^ 14))) true 4 = true ∧ (memFields (some (2 ^ 22 + 2 ^ 14))).k = true ∧
      memMarks (memFields (some (2 ^ 22 + 2 ^ 14))) 0 0 1 = [] ∧ pfxCode (2 ^ 22 + 2 ^ 14) (.ld 0 4 0 0 1 20) = none ∧
      ∃ w, encode (.ld 0 4 0 0 1 20) = some w ∧ recordable (mk [thr]) thr [20] { word := w, payload := some (2 ^ 22 + 2 ^ 14), ftz := false } = some 1) ∧
    (∃ vals late s', LoadGives (mk [thr]) (memFields none) 4 4096 1 { key := 0, home := 4 } (some (4096, ⟨.block 1 0, 4096, 16384, 1⟩)) vals late onSlice s') ∧
    (∃ l s1, locateOp (accessAddr (on (mk [thr])) thr 6 0 0 1) 16 16 .write true true false (fun _ => none) (on (mk [thr])) = .ok ((l, none), s1) ∧
      okAnd (storeBytes l (List.replicate 16 7) s1) (fun _ => true) = true) ∧
    (∃ late s', StoreMakes 4 4096 [7] { key := 0, home := 4 } (some (4096, ⟨.block 1 0, 4096, 16384, 1⟩)) late onSlice s') ∧
    (∃ late s', StoreMakes 7 dataVa [7] { key := 0x20000, home := 0, fmt := 8 } none late (on (mk [thr])) s') ∧
    (pair64 (thr.reg 2) (thr.reg 3)).toNat = dataVa := by
  refine ⟨ready_thr, rfl, rfl, rfl, thr_addr, thr_room, rfl, by decide, ?_, by decide +kernel, by decide +kernel, by decide +kernel,
    ⟨by decide +kernel, by decide, by decide, by decide +kernel, _, rfl, by decide +kernel⟩, of_gives (fun h => by cases h) (by decide), ?_, ?_, ?_, by decide +kernel⟩
  · intro k hk
    have h : k < 64 := by revert k; decide
    exact ⟨thr_reads h, thr_writes h⟩
  · rw [thr_data]; exact of_located (by decide +kernel)
  · obtain ⟨busy, s', h⟩ := of_ok (e := blockPut ⟨.block 1 0, 4096, 16384, 1⟩ 4096 [7] onSlice) (by decide +kernel)
    exact ⟨_, s', busy, h, rfl⟩
  · obtain ⟨⟨⟩, s', h⟩ := of_ok (e := storeTyped { key := 0x20000, home := 0, fmt := 8 } dataVa 7 (on (mk [thr]))) (by decide +kernel)
    exact ⟨none, s', rfl, by rw [if_pos rfl]; exact h⟩

theorem witness_ScratchpadAccess : Issuing onSlice (1, 0) (mk [thr]) thr ∧ (Config.commons + 4032) % 1 = 0 ∧ inWindow (Config.commons + 4032) = true ∧
    onSlice.window 0 1 (Config.commons + 4032) = .ok (0, 4032, ⟨.scratch 1, 0, 4096, 1⟩) ∧ (onSlice.ctxOf (mk [thr])).watch = [] ∧ onSlice.MemOk ∧
    onSlice.poisoned (2 ^ 56 + 4032) 64 = false ∧ (∃ is, onSlice.issue = some is ∧ is.stores = []) ∧ onSlice.dirs.find? (·.key == lineKey (2 ^ 56 + 4032)) = none := by
  exact ⟨ready_slice.toIssuing, Nat.mod_one _, window_in (by decide), slice_window (by decide), rfl, rfl, by decide +kernel, ⟨_, rfl, rfl⟩, rfl⟩

theorem witness_AccessesChangeTheirBytesAlone : Ready (on (mk [thr])) (1, 0) (mk [thr]) thr ∧ (on (mk [thr])).MemOk ∧ (mk [thr]).prologue = none ∧
    ((on (mk [thr])).ctxOf (mk [thr])).trapEntry ≠ 0 ∧ (∀ o ∈ (mk [thr]).threads, o.handler = .none) ∧
    (∀ kind ∈ [AccKind.read, .write], StandsAt (on (mk [thr])) (mk [thr]) (accessAddr (on (mk [thr])) thr 4 0 0 1) kind 0x20000) ∧
    StandsAt onSlice (mk [thr]) (Config.commons + 64) .write (2 ^ 56 + 64) ∧
    (∃ s', exec (.ld 0 4 0 0 1 20) (on (mk [thr])) = .next s') ∧ (∃ s', exec (.st 0 4 0 0 1 20) (on (mk [thr])) = .next s') ∧
    (let s := through (on (mk [thr])) (0x200CF + 2 ^ 52 * 8) none
     (∃ s', exec (.st 0 7 0 0 1 20) s = .next s') ∧ okAnd (locateOp dataVa 1 1 .write false true true (fun _ => none) s) (fun r => decide (r.1.2 = none)) = true) := by
  refine ⟨ready_thr, rfl, rfl, by decide, by decide +kernel, ?_, .inl ⟨window_in (by decide), 0, 64, ⟨.scratch 1, 0, 4096, 1⟩, slice_window (by decide), (by intro u g h; cases h), rfl⟩,
    of_next (by decide +kernel), of_next (by decide +kernel), of_next (by decide +kernel), by decide +kernel⟩
  · intro kind hk
    rw [thr_data]
    simp only [List.mem_cons, List.not_mem_nil, or_false] at hk
    rcases hk with rfl | rfl <;> exact .inr ⟨by decide, dataLeaf, by decide +kernel, by decide +kernel⟩

theorem witness_RepliesComplete : ∀ f ∈ [({ isWrite := false, flag := none, dsts := [(63, 7)] } : Flight), { isWrite := true, flag := some 0 },
      { isWrite := false, flag := none, late := some { cause := 6 } }],
    (on (mk [{ thr with infl := [f] }])).team? 1 = some (mk [{ thr with infl := [f] }]) ∧ (mk [{ thr with infl := [f] }]).threads[0]? = some { thr with infl := [f] } ∧
    ({ thr with infl := [f] } : Thread).infl = [] ++ f :: [] ∧ f.op = none ∧ f.sdsts = [] ∧ 63 < (mk [thr]).quotaOf 0 :=
  fun f hf => ⟨rfl, rfl, rfl, by revert f; decide, by revert f; decide, by decide +kernel⟩

theorem witness_CountedOperationsBegin : Ready (on (mk [thr])) (1, 0) (mk [thr]) thr ∧ thr.FlagRoom false ∧
    (∃ r, slowRow (.div 0 62 2 3 true false) = some r ∧ r.Runs (on (mk [thr])) (mk [thr]) thr) ∧ (∃ r, slowRow (.fsfu 0 1 2 0 false false) = some r ∧ r.Runs (on (mk [thr])) (mk [thr]) thr) ∧
    (∃ r w, slowRow (.fsfu 0 1 2 0 false true) = some r ∧ r.k = true ∧ r.marks = [] ∧ encode (.fsfu 0 1 2 0 false true) = some w ∧
      recordable (mk [thr]) thr r.dsts { word := w, payload := none, ftz := false } = some 1) ∧
    (let va := (((pair64 ((mk [thr]).s[0]?.getD 0) ((mk [thr]).s[1]?.getD 0)).toNat + (memFields none).off) % 2 ^ 64).toNat
     ∃ l s1 bs s2, locateOp va 16 16 .read false true false (fun _ => none) (on (mk [thr])) = .ok ((l, none), s1) ∧ readBytes l 16 false s1 = .ok ((bs, 0), s2) ∧ s2.cur? = some (1, 0) ∧
        (∀ is, s2.issue = some is → is.done.all (·.1 != 1) = true) ∧ ∃ won s3, sWinner 0 ([0, 1, 2, 3].zip (wordsOf bs)) s2 = .ok (won, s3)) ∧
    (let two := on (mk [thr, { thr with tid := 1, infl := [{ isWrite := false, flag := none, sdsts := [(0, 7)] }] }])
     let s2 : State := { two with issue := two.issue.map fun i => { i with todo := [(1, 0)], done := [(1, 1)] } }
     s2.cur? = some (1, 0) ∧ (s2.thread (1, 1)).pred 0 = true ∧ ∃ is f, s2.issue = some is ∧ is.done = [(1, 1)] ∧ (s2.thread (1, 1)).infl = [f] ∧ f.sdsts.map (·.1) = [0]) := by
  refine ⟨ready_thr, thr_room false, ⟨_, rfl, thr_runs (by decide) rfl⟩, ⟨_, rfl, thr_runs (by decide) rfl⟩, ⟨_, _, rfl, rfl, rfl, rfl, by decide +kernel⟩, ?_, rfl, rfl, _, _, rfl, rfl, rfl, rfl⟩
  obtain ⟨l, s1, h1, hp⟩ := of_located (s := on (mk [thr])) (va := (((pair64 ((mk [thr]).s[0]?.getD 0) ((mk [thr]).s[1]?.getD 0)).toNat + (memFields none).off) % 2 ^ 64).toNat)
    (n := 16) (kind := .read) (onBlock := false) (watched := true)
    (f := fun l s1 => okAnd (readBytes l 16 false s1) fun q => q.1.2 == 0 && decide (q.2.cur? = some (1, 0)) && (match q.2.issue with | some i => i.done.all (·.1 != 1) | none => true) &&
      okAnd (sWinner 0 ([0, 1, 2, 3].zip (wordsOf q.1.1)) q.2) fun _ => true) (by decide +kernel)
  obtain ⟨⟨⟨bs, e⟩, s2⟩, h2, hq⟩ := of_okAnd hp
  simp only [Bool.and_eq_true, decide_eq_true_eq, beq_iff_eq] at hq
  obtain ⟨⟨⟨rfl, hc⟩, hd⟩, hw⟩ := hq
  refine ⟨l, s1, bs, s2, h1, h2, hc, fun is h => by rw [h] at hd; exact hd, of_ok hw⟩

/-- A thread of a checkpointed context on D1, whose commit buffer has room for four bytes. -/
def ckptState : State :=
  { on { mk [thr] with die := 1 } with ctxs := [{ placedCtx with die := 1, checkpoint := true, commitSize := Config.heldBytes 4 }] }
theorem ckpt_holds : ∃ s', holdEffect { key := 0x20000, data := bytesLE 4 7, red := some (0, false), order := 0, scope := 6 } ckptState = .ok ((), s') := by
  have h : (ckptState.ctxOf ckptState.curTeam).holds { key := 0x20000, data := bytesLE 4 7, red := some (0, false), order := 0, scope := 6 } = true := by
    show (true && decide (0 + Config.heldBytes 4 ≤ Config.heldBytes 4)) = true
    simp
  refine ⟨ckptState.updCtx ckptState.curTeam.die ckptState.curTeam.ctx fun c =>
    { c with held := c.held ++ [{ key := 0x20000, data := bytesLE 4 7, red := some (0, false), order := 0, scope := 6 }] }, ?_⟩
  unfold holdEffect
  simp only [bind, StateT.bind, Except.bind, get, getThe, MonadStateOf.get, StateT.get, pure, Except.pure, h, Bool.not_true]
  rfl

/-- A prefix that no field of the statement takes: none. The location admits an atomic, and its read-modify-write is no error. -/
theorem witness_AtomicsRun : Ready (on (mk [thr])) (1, 0) (mk [thr]) thr ∧ thr.quad ≠ .helper ∧ (∀ n < 64, thr.Reads 64 n ∧ thr.Writes 64 n) ∧ (∀ w, thr.FlagRoom w) ∧
    (∀ ret, ∃ l s1 res s2, locateOp dataVa 8 8 .atomic false true false (atomRefused ((on (mk [thr])).ctxOf (mk [thr])) 0 9 ret) (on (mk [thr])) = .ok ((l, none), s1) ∧
      atomicAt l 8 9 0 6 1 2 true s1 = .ok (res, s2) ∧ res.late = none) ∧
    (let s := on (mk [thr])
     let l : Loc := { key := 0x20000, home := 0 }
     l.coh ≠ 2 ∧ l.home ≠ 3 ∧ s.MemOk ∧ l.key % 8 = 0 ∧ s.poisoned l.key 8 = false ∧ s.dirs.find? (·.key == lineKey l.key) = none ∧ s.cur?.isSome = true ∧ s.merges = []) ∧
    (let s : State := { on (mk [thr]) with poison := [0x20000] }
     okAnd (atomicAt { key := 0x20000, home := 0 } 4 0 0 6 1 0 false s) (fun q => decide (q.1.late = some (0x06, 0x13))) = true) ∧
    (ckptState.ctxOf { mk [thr] with die := 1 }).outside 1 { key := 0x20000, home := 0 } = true ∧
    ∃ s', holdEffect { key := 0x20000, data := bytesLE 4 7, red := some (0, false), order := 0, scope := 6 } ckptState = .ok ((), s') := by
  refine ⟨ready_thr, by decide, fun n h => ⟨thr_reads h, thr_writes h⟩, thr_room, fun ret => ?_,
    ⟨by decide, by decide, rfl, by decide, by decide +kernel, rfl, rfl, rfl⟩, by decide +kernel, by decide +kernel, ckpt_holds⟩
  obtain ⟨⟨⟨l, o⟩, s1⟩, h, hp⟩ := of_okAnd (e := locateOp dataVa 8 8 .atomic false true false (atomRefused ((on (mk [thr])).ctxOf (mk [thr])) 0 9 ret) (on (mk [thr])))
    (p := fun r => decide (r.1.2 = none) && okAnd (atomicAt r.1.1 8 9 0 6 1 2 true r.2) fun q => decide (q.1.late = none)) (by cases ret <;> decide +kernel)
  simp only [Bool.and_eq_true, decide_eq_true_eq] at hp
  obtain ⟨rfl, hp⟩ := hp
  obtain ⟨⟨res, s2⟩, h2, h3⟩ := of_okAnd hp
  exact ⟨l, s1, res, s2, h, h2, by simpa using h3⟩

/-- An access refused with a trap, or with a park at its address. -/
def refusedAt (s : State) (va : Nat) (parks : Bool) : Bool :=
  match locateOp va 1 1 .read false false false (fun _ => none) s with
  | .error (.trap _) => !parks
  | .error (.park v _ _ none) => parks && v == va
  | _ => false
theorem of_refused {s : State} {va : Nat} {parks : Bool} (h : refusedAt s va parks = true) :
    ∃ e, locateOp va 1 1 .read false false false (fun _ => none) s = .error e ∧ ((∃ r, e = .trap r) ∨ ∃ k r, e = .park va k r none) := by
  unfold refusedAt at h
  split at h
  · rename_i r hr; exact ⟨_, hr, .inl ⟨r, rfl⟩⟩
  · rename_i v k r hr
    simp only [Bool.and_eq_true, beq_iff_eq] at h
    exact ⟨_, hr, .inr ⟨k, r, by rw [h.2]⟩⟩
  · cases h
/-- A page of D1, pair-coherent, that this die holds modified. -/
def farLeaf : TlbEntry := { ctx := 1, page := dataVa / 8192, level := 0, d0 := 0x204CF, d1 := 2 }
def onFar : State := { on (mk [thr]) with
  cores := [{ die := 0, num := 0, tlb := [farLeaf] }], dies := [Die.resetP, Die.resetD 1 true]
  dirs := [{ key := 2 ^ 52 + 0x20000, st := .modified 0 (List.replicate 64 7) }] }
theorem pair_commons : (pair64 (BitVec.ofNat 32 Config.commons) (BitVec.ofNat 32 (Config.commons / 2 ^ 32))).toNat = Config.commons := by
  have h : Config.commons < 2 ^ 56 := by unfold Config.commons; omega
  have e (a b : Word) : (pair64 a b).toNat = b.toNat * 2 ^ 32 + a.toNat := by
    have h := Nat.shiftLeft_add_eq_or_of_lt a.isLt b.toNat
    rw [Nat.shiftLeft_eq] at h
    simp only [pair64, BitVec.append_eq, BitVec.toNat_append, Nat.shiftLeft_eq]
    exact h.symm
  rw [e]
  simp only [BitVec.toNat_ofNat]
  omega

theorem locate_scratch {s : State} {va core off u : Nat} {r : Region} (hw : inWindow va = true) (he : s.window s.curTeam.die s.curTeam.ctx va = .ok (core, off, r))
    (hk : r.kind = .scratch u) : locateOp va 1 1 .read false false false (fun _ => none) s = .ok (({ key := commonsKey s.curTeam.die core off, home := 4 }, none), s) := by
  simp [locateOp, hw, he, hk, Nat.mod_one]

/-- A thread whose x4:x5 are the base of the window. -/
def atBase : Thread := at4 (BitVec.ofNat 32 Config.commons) (BitVec.ofNat 32 (Config.commons / 2 ^ 32))
def onBase : State := { onSlice with teams := [mk [atBase]] }
theorem base_addr : accessAddr onBase atBase 7 0 0 2 = Config.commons := by
  have h : Config.commons < 2 ^ 56 := by unfold Config.commons; omega
  simp only [accessAddr, addressOf]
  rw [show atBase.reg (2 * (2 : YReg).val) = BitVec.ofNat 32 Config.commons from rfl,
    show atBase.reg (2 * (2 : YReg).val + 1) = BitVec.ofNat 32 (Config.commons / 2 ^ 32) from rfl, pair_commons]
  show (((Config.commons : Int) + 0 * _ + 0) % 2 ^ 64).toNat = Config.commons
  omega
theorem base_locates : locateOp Config.commons 1 1 .read false false false (fun _ => none) onBase = .ok (({ key := commonsKey 0 0 0, home := 4 }, none), onBase) := by
  have hw := window_in (o := 0) (by decide)
  have e := slice_window (s := onBase) (o := 0) (by decide)
  rw [Nat.add_zero Config.commons] at e hw
  have hd : onBase.curTeam = mk [atBase] := rfl
  have h := @locate_scratch onBase Config.commons 0 0 1 ⟨.scratch 1, 0, 4096, 1⟩ hw (hd ▸ e) rfl
  rw [hd] at h
  exact h

theorem witness_FencesAndCacheOperations : Ready (on (mk [thr])) (1, 0) (mk [thr]) thr ∧ thr.pred 0 = true ∧ (on (mk [thr])).pfx = none ∧ AddrReads thr 64 0 0 1 ∧
    (∃ l s1, locateOp (accessAddr (on (mk [thr])) thr 7 0 0 1) 1 1 .read false false false (fun _ => none) (on (mk [thr])) = .ok ((l, none), s1) ∧
      (decide (l.home ≠ 4 ∧ l.coh ≠ 2) && okAnd (readBytes { l with key := lineKey l.key } 1 false s1) fun _ => true) = true) ∧
    (∃ l s1, locateOp (accessAddr onFar thr 7 0 0 1) 1 1 .read false false false (fun _ => none) onFar = .ok ((l, none), s1) ∧
      (decide (l.home ≠ 4 ∧ l.coh = 2 ∧ l.home ≠ 0) && (s1.dirs.find? (·.key == lineKey l.key)).any fun e => e.st == .modified 0 (List.replicate 64 7)) = true) ∧
    (AddrReads atBase 64 0 0 2 ∧ accessAddr onBase atBase 7 0 0 2 = Config.commons ∧
      ∃ l s1, locateOp Config.commons 1 1 .read false false false (fun _ => none) onBase = .ok ((l, none), s1) ∧ l.home = 4) ∧
    (∀ lo hi parks, (lo, hi, parks) ∈ [((0 : Word), (0x1000000 : Word), false), (0x40000, 0xFF000000, true)] → AddrReads (at4 lo hi) 64 0 0 2 ∧
      ∃ e, locateOp (accessAddr (on (mk [at4 lo hi])) (at4 lo hi) 7 0 0 2) 1 1 .read false false false (fun _ => none) (on (mk [at4 lo hi])) = .error e ∧
        ((∃ r, e = .trap r) ∨ ∃ k r, e = .park (accessAddr (on (mk [at4 lo hi])) (at4 lo hi) 7 0 0 2) k r none)) ∧
    ((dead5.cell 5).dead = true ∧ ({ dead5 with x := dead5.x.set 4 { dead := true } } : Thread).pending 4 = false) := by
  refine ⟨ready_thr, rfl, rfl, thr_addr, ?_, ?_, ?_, ?_, by decide +kernel⟩
  · rw [thr_data]; exact of_located (f := fun l s1 => decide (l.home ≠ 4 ∧ l.coh ≠ 2) && okAnd (readBytes { l with key := lineKey l.key } 1 false s1) fun _ => true) (by decide +kernel)
  · rw [show accessAddr onFar thr 7 0 0 1 = dataVa from by decide +kernel]
    exact of_located (s := onFar) (va := dataVa) (n := 1) (kind := .read) (onBlock := false) (watched := false) (by decide +kernel)
  · exact ⟨⟨at4_reads _ _ (by decide), at4_reads _ _ (by decide), fun h => absurd rfl h⟩, base_addr, _, _, base_locates, rfl⟩
  · intro lo hi parks hm
    simp only [List.mem_cons, List.not_mem_nil, or_false] at hm
    refine ⟨⟨at4_reads lo hi (by decide), at4_reads lo hi (by decide), fun h => absurd rfl h⟩, ?_⟩
    rcases hm with h | h <;> cases h
    · exact of_refused (parks := false) (by decide +kernel)
    · exact of_refused (parks := true) (by decide +kernel)

/-- Two threads of a gang: 0 issues, 1 stands at a status and an address. -/
def with1 (st : Status) (pc : DWord) : Team := mk [thr, { thr with tid := 1, status := st, pc := pc }]
theorem ready_with1 (st : Status) (pc : DWord) : Ready (on (with1 st pc)) (1, 0) (with1 st pc) thr := ready rfl rfl rfl rfl rfl rfl rfl rfl (by unfold Thread.Plain; decide +kernel)
/-- The other thread has arrived; waits at another collective; is elsewhere. -/
theorem witness_CollectivesRun :
    (∃ r, collRow none false (.shfl 0 1 2 3 0 true) = some r ∧ (∀ n ∈ r.srcs, thr.Reads 64 n) ∧ (∀ n ∈ r.dsts, thr.Writes 64 n) ∧
      ([(5 : Word)].length = r.dsts.length + (if r.flags || r.pd.isSome then 1 else 0))) ∧ (mk [thr]).declared ≠ 0 ∧
    (Ready (on (mk [{ thr with reply := some [5] }])) (1, 0) (mk [{ thr with reply := some [5] }]) { thr with reply := some [5] }) ∧
    (let tm := with1 (.blocked (.coll false true [7, 0])) 0x10000
     Ready (on tm) (1, 0) tm thr ∧ (peers tm 0 false).filterMap (·.arrivedAt false thr.pc) = [⟨1, true, [7, 0]⟩] ∧ (peers tm 0 false).length = 1 ∧
       (shflResult 0 tm [⟨0, true, [0x20000, 0xFF000000]⟩, ⟨1, true, [7, 0]⟩] 0).length = 1) ∧
    (let tm := with1 (.blocked (.coll false true [7, 0])) 0x10004
     Ready (on tm) (1, 0) tm thr ∧ (peers tm 0 false).filterMap (·.arrivedAt false thr.pc) = [] ∧ (peers tm 0 false).length = 1 ∧ (peers tm 0 false).all (·.atGangColl) = true) ∧
    (let tm := with1 (.fold 0) 0x10000
     Ready (on tm) (1, 0) tm thr ∧ (peers tm 0 false).filterMap (·.arrivedAt false thr.pc) = [] ∧ (peers tm 0 false).length = 1 ∧ (peers tm 0 false).all (·.atGangColl) = false) ∧
    ([⟨0, true, [1]⟩, ⟨1, true, [2]⟩] : List Member).find? (·.tid == 1) = some ⟨1, true, [2]⟩ ∧ 0 < (mk [thr]).width ∧ (mk [thr]).width ≤ 64 :=
  ⟨⟨_, rfl, fun n h => thr_reads (by revert n; decide), fun n h => thr_writes (by revert n; decide), rfl⟩, by decide, ready rfl rfl rfl rfl rfl rfl rfl rfl
    (by unfold Thread.Plain; decide +kernel), ⟨ready_with1 _ _, by decide +kernel⟩, ⟨ready_with1 _ _, by decide +kernel⟩, ⟨ready_with1 _ _, by decide +kernel⟩, by decide +kernel⟩

/-- Two gangs of one thread each, a pool of sixteen words. -/
def gangs2 : Team := { mk [thr, { thr with tid := 1, status := .fold 0 }] with declared := 1, gangs := [{ quota := 8 }, { quota := 8 }], quota0 := 8 }
def waiting2 : Team := { gangs2 with quotaQ := [1], threads := [thr, { thr with tid := 1, status := .blocked (.coll false true [8]) }] }
/-- A quota beyond the pool, a growth with room, one without room, a shrink, one in a handler; a request and its grant. -/
theorem witness_QuotaChangesAndDotChain : Ready (on (mk [thr])) (1, 0) (mk [thr]) thr ∧
    (∀ k < 4, thr.Reads 64 (4 + k) ∧ thr.Reads 64 (8 + k) ∧ 12 ≠ 4 + k ∧ 12 ≠ 8 + k) ∧ thr.Writes 64 12 ∧
    (Ready (on (mk [handling 0])) (1, 0) (mk [handling 0]) (handling 0) ∧ (handling 0).handler ≠ .none) ∧
    (Ready (on gangs2) (1, 0) gangs2 thr ∧ (peers gangs2 0 false).length = 0 ∧ gangs2.pool = 16 ∧ gangs2.width = 1 ∧ gangs2.gangs.length = 2 ∧ gangs2.usedBy 0 = 8 ∧ gangs2.gangLive 1 = true ∧
      gangs2.pool < 16 * 1 + 1 ∧ (15 * 1 + 1 ≤ gangs2.pool ∧ gangs2.pool < 15 * 1 + gangs2.usedBy 0) ∧ ((on gangs2).applyQuota 1 0 8).isSome = true ∧
      ((on gangs2).applyQuota 1 0 3).isSome = true ∧ gangs2.quotaQ = []) ∧
    (let tm := with1 (.fold 0) 0x10000
     Ready (on tm) (1, 0) tm thr ∧ (peers tm 0 false).all (·.atGangColl) = false ∧ (tm.gang 0).quota ≤ 64) ∧
    ((on waiting2).team? 1 = some waiting2 ∧ waiting2.quotaQ = [1] ∧ quotaWanted waiting2 1 = 8 ∧ 8 * waiting2.width + waiting2.usedBy 1 ≤ waiting2.pool ∧
      ((on waiting2).applyQuota 1 1 8).isSome = true) :=
  ⟨ready_thr, fun k h => ⟨thr_reads (by omega), thr_reads (by omega), by omega, by omega⟩, thr_writes (by decide), ⟨ready_handling 0, by decide⟩,
    ⟨ready rfl rfl rfl rfl rfl rfl rfl rfl (by unfold Thread.Plain; decide +kernel), by decide +kernel⟩, ⟨ready_with1 _ _, by decide +kernel⟩, by decide +kernel⟩

/-- The last thread of a team and one of two; a thread that has waited, its phase over or not; the last team of a grid and one of two; phasers and members. -/
def ph (counter next : Word) (mode : Nat) : Phaser := { die := 0, num := 5, counter := counter, members := [{ team := 1, tid := 0, mode := mode, next := next }] }
def onPh (p : Phaser) : State := { on (mk [at4 5 1]) with ctxs := [{ placedCtx with phCount := 6 }], phasers := [p] }
theorem witness_BarriersAndPhasers :
    ((mk [thr]).threads.filter fun o => !o.gone).map (·.tid) = [0] ∧ thr.arrKind ≠ 1 ∧
    (let tm := with1 (.fold 0) 0x10000; ∃ k ∈ (tm.threads.filter fun o => !o.gone).map (·.tid), k ≠ 0 ∧ k ∉ tm.bsignals) ∧
    (((3 : Word) - 3).msb = false ∧ ((3 : Word) - 4).msb = true) ∧
    (∃ g, (on (mk [thr])).grid? 2 = some g ∧ g.lrec.gridsync = true ∧ g.gbar + 1 + g.ended = g.lrec.x * g.lrec.y * g.lrec.z ∧ (mk [thr]).gbarArrived = false ∧
      ({ thr with arrKind := 2, arrVal := 1 } : Thread).arrVal ≠ g.gbarGen ∧
      (let s := ((on (mk [thr])).updThread (1, 0) fun u => { u with arrKind := 2, arrVal := g.gbarGen }).gbarTeam 1
       (s.gridOf (s.team 1)).gbarGen ≠ g.gbarGen)) ∧
    (let s0 : State := { on (mk [thr]) with grids := [{ placedGrid 2 with lrec := { (placedGrid 2).lrec with x := 2 } }] }
     ∃ g, s0.grid? 2 = some g ∧ g.gbar + 1 + g.ended ≠ g.lrec.x * g.lrec.y * g.lrec.z ∧
      (let s := (s0.updThread (1, 0) fun u => { u with arrKind := 2, arrVal := g.gbarGen }).gbarTeam 1
       (s.gridOf (s.team 1)).gbarGen = g.gbarGen)) ∧
    (∀ p, Ready (onPh p) (1, 0) (mk [at4 5 1]) (at4 5 1)) ∧ ((at4 5 1).Reads 64 4 ∧ (at4 5 1).Reads 64 5 ∧ (at4 5 1).Writes 64 63 ∧ ((at4 5 1).reg 4).toNat < 6) ∧
    (((onPh { ph 0 0 1 with num := 4 }).phaser? 0 5).isNone = true) ∧
    (memberOf (onPh (ph 3 3 1)) 0 5 (1, 0) [1, 3] (ph 3 3 1) { team := 1, tid := 0, mode := 1, next := 3 }) ∧
    (memberOf (onPh (ph 3 4 3)) 0 5 (1, 0) [1, 3] (ph 3 4 3) { team := 1, tid := 0, mode := 3, next := 4 }) ∧
    (memberOf (onPh (ph 1 4 2)) 0 5 (1, 0) [2, 3] (ph 1 4 2) { team := 1, tid := 0, mode := 2, next := 4 } ∧ ((1 : Word) - (at4 5 1).reg 5).msb = false ∧
      ((0 : Word) - (at4 5 1).reg 5).msb = true) ∧
    (let p : Phaser := { ph 0 0 1 with signals := 1 }; (p.members.filter fun m => (m.mode == 1 || m.mode == 3) && !m.pending).length = p.signals) := by
  refine ⟨by decide +kernel, by decide, by decide +kernel, by decide, ⟨_, rfl, by decide +kernel⟩, ⟨_, rfl, by decide +kernel⟩,
    fun p => ready rfl rfl rfl rfl rfl rfl rfl (by show thr.mstep.msb = false; rfl) (at4_plain 5 1), ⟨at4_reads 5 1 (by decide), at4_reads 5 1 (by decide), by unfold Thread.Writes; decide +kernel,
    by decide +kernel⟩, by decide +kernel, ⟨rfl, rfl, rfl, by decide⟩, ⟨rfl, rfl, rfl, by decide⟩, ⟨⟨rfl, rfl, rfl, by decide⟩, by decide +kernel, by decide +kernel⟩, by decide +kernel⟩

/-- The lock word is free; another holds it, with room in the FIFO, with this thread waiting, with a full FIFO; this thread holds it, granted, alone, and with a waiter. -/
def me : LockId := { ctxDie := 0, ctx := 1, grid := 0, team := 0, tid := 0 }
def you : LockId := { me with tid := 7 }
def onLock (r : Option LockRec) : State := { on (mk [thr]) with locks := r.toList }
def lockCases : List LockRec := [{ key := 0x20000, holder := some you }, { key := 0x20000, holder := some you, fifo := [me] },
  { key := 0x20000, holder := some you, fifo := List.replicate 1024 you }, { key := 0x20000, holder := some me, granted := true }, { key := 0x20000, holder := some me, fifo := [you] }]
theorem lock_located : ∀ r ∈ none :: lockCases.map some, okAnd (lockLoc 2 (onLock r)) (fun q => q.1.1 == dataVa && q.1.2.key == 0x20000 && q.2.locks == r.toList) = true := by
  decide +kernel
theorem witness_LocksAreQueued :
    (∀ r ∈ none :: lockCases.map some, Ready (onLock r) (1, 0) (mk [thr]) thr ∧ ∃ va loc s1, lockLoc 2 (onLock r) = .ok ((va, loc), s1) ∧ s1.locks = r.toList ∧ loc.key = 0x20000) ∧ thr.quad ≠ .helper ∧
    (∀ k ∈ marksOf (.lock 0 2 true) none, thr.Reads 64 k) ∧ me = { ctxDie := 0, ctx := 1, grid := ((onLock none).gridOf (mk [thr])).num, team := (mk [thr]).num, tid := 0 } ∧ you ≠ me ∧
    ((onLock none).lock? 0x20000 = none) ∧
    (∀ r ∈ lockCases, (onLock (some r)).lock? 0x20000 = some r) ∧
    (onLock (some { key := 0x20000, holder := some you })).nodeWaiters 0x20000 < 1024 ∧
    1024 ≤ (onLock (some { key := 0x20000, holder := some you, fifo := List.replicate 1024 you })).nodeWaiters 0x20000 ∧
    ((on (mk [{ thr with status := .blocked .retry }])).thread (1, 0)).status = .blocked .retry := by
  refine ⟨fun r hr => ⟨ready rfl rfl rfl rfl rfl rfl rfl rfl (by unfold Thread.Plain; decide +kernel), ?_⟩, by decide, fun k h => thr_reads (by revert k; decide), by decide +kernel, by decide,
    rfl, by decide +kernel, by decide +kernel, by decide +kernel, rfl⟩
  obtain ⟨⟨⟨va, l⟩, s1⟩, h, hp⟩ := of_okAnd (lock_located r hr)
  simp only [Bool.and_eq_true, beq_iff_eq] at hp
  exact ⟨va, l, s1, h, hp.2, hp.1.2⟩

/-- A read of n bytes with its alignment, and of what it gives. -/
def readsOf (s : State) (va n al : Nat) (acq : Bool) (p : List Byte → Bool) : Bool :=
  okAnd (locateOp va n al .read false true false (fun _ => none) s) fun r => decide (r.1.2 = none) && okAnd (readBytes r.1.1 n acq r.2) fun q => q.1.2 == 0 && p q.1.1
theorem of_readsOf {s : State} {va n al : Nat} {acq : Bool} {p : List Byte → Bool} (h : readsOf s va n al acq p = true) :
    ∃ l s1 bs s2, locateOp va n al .read false true false (fun _ => none) s = .ok ((l, none), s1) ∧ readBytes l n acq s1 = .ok ((bs, 0), s2) ∧ p bs = true := by
  obtain ⟨⟨⟨l, o⟩, s1⟩, h, hp⟩ := of_okAnd h
  simp only [Bool.and_eq_true, decide_eq_true_eq] at hp
  obtain ⟨rfl, hp⟩ := hp
  obtain ⟨⟨⟨bs, e⟩, s2⟩, h2, hp⟩ := of_okAnd hp
  simp only [Bool.and_eq_true, beq_iff_eq] at hp
  obtain ⟨rfl, hp⟩ := hp
  exact ⟨l, s1, bs, s2, h, h2, hp⟩

/-- A descriptor of four words, in one dimension. -/
def copyDesc : List Byte := record 256 [(0, 8, dataVa), (8, 8, dataVa + 64), (24, 1, 2), (27, 1, 1), (48, 4, 4), (60, 4, 1), (64, 4, 1)]
def copyOf (desc : Nat) : CopyOp :=
  { op := 9, die := 0, core := 0, ctx := 1, who := some (1, 0), desc := desc, sofs := 0, dofs := 0, mode := 0, tag := 0, ectx := 0, k := none, receivers := [1], mask := none, dbytes := copyDesc }
def onCopy (c : CopyOp) : State := { on (mk [thr]) with copies := [c] }
def tracked : Team := { mk [thr] with ectx := (mk [thr]).ectx.set 3 { tl := dataVa, next := 5, scope := 6 } }
theorem witness_CopiesRun : Ready (on (mk [thr])) (1, 0) (mk [thr]) thr ∧ (mk [thr]).uid = 1 ∧ thr.quad ≠ .helper ∧ thr.FlagRoom true ∧ thr.Reads 64 4 ∧ thr.Reads 64 5 ∧
    (thr.infl.all fun f => f.sdsts.all fun e => e.1 != 0 && e.1 != 1) = true ∧ (on (mk [thr])).copies = [] ∧
    numbered (on (mk [thr])) (mk [thr]) 3 none (on (mk [thr])) ∧ (∃ s1, numbered (on tracked) tracked 3 (some 5) s1) ∧
    (∃ l s1 bs s2, locateOp (dataVa + 36) 2 2 .read false true false (fun _ => none) (holding (on (mk [thr])) (record 64 [(36, 2, 1)])) = .ok ((l, none), s1) ∧
      readBytes l 2 false s1 = .ok ((bs, 0), s2) ∧ (natLE bs == 1) = true) ∧ 0 < ((on (mk [thr])).gridOf (mk [thr])).cohortSize ∧
    (∃ c, (onCopy (copyOf 8)).copies.find? (fun c => c.op == 9 && c.held.isNone) = some c ∧ c.doomed = false ∧ c.poisoned = false ∧ c.desc % 64 ≠ 0) ∧
    (let c := copyOf dataVa
     let cd := CopyDesc.parse c.dbytes
     (onCopy c).copies.find? (fun c => c.op == 9 && c.held.isNone) = some c ∧ c.desc % 64 = 0 ∧ c.dbytes ≠ [] ∧ cd.ok c.mode c.mask ((onCopy c).copyTl c) = true ∧
       ∃ w s1, walkRaw ⟨0, 0, 1, 9⟩ c cd [(0, cd.dbase)] (cd.count - c.walk) c.walk [] (onCopy c) = (w, [], .done, s1)) ∧
    (let cd := CopyDesc.parse copyDesc
     (cd.stepAt 0 0 0 cd.dbase 3).out = false ∧ (∃ bs s1, engLoad ⟨0, 0, 1, 9⟩ (cd.stepAt 0 0 0 cd.dbase 3).sa (2 ^ cd.esz) (on (mk [thr])) = .ok (bs, s1)) ∧
     (∃ u s2, engStore ⟨0, 0, 1, 9⟩ (cd.stepAt 0 0 0 cd.dbase 3).da [1, 2, 3, 4] (on (mk [thr])) = .ok (u, s2)) ∧
     cd.dims = [{ ext := 4, bound := 0, origin := 0, sstr := 1, dstr := 1 }] ∧ cd.srot = 0 ∧ cd.drot = 0) := by
  refine ⟨ready_thr, rfl, by decide, thr_room true, thr_reads (by decide), thr_reads (by decide), rfl, rfl, ⟨fun _ => ⟨rfl, rfl⟩, fun h => absurd rfl h⟩,
    ⟨_, fun h => absurd h (by decide +kernel), fun _ => ⟨by decide +kernel, rfl⟩⟩, of_readsOf (by decide +kernel), by decide +kernel, ⟨_, rfl, rfl, rfl, by decide⟩, ?_, by decide +kernel,
    of_ok (by decide +kernel), of_ok (by decide +kernel), by decide +kernel⟩
  refine ⟨rfl, by decide +kernel, by decide +kernel, by decide +kernel, ?_⟩
  have h : (match walkRaw ⟨0, 0, 1, 9⟩ (copyOf dataVa) (CopyDesc.parse (copyOf dataVa).dbytes) [(0, (CopyDesc.parse (copyOf dataVa).dbytes).dbase)]
      ((CopyDesc.parse (copyOf dataVa).dbytes).count - (copyOf dataVa).walk) (copyOf dataVa).walk [] (onCopy (copyOf dataVa)) with
    | (_, [], .done, _) => true | _ => false) = true := by decide +kernel
  split at h
  · rename_i w s1 hw; exact ⟨w, s1, hw⟩
  · cases h

def tagged (tags err : DWord) : Team := { mk [at4 3 0] with tags := tags, tagErr := err }
theorem ready_tagged (tags err : DWord) : Ready (on (tagged tags err)) (1, 0) (tagged tags err) (at4 3 0) :=
  ready rfl rfl rfl rfl rfl rfl rfl (by show thr.mstep.msb = false; rfl) (at4_plain 3 0)
def noteOn : State := { on tracked with notes := [{ op := 8, team := 1, ectx := 3, k := 5, scope := 6 }] }
def opOut : OpOut := { team := some 1, die := 0, ctx := 1, ectx := 3, k := 5, tl := dataVa, scope := 6 }
/-- Tags set and clear, one in error; a timeline above, at and below the operand; a tracked context; a note and its operation. -/
theorem witness_TagsAndTimelines : (∀ tags err, Ready (on (tagged tags err)) (1, 0) (tagged tags err) (at4 3 0)) ∧ (at4 3 0).Reads 64 4 ∧ (at4 3 0).Reads 64 5 ∧ thr.Writes 64 63 ∧
    (at4 3 0).reply = none ∧ ((tagged 1 0).tags &&& pair64 3 0 ≠ pair64 3 0 ∧ (tagged 1 0).tags &&& pair64 3 0 ≠ 0) ∧
    ((tagged 3 0).tags &&& pair64 3 0 = pair64 3 0 ∧ (tagged 3 0).tagErr &&& pair64 3 0 = 0) ∧
    (((tagged 3 2).tagErr &&& pair64 3 0).getLsbD 1 = true ∧ ∀ k < 1, ((tagged 3 2).tagErr &&& pair64 3 0).getLsbD k = false) ∧
    Ready (on (mk [thr])) (1, 0) (mk [thr]) thr ∧ thr.FlagRoom false ∧ (pair64 (thr.reg 2) (thr.reg 3)).toNat = dataVa ∧
    (∀ v ∈ [(0 : Nat), 1], ∃ l s1 bs s2, locateOp dataVa 8 16 .read false true false (fun _ => none) (holding (on (mk [thr])) (record 16 [(0, 8, v)])) = .ok ((l, none), s1) ∧
      readBytes l 8 true s1 = .ok ((bs, 0), s2) ∧ (natLE bs == v) = true) ∧
    (∃ l s1 bs s2, locateOp dataVa 16 16 .read false true false (fun _ => none) (on (mk [thr])) = .ok ((l, none), s1) ∧ readBytes l 16 true s1 = .ok ((bs, 0), s2) ∧ (bs.length == 16) = true) ∧
    (∃ s1, numbered (on tracked) tracked 3 (some 5) s1) ∧ (noteOn.notes.find? (·.op == 8)).isSome = true ∧ noteOn.team? 1 = some tracked ∧
    (∃ bs s1, engLoad ⟨0, 0, 1, (on tracked).nextId⟩ dataVa 8 { on tracked with ops := [], nextId := (on tracked).nextId + 1 } = .ok (bs, s1) ∧
      (decide (natLE bs < 5) && okAnd (engStore ⟨0, 0, 1, (on tracked).nextId⟩ dataVa (bytesLE 8 5) s1) fun _ => true) = true) ∧ opOut.team = some 1 := by
  refine ⟨ready_tagged, at4_reads 3 0 (by decide), at4_reads 3 0 (by decide), thr_writes (by decide), rfl, by decide, by decide, by decide, ready_thr, thr_room false, by decide +kernel, ?_,
    of_readsOf (by decide +kernel), ⟨_, fun h => absurd h (by decide +kernel), fun _ => ⟨by decide +kernel, rfl⟩⟩, by decide, rfl, ?_, rfl⟩
  · intro v hv
    simp only [List.mem_cons, List.not_mem_nil, or_false] at hv
    rcases hv with rfl | rfl
    · exact of_readsOf (by decide +kernel)
    · exact of_readsOf (by decide +kernel)
  · obtain ⟨⟨bs, s1⟩, h, hp⟩ := of_okAnd (e := engLoad ⟨0, 0, 1, (on tracked).nextId⟩ dataVa 8 { on tracked with ops := [], nextId := (on tracked).nextId + 1 })
      (p := fun r => decide (natLE r.1 < 5) && okAnd (engStore ⟨0, 0, 1, (on tracked).nextId⟩ dataVa (bytesLE 8 5) r.2) fun _ => true)
      (by decide +kernel)
    exact ⟨bs, s1, h, hp⟩

-- the matrix engine

def tiled (ts : List Thread) : Team := { mk ts with tiles := List.replicate 2 {} }
theorem ready_team {tm : Team} (hu : tm.uid = 1) (ht : tm.threads = [thr]) (hf : thr.fmode = tm.fmode) (hm : thr.mfmt = tm.mfmt) : Ready (on tm) (1, 0) tm thr :=
  ready rfl rfl hu ht rfl hf hm rfl ready_thr.plain
/-- Set 0 with a size and signers. -/
def setOf (n : Nat) (sg : List Signer) : Team := { tiled [thr] with cv := (tiled [thr]).cv.set 0 { size := n, signers := sg } }
/-- A scratchpad MMA into tile 1; its word, and signatures of it. -/
def mmaIns : Instr := .mma 0 1 0 true false false 8 16
def mmaWord : Nat := (encode mmaIns).getD 0
def signed (w : Nat) (tids : List Nat) : List Signer := tids.map fun k => { tid := k, word := w, payload := none, a := List.replicate 8 0, b := List.replicate 8 0 }
def otherTids : List Nat := (List.range 31).map (· + 1)
def signer0 : Signer := { tid := 0, word := mmaWord, payload := none, a := (List.range 8).map fun k => thr.reg (8 + k), b := (List.range 8).map fun k => thr.reg (16 + k) }
theorem of_okE {ε α : Type} {e : Except ε α} (h : okAnd e (fun _ => true) = true) : ∃ a, e = .ok a := by
  obtain ⟨a, h, -⟩ := of_okAnd h
  exact ⟨a, h⟩
theorem of_errE {ε α : Type} {e : Except ε α} (h : (match e with | .ok _ => false | .error _ => true) = true) : ∃ a, e = .error a := by
  cases e with
  | error r => exact ⟨r, rfl⟩
  | ok _ => cases h

def intOp : MmaOp := { op := 5, team := 1, tile := 0, zero := false, afmt := 23, bfmt := 23, a := [[2, 255]], b := [[3, 4]], ascale := [], bscale := [] }
/-- Sets of size 0, 2 with a signer, 1 and 32; a size of 2000; signers of other words; a released signer; an integer tile's element. -/
theorem witness_MatrixOperations :
    (Ready (on (tiled [thr])) (1, 0) (tiled [thr]) thr ∧ thr.pred 0 = true ∧ (on (tiled [thr])).pfx = none ∧ thr.Reads 64 4 ∧ (thr.reg 4).toNat = 0 ∧
      ((tiled [thr]).cvAt 0).signers = [] ∧ 1 < (tiled [thr]).tiles.length) ∧
    (∀ sg, Ready (on (setOf 2 sg)) (1, 0) (setOf 2 sg) thr) ∧ ((setOf 0 (signed 0 [5])).cvAt 0).signers ≠ [] ∧ (thr.reg 4).toNat = ((setOf 0 (signed 0 [5])).cvAt 0).size ∧
    (thr.reg 4).toNat ≠ ((setOf 2 (signed 0 [5])).cvAt 0).size ∧ (Ready (on (mk [at4 2000 0])) (1, 0) (mk [at4 2000 0]) (at4 2000 0) ∧ 1024 < ((at4 2000 0).reg 4).toNat) ∧
    encode mmaIns = some mmaWord ∧ ({ thr with arrKind := 3 } : Thread).arrKind = 3 ∧ (((setOf 2 []).cvAt 0).signers.all fun o => o.tid != 0) = true ∧ thr.arrKind ≠ 3 ∧
    mmaFormats none false false thr.mfmt = some (10, 10) ∧ (∀ k < 8, thr.Reads 64 (8 + k) ∧ thr.Reads 64 (16 + k)) ∧ readsS thr 2 ∧
    (((setOf 2 []).cvAt 0).signers.length + 1 < ((setOf 2 []).cvAt 0).size) ∧
    (let tm := setOf 32 (signed mmaWord otherTids)
     (tm.cvAt 0).size ≤ (tm.cvAt 0).signers.length + 1 ∧ ∃ s1, mmaComplete (on tm) tm 1 0 true false false (10, 10) ((tm.cvAt 0).signers ++ [signer0]) = .ok s1) ∧
    (let tm := setOf 2 (signed 0 [5])
     (tm.cvAt 0).size ≤ (tm.cvAt 0).signers.length + 1 ∧ ∃ r, mmaComplete (on tm) tm 1 0 true false false (10, 10) ((tm.cvAt 0).signers ++ [signer0]) = .error r) ∧
    (let sg := signed mmaWord (0 :: otherTids)
     (∃ g, g ∈ sg ∧ ∀ o ∈ sg, o.word = g.word ∧ o.payload = g.payload) ∧ fmtPairOk 10 10 = true ∧ ∃ ar as, mmaOperand (on (setOf 32 sg)) (setOf 32 sg) false 10 (·.a) sg = .ok (ar, as)) ∧
    (intOp.afmt = 23 ∧ intOp.zero = false ∧ ({} : Tile).elems.length = 1024 ∧ ({} : Tile).elems[32 * 31 + 31]? = some (0, 0)) := by
  refine ⟨⟨ready_team rfl rfl rfl rfl, rfl, rfl, thr_reads (by decide), by decide +kernel, by decide +kernel, by decide⟩, fun sg => ready_team rfl rfl rfl rfl, by decide +kernel,
    by decide +kernel, by decide +kernel, ⟨ready_at4 _ _, by decide +kernel⟩, by decide +kernel, rfl, by decide +kernel, by decide, by decide +kernel,
    fun k hk => ⟨thr_reads (by omega), thr_reads (by omega)⟩, rfl, by decide +kernel, ⟨by decide +kernel, of_okE (by decide +kernel)⟩, ⟨by decide +kernel, of_errE (by decide +kernel)⟩,
    ⟨⟨(signed mmaWord (0 :: otherTids)).headD signer0, by decide +kernel, by decide +kernel⟩, rfl, of_ok (by decide +kernel)⟩, rfl, rfl, by decide +kernel, by decide +kernel⟩

/-- Core 0's scratchpad holds a tile image: s4:s5 describe it, with rows of 128 bytes. -/
def onTile (tm : Team) : State := { on tm with cores := onSlice.cores }
def imaged : Team := { tiled [thr] with s := ((tiled [thr]).s.set 4 0).set 5 8 }
def image : ScrDesc := ScrDesc.parse 0 8
theorem ready_tile : Ready (onTile imaged) (1, 0) imaged thr := ready rfl rfl rfl rfl rfl rfl rfl rfl ready_thr.plain
theorem image_op (a : XReg) (h : a = 4) (s : State) (hs : s = onTile imaged) : scrDescOp a s = .ok (image, s) := by
  subst h hs; rfl
theorem rows_op (d : ScrDesc) (n : Nat) (s : State) (h : s.scrCheck s.curTeam ((List.range 32).flatMap (d.row · n)) = none) :
    scrRows d n s = .ok ((List.range 32).flatMap (d.row · n), s) := by
  unfold scrRows
  simp only [bind, StateT.bind, get, getThe, MonadStateOf.get, StateT.get, pure, Except.bind, Except.pure, h]
  rfl
theorem image_rows : ∃ offs, scrRows image 128 (onTile imaged) = .ok (offs, onTile imaged) := ⟨_, rows_op _ _ _ (by decide +kernel)⟩
def drainOf (dest : DrainDest) : DrainOp := { op := 9, team := 1, who := (1, 0), data := List.replicate 16 1, dest := dest }
theorem witness_TileMoves : Ready (onTile imaged) (1, 0) imaged thr ∧ imaged.uid = 1 ∧ thr.pred 0 = true ∧ (∀ w, thr.FlagRoom w) ∧ thr.quad ≠ .helper ∧
    (∀ kind : Fin 8, kind ≤ 4 → lateDecode imaged ((onTile imaged).gridOf imaged).lrec.gridsync thr (.mld 0 0 kind 4 20 false) none = none ∧
      lateDecode imaged ((onTile imaged).gridOf imaged).lrec.gridsync thr (.mdrain 0 0 kind 4 20 false) none = none ∧
      marksOf (.mld 0 0 kind 4 20 false) none = [] ∧ marksOf (.mdrain 0 0 kind 4 20 false) none = []) ∧
    (∀ k < 32, thr.Reads 64 (20 + k) ∧ thr.Writes 64 (20 + k)) ∧ drainModeOk 0 false = true ∧ moveFmt none false = 0 ∧
    (scrDescOp 4 (onTile imaged) = .ok (image, onTile imaged) ∧ ∃ offs, scrRows image 128 (onTile imaged) = .ok (offs, onTile imaged)) ∧
    ((pair64 (thr.reg 2) (thr.reg 3)).toNat % 16 = 0 ∧ (thr.reg 20).toNat % 16 = 0 ∧
      (∃ ls s1 rs s2, tileChunks (pair64 (thr.reg 2) (thr.reg 3)).toNat 0 128 .read (on (tiled [thr])) = .ok (ls, s1) ∧ ls.mapM (fun l => readBytes l 16 false) s1 = .ok (rs, s2) ∧ ∀ r ∈ rs, r.2 = 0) ∧
      ∃ ls s1, tileChunks (pair64 (thr.reg 2) (thr.reg 3)).toNat 0 128 .write (on (tiled [thr])) = .ok (ls, s1)) ∧
    (∃ vals s1, drainList 0 (Num.RMode.ofField 0) false false ({} : Tile).elems (onTile imaged) = .ok (vals, s1)) ∧
    (∃ vals s1, drainList 0 (Num.RMode.ofField 0) false false ((({} : Tile).elems.drop (32 * 0)).take 32) (onTile imaged) = .ok (vals, s1)) ∧
    (let w := (thr.reg 5).toNat
     w < 128 ∧ w % 16 < ((onTile imaged).gridOf imaged).cohortSize ∧ w / 16 < imaged.tiles.length) ∧ ((1 : Word).toNat < 65536 ∧ (1 : Word).toNat.testBit ((onTile imaged).rankOfTeam imaged) = true) ∧
    (({} : Tile).elems.length = 1024 ∧ 32 * 31 + (List.replicate 32 0).length ≤ 1024) ∧
    (let s := { onTile imaged with drains := [drainOf (.chunks 16 [(0x20000, 0, 0)])] }
     s.drains.find? (·.op == 9) = some (drainOf (.chunks 16 [(0x20000, 0, 0)])) ∧ s.team? 1 = some imaged ∧ ∃ u s1, drainWrite ⟨0, 0, 1, 9⟩ 16 [(0x20000, 0, 0)] (List.replicate 16 1) s = .ok (u, s1)) := by
  refine ⟨ready_tile, rfl, rfl, thr_room, by decide, by decide +kernel, fun k hk => ⟨thr_reads (by omega), thr_writes (by omega)⟩, rfl, rfl, ⟨image_op 4 rfl _ rfl, image_rows⟩,
    ⟨by decide +kernel, by decide +kernel, ?_, of_ok (by decide +kernel)⟩, of_ok (by decide +kernel), of_ok (by decide +kernel), by decide +kernel, by decide +kernel, by decide +kernel, rfl, rfl,
    of_ok (by decide +kernel)⟩
  obtain ⟨⟨ls, s1⟩, h, hp⟩ := of_okAnd (e := tileChunks (pair64 (thr.reg 2) (thr.reg 3)).toNat 0 128 .read (on (tiled [thr])))
    (p := fun r => okAnd (r.1.mapM (fun l => readBytes l 16 false) r.2) fun q => q.1.all fun x => x.2 == 0) (by decide +kernel)
  obtain ⟨⟨rs, s2⟩, h2, hp⟩ := of_okAnd hp
  exact ⟨ls, s1, rs, s2, h, h2, by simpa using hp⟩

/-- A contribution to tile 0 of rank 0, from it, into the team as given. -/
def adding (isInt : Bool) (mask : Option Nat) (rounds : List PeerRound) : State :=
  { on { tiled [thr] with rounds := rounds } with drains := [{ drainOf (.peer 0 0 mask) with tile := { isInt := isInt } }] }
/-- An MTILE's descriptor: two steps of INT-free FP16 rows into tile 0. -/
def mtileRec : List Byte := record 128 [(0, 8, dataVa + 4096), (8, 8, dataVa + 4096), (60, 4, 2), (64, 4, 2048), (68, 4, 2), (72, 2, 2), (75, 1, 1)]
def stepping (m : Word) (st : Status) : Thread := { thr with mstep := m, status := st }
def mtiling (t : Thread) : State := { holding (onTile (tiled [t])) mtileRec with issue := some { die := 0, core := 0, quarter := 0, pc := 0x10000, todo := [(1, 0)] } }
theorem mtile_desc (t : Thread) (h : okAnd (mtileDesc 0 (mtiling t)) (fun r => r.1.ks == 2 && decide (r.2.thread (1, 0) = t) && decide (r.2.issue = (mtiling t).issue)) = true) :
    ∃ d s1, mtileDesc 0 (mtiling t) = .ok (d, s1) ∧ d.ks = 2 ∧ s1.thread (1, 0) = t ∧ s1.issue = (mtiling t).issue := by
  obtain ⟨⟨d, s1⟩, h, hp⟩ := of_okAnd h
  simp only [Bool.and_eq_true, beq_iff_eq, decide_eq_true_eq] at hp
  exact ⟨d, s1, h, hp.1.1, hp.1.2, hp.2⟩
/-- One rank: a round that is its own, one with another mask, one it has joined, one that waits for rank 1; MSTEP at none, at step 0 and after the last. -/
theorem witness_PeerAddsAndMacroTiles :
    (∀ b m rs, (adding b m rs).drains.find? (·.op == 9) = some { drainOf (.peer 0 0 m) with tile := { isInt := b } } ∧ (adding b m rs).team? 1 = some { tiled [thr] with rounds := rs } ∧
      (adding b m rs).cohortTeam { tiled [thr] with rounds := rs } 0 = some { tiled [thr] with rounds := rs } ∧ (adding b m rs).rankOfTeam { tiled [thr] with rounds := rs } = 0) ∧
    (tiled [thr]).status = .resident ∧ (({} : Tile).isInt = false ∧ ({} : Tile).isInt ≠ true) ∧
    (([{ tile := 0, mask := 5, done := [] }] : List PeerRound).find? (·.tile == 0) = some { tile := 0, mask := 5, done := [] } ∧ 5 ≠ 3) ∧
    (0 ∈ [0] ∧ (∀ q ∈ (List.range 16).filter fun q => Nat.testBit 3 q, 0 ≤ q ∨ q ∈ ([] : List Nat)) ∧ 0 ∉ ([] : List Nat) ∧ (∃ q ∈ (List.range 16).filter fun q => Nat.testBit 3 q, q ≠ 0 ∧ q ∉ ([] : List Nat)) ∧
      ∀ q ∈ (List.range 16).filter fun q => Nat.testBit 1 q, q = 0 ∨ q ∈ ([] : List Nat)) ∧
    (∀ m ∈ [(0 : Word), BitVec.ofNat 32 (2 ^ 31 + 4 * 2 ^ 28 + 0), BitVec.ofNat 32 (2 ^ 31 + 4 * 2 ^ 28 + 2)], ∃ d s1, mtileDesc 0 (mtiling (stepping m .bundled)) = .ok (d, s1) ∧ d.ks = 2 ∧
      s1.thread (1, 0) = stepping m .bundled ∧ s1.issue = (mtiling (stepping m .bundled)).issue) ∧
    ((0 : Word).msb = false ∧ (stepping 0 .bundled).quad ≠ .helper ∧ (stepping 0 .bundled).handler = .none) ∧
    (let t := stepping 0 (.blocked (.mtile 0))
     (mtiling t).team? 1 = some (tiled [t]) ∧ (tiled [t]).threads[0]? = some t ∧ t.status = .blocked (.mtile 0) ∧ t.handler = .none ∧
      ∃ d s1 u s2, mtileDesc 0 (mtiling t) = .ok (d, s1) ∧ 0 < d.ks ∧ mtileOne 0 0 s1 = .ok (u, s2)) := by
  refine ⟨fun b m rs => ⟨rfl, rfl, by with_unfolding_all rfl, rfl⟩, rfl, by decide, by decide, by decide, ?_, by decide, rfl, rfl, rfl, rfl, ?_⟩
  · intro m hm
    simp only [List.mem_cons, List.not_mem_nil, or_false] at hm
    rcases hm with rfl | rfl | rfl <;> exact mtile_desc _ (by decide +kernel)
  · obtain ⟨⟨d, s1⟩, h, hp⟩ := of_okAnd (e := mtileDesc 0 (mtiling (stepping 0 (.blocked (.mtile 0))))) (p := fun r => decide (0 < r.1.ks) && okAnd (mtileOne 0 0 r.2) fun _ => true)
      (by decide +kernel)
    simp only [Bool.and_eq_true, decide_eq_true_eq] at hp
    obtain ⟨u, s2, h2⟩ := of_ok hp.2
    exact ⟨d, s1, u, s2, h, hp.1, h2⟩

-- rays

/-- A TRACE handed off, a ray of the thread, and the pages they name: the ray record at dataVa, the scene at 256 above it, its treelet table at 512. -/
def traceOf : TraceOp := { op := 9, die := 0, core := 0, ctx := 1, who := (1, 0), wait := false, ra := dataVa, sd := dataVa + 256, num := none, scope := 2, node := none, isNode := false }
def rayAt (place : RayPlace) (wait owns : Bool) : Ray :=
  { op := 9, die := 0, core := 0, ctx := 1, who := (1, 0), wait := wait, handle := 7, ra := dataVa, sd := dataVa + 256, num := none, scope := 2, place := place, owns := owns }
def sceneFields (age : Nat) : List (Nat × Nat × Nat) := [(256, 8, dataVa + 512), (264, 4, 1), (284, 4, age), (288, 4, 1), (292, 4, 2), (304, 2, 0xFFFF)]
def treeletFields : List (Nat × Nat × Nat) := [(512, 8, dataVa + 640), (520, 2, 2), (524, 4, 0xFFFFFFFF)]
def rayFields : List (Nat × Nat × Nat) := [(16, 4, 0x3F800000), (28, 4, 0x3F800000)]
def withRec (fields : List (Nat × Nat × Nat)) : State := holding (on (mk [thr])) (record 576 fields)
def tracing (fields : List (Nat × Nat × Nat)) (scenes : List Scene) : State := { withRec fields with traces := [traceOf], scenes := scenes }
def sceneOf (sd age count : Nat) : Scene :=
  { die := 0, ctx := 1, sd := sd, tt := dataVa + 512, count := count, root := 0, it := 0, icount := 0, age := age, maxRays := 1, anyhit := 0xFFFF, chunks := 2 }
/-- The record a hand-off reads, and the scene it reads after it. -/
def scan (s : State) (p : RayRec → State → List Byte → State → Bool) : Bool :=
  okAnd (engLoadBlocks traceOf.master 64 1 traceOf.ra (s.unused (2 ^ 62) []).2) fun r => okAnd (engLoadBlocks traceOf.master 64 4 traceOf.sd r.2) fun d => p (RayRec.parse r.1) r.2 d.1 d.2
theorem of_scan {s : State} {p : RayRec → State → List Byte → State → Bool} (h : scan s p = true) :
    ∃ bs s2 db s4, engLoadBlocks traceOf.master 64 1 traceOf.ra (s.unused (2 ^ 62) []).2 = .ok (bs, s2) ∧ engLoadBlocks traceOf.master 64 4 traceOf.sd s2 = .ok (db, s4) ∧
      p (RayRec.parse bs) s2 db s4 = true := by
  obtain ⟨⟨bs, s2⟩, h, hp⟩ := of_okAnd h
  obtain ⟨⟨db, s4⟩, h2, hq⟩ := of_okAnd hp
  exact ⟨bs, s2, db, s4, h, h2, hq⟩
/-- What a hand-off finds in a fresh record and a well-formed scene: whether the ray is empty, and whether the scene may join now. -/
def joins (empty now : Bool) (rr : RayRec) (s2 : State) (db : List Byte) (s4 : State) : Bool :=
  rr.status == 0 && !rr.bad && contOk s2 traceOf rr.cont && rr.empty == empty && decide (Scene.parse 0 1 (dataVa + 256) db = some (sceneOf (dataVa + 256) 256 1)) &&
    s4.admits (sceneOf (dataVa + 256) 256 1) == some now && s4.scenes.all (·.sd != dataVa + 256) &&
    okAnd (engLoadBlocks traceOf.master 64 1 (dataVa + 512) s4) fun t => natAt t.1 12 4 == 0xFFFFFFFF && t.2.anyhitOk traceOf (sceneOf (dataVa + 256) 256 1) &&
    okAnd (spillHead traceOf.master (sceneOf (dataVa + 256) 256 1) 0 512 t.2) fun p =>
    okAnd (RayRec.write traceOf.master traceOf.ra { rr with status := 1, flags := rr.flags % 2 ^ 15, inst := 0xFFFFFFFF, prim := 0xFFFFFFFF, bary := 0, tree := 0 } p.2)
      fun r => decide (r.2.scenes = s4.scenes)
def hitOf (dec : Nat) : HitOp := { op := 9, die := 0, core := 0, ctx := 1, ca := dataVa + 128, dec := dec }
/-- What a decision finds: its record, and the ray it names. -/
def judges (s : State) (p : List Byte → State → Bool) : Bool := okAnd (engLoadBlocks (hitOf 0).master 32 1 (hitOf 0).ca s) fun r => p r.1 r.2
def hitting (dec : Nat) (rays : List Ray) : State := { withRec [(128, 8, dataVa), (144, 4, 0x3F000000), (152, 4, 3)] with hits := [hitOf dec], rays := rays }
def judgedRay : Ray := { rayAt .judged false true with cands := [{ token := 3, inst := 0, prim := 0, tr := 0x3F000000, bary := 0, user := 0 }] }
def knownBy (bs : List Byte) (r : Ray) : Bool := r.die == 0 && r.ctx == 1 && r.ra == natAt bs 0 8 && r.cands.any (·.token == natAt bs 24 4)
def at4hit : Thread := at4 3 0

/-- The issue of TRACE, its answer, RAYLD and HITRPT; records of each kind and scenes that may, may not yet and never join; a dispatch; a decision; queues. -/
theorem witness_RaysRun :
    (Ready (on (mk [thr])) (1, 0) (mk [thr]) thr ∧ thr.pred 0 = true ∧ thr.quad ≠ .helper ∧ readsS thr 0 ∧ (pair64 (thr.reg 2) (thr.reg 3)).toNat % 64 = 0 ∧ (∀ w, thr.FlagRoom w) ∧ thr.Reads 64 2 ∧
      thr.Reads 64 3 ∧ thr.Writes 64 62 ∧ (pair64 ((mk [thr]).s[0]?.getD 0) ((mk [thr]).s[1]?.getD 0)).toNat % 64 = 0) ∧
    (∃ la s1 lb s2, locateOp (pair64 (thr.reg 2) (thr.reg 3)).toNat 64 64 .write false false false (fun _ => none) (on (mk [thr])) = .ok ((la, none), s1) ∧
      locateOp (pair64 ((mk [thr]).s[0]?.getD 0) ((mk [thr]).s[1]?.getD 0)).toNat 64 64 .read false false false (fun _ => none) s1 = .ok ((lb, none), s2) ∧ s2.teams = (on (mk [thr])).teams ∧
      s2.issue = (on (mk [thr])).issue ∧ s2.rays = [] ∧ (s2.traces.filter fun o => o.die == 0 && o.core == 0).length < 64 ∧ traceNumber s2 (mk [thr]) none none 2 s2) ∧
    (∀ owns, (rayAt (.ended 3) true owns).who = (1, 0) ∧ (rayAt (.ended 3) true owns).ra = (pair64 (thr.reg 2) (thr.reg 3)).toNat ∧ (rayAt (.ended 3) true owns).owns = owns) ∧
    (∃ u s5, engStore (rayAt (.ended 3) true true).master (dataVa + 48) (bytesLE 8 0) (on (mk [thr])) = .ok (u, s5) ∧ s5.rays = []) ∧
    (∃ l s1 bs s2, locateOp ((pair64 (thr.reg 2) (thr.reg 3)).toNat + 16 * 3) 16 16 .read true true false (fun _ => none) (on (mk [thr])) = .ok ((l, none), s1) ∧ readBytes l 16 false s1 = .ok ((bs, 0), s2)) ∧
    (at4hit.Reads 64 4 ∧ 2 < (at4hit.reg 4).toNat ∧ (thr.reg 4).toNat ≤ 2 ∧ (pair64 (thr.reg 4) (thr.reg 2)).toNat % 32 = 0 ∧ (pair64 (at4hit.reg 4) (at4hit.reg 2)).toNat % 32 ≠ 0 ∧
      ∃ l s1, locateOp (pair64 (thr.reg 2) (thr.reg 3)).toNat 32 32 .read false false false (fun _ => none) (on (mk [thr])) = .ok ((l, none), s1) ∧ true = true) ∧
    (∀ f ∈ [[(35, 1, 1)], [(35, 1, 7)]], scan (tracing f []) (fun rr _ _ _ => rr.status == 1 || decide (7 ≤ rr.status)) = true) ∧
    scan (tracing [(32, 2, 32)] []) (fun rr _ _ _ => rr.status == 0 && rr.bad) = true ∧
    scan (tracing rayFields []) (fun rr s2 db _ => rr.status == 0 && !rr.bad && contOk s2 traceOf rr.cont && (Scene.parse 0 1 (dataVa + 256) db).isNone) = true ∧
    (∀ empty now, ∃ bs s2 db s4, engLoadBlocks traceOf.master 64 1 traceOf.ra (State.unused (tracing ((if empty then [] else rayFields) ++ sceneFields 256 ++ treeletFields)
      (if now then [] else [sceneOf 64 256 200])) (2 ^ 62) []).2 = .ok (bs, s2) ∧ engLoadBlocks traceOf.master 64 4 traceOf.sd s2 = .ok (db, s4) ∧ joins empty now (RayRec.parse bs) s2 db s4 = true) ∧
    (∀ b ∈ [0, 1], let r := rayAt (.mill 0 b 0 false) false true
     let s := { withRec (sceneFields 256 ++ treeletFields) with rays := [r], scenes := [sceneOf (dataVa + 256) 256 1] }
     s.ctx? 0 1 = some placedCtx ∧ (s.millRays 0 1 0 b).head? = some r ∧ s.sceneOf r = some (sceneOf (dataVa + 256) 256 1) ∧ s.draw.1 % 2 ∈ [0, 1] ∧
      ∃ tr data s1, s.draw.2.fetchTreelet ⟨0, 0, 1, 9⟩ (sceneOf (dataVa + 256) 256 1) 0 = (.run tr data, s1)) ∧
    judges (hitting 0 []) (fun _ s1 => decide (s1.hits = [hitOf 0]) && s1.rays.isEmpty) = true ∧
    (∀ dec ∈ [0, 1, 2], judges (hitting dec [judgedRay]) (fun bs s1 => decide (s1.hits = [hitOf dec]) && decide (s1.rays.find? (knownBy bs) = some judgedRay) &&
      okAnd (rayRecord judgedRay s1) fun r => decide (r.2.hits = [hitOf dec]) && !r.1.flags.testBit 1) = true) ∧ judgedRay.term = false ∧
    (∃ b, pickQueue 300 256 [⟨64, 0, 5, 200⟩, ⟨64, 1, 1, 100⟩, ⟨64, 2, 9, 250⟩] = some b) := by
  refine ⟨⟨ready_thr, rfl, by decide, rfl, by decide +kernel, thr_room, thr_reads (by decide), thr_reads (by decide), thr_writes (by decide), by decide +kernel⟩, ?_,
    fun owns => ⟨rfl, (by decide +kernel : dataVa = (pair64 (thr.reg 2) (thr.reg 3)).toNat), rfl⟩,
    ?_, of_loads (by decide +kernel), ⟨at4_reads 3 0 (by decide), by decide +kernel, by decide +kernel, by decide +kernel, by decide +kernel, of_located (by decide +kernel)⟩, by decide +kernel, by decide +kernel,
    by decide +kernel, ?_, ?_, by decide +kernel, by decide +kernel, rfl, _, rfl⟩
  · obtain ⟨la, s1, h1, hp⟩ := of_located (s := on (mk [thr])) (va := (pair64 (thr.reg 2) (thr.reg 3)).toNat) (n := 64) (kind := .write) (onBlock := false) (watched := false)
      (f := fun _ s1 => located s1 (pair64 ((mk [thr]).s[0]?.getD 0) ((mk [thr]).s[1]?.getD 0)).toNat 64 .read false false fun _ s2 => decide (s2.teams = (on (mk [thr])).teams) &&
        decide (s2.issue = (on (mk [thr])).issue) && decide (s2.rays = []) && decide ((s2.traces.filter fun o => o.die == 0 && o.core == 0).length < 64)) (by decide +kernel)
    obtain ⟨lb, s2, h2, hp⟩ := of_located hp
    simp only [Bool.and_eq_true, decide_eq_true_eq] at hp
    exact ⟨la, s1, lb, s2, h1, h2, hp.1.1.1, hp.1.1.2, hp.1.2, hp.2, rfl, rfl, rfl⟩
  · obtain ⟨⟨u, s5⟩, h, hp⟩ := of_okAnd (e := engStore (rayAt (.ended 3) true true).master (dataVa + 48) (bytesLE 8 0) (on (mk [thr]))) (p := fun r => decide (r.2.rays = [])) (by decide +kernel)
    exact ⟨u, s5, h, by simpa using hp⟩
  · intro empty now
    cases empty <;> cases now <;> exact of_scan (by decide +kernel)
  · intro b hb
    have h : ∀ b ∈ [0, 1], (match ({ withRec (sceneFields 256 ++ treeletFields) with rays := [rayAt (.mill 0 b 0 false) false true], scenes := [sceneOf (dataVa + 256) 256 1] } : State).draw.2.fetchTreelet
      ⟨0, 0, 1, 9⟩ (sceneOf (dataVa + 256) 256 1) 0 with | (.run _ _, _) => true | _ => false) = true := by decide +kernel
    have hs : ∀ b ∈ [0, 1], ({ withRec (sceneFields 256 ++ treeletFields) with rays := [rayAt (.mill 0 b 0 false) false true], scenes := [sceneOf (dataVa + 256) 256 1] } : State).ctx? 0 1 = some placedCtx ∧
      (({ withRec (sceneFields 256 ++ treeletFields) with rays := [rayAt (.mill 0 b 0 false) false true], scenes := [sceneOf (dataVa + 256) 256 1] } : State).millRays 0 1 0 b).head? = some (rayAt (.mill 0 b 0 false) false true) ∧
      ({ withRec (sceneFields 256 ++ treeletFields) with rays := [rayAt (.mill 0 b 0 false) false true], scenes := [sceneOf (dataVa + 256) 256 1] } : State).sceneOf (rayAt (.mill 0 b 0 false) false true) = some (sceneOf (dataVa + 256) 256 1) := by
      decide +kernel
    refine ⟨(hs b hb).1, (hs b hb).2.1, (hs b hb).2.2, ?_, ?_⟩
    · generalize State.draw _ = d
      rcases Nat.mod_two_eq_zero_or_one d.1 with h | h <;> simp [h]
    replace h := h b hb
    split at h
    · rename_i tr data s1 hw; exact ⟨tr, data, s1, hw⟩
    · cases h

-- textures and pixels

/-- A texture of one texel of format 1 with the weights of a perceptron of one input, for TEX or TEXN. -/
def texFields (neural : Bool) : List (Nat × Nat × Nat) :=
  [(0, 8, dataVa + 256), (8, 2, 1), (10, 2, 1), (12, 2, 1), (14, 1, 1), (15, 1, 1), (40, 8, dataVa + 512)] ++ if neural then [(48, 1, 1), (49, 1, 16)] else []
def texRec (neural : Bool) : TexRec :=
  { base := dataVa + 256, w := 1, h := 1, layers := 1, levels := 1, fmt := 1, bilinear := false, linear := false, modeU := 0, modeV := 0, border := [0, 0, 0, 0]
    weights := dataVa + 512, ni := if neural then 1 else 0, hid := if neural then 16 else 0 }
def texState (f : List (Nat × Nat × Nat)) : State := holding (on (mk [thr])) (record 64 f)
/-- A sample's record and texels. -/
def samples (s : State) (r : TexRec) (p : List Byte → State → Bool) : Bool :=
  located s dataVa 64 .read false true fun l s1 => okAnd (readBytes l 64 false s1) fun q => q.1.2 == 0 && decide (q.2.teams = s.teams) && decide (q.2.issue = s.issue) && q.2.steps == s.steps &&
    okAnd (tapLocs 8 ((r.useLevels 0).flatMap (r.taps (min 0 (r.layers - 1)) 0 0)) q.2) fun v => okAnd (readTaps 1 (r.border.map (Num.decodeVal Num.fp32)) v.1 v.2) fun u =>
      decide (u.1.2 = none) && p q.1.1 u.2
theorem witness_TexturesAreSampled : Ready (on (mk [thr])) (1, 0) (mk [thr]) thr ∧ thr.pred 0 = true ∧ thr.FlagRoom false ∧ (∀ k < 4, thr.Reads 64 (4 + k)) ∧ (∀ k < 4, thr.Writes 64 (60 + k)) ∧
    readsS thr 0 ∧ (pair64 ((mk [thr]).s[0]?.getD 0) ((mk [thr]).s[1]?.getD 0)).toNat = dataVa ∧ (∀ k < 4, (thr.reg (4 + k)).toNat = 0) ∧
    (∀ neural, samples (texState []) (texRec neural) (fun bs _ => decide (TexRec.parse bs neural = none)) = true) ∧
    samples (texState (texFields false)) (texRec false) (fun bs _ => decide (TexRec.parse bs false = some (texRec false))) = true ∧
    samples (texState (texFields true)) (texRec true) (fun bs s5 => decide (TexRec.parse bs true = some (texRec true)) && okAnd (checkPages true 2 (dataVa + 512) 200 s5) fun _ =>
      okAnd (readRange 20 (dataVa + 512) 200 s5) fun r => r.1.2) = true ∧
    located { texState [] with poison := [0x20000] } dataVa 64 .read false true (fun l s1 => okAnd (readBytes l 64 false s1) fun q => q.1.2 != 0) = true := by
  refine ⟨ready_thr, rfl, thr_room false, fun k hk => thr_reads (by omega), fun k hk => thr_writes (by omega), rfl, by decide +kernel, by decide +kernel, ?_, by decide +kernel, by decide +kernel, by decide +kernel⟩
  intro neural; cases neural <;> decide +kernel

/-- A context with a graph of a fragment node, a binner with records, and a rasteriser; a pass of one word, and a triangle over pixel (0, 0). -/
def drawCtx (recs : List (List Byte)) : Context :=
  { placedCtx with tileSlots := 4, graph := some { version := 1, prio := 0, nodes :=
      [{ kind := 1, recSize := 64, cap := 64, batch := 1, succ := [] }, { kind := 2, recSize := 256, cap := 64, batch := 0, succ := [], queue := recs },
       { kind := 3, recSize := 0, cap := 0, batch := 0, succ := [0] }] } }
def pass1 : Pass := { surface := dataVa, width := 2, height := 2, words := 1, load := 0, ops := [1, 0, 0, 0, 0, 0, 0, 0], clears := List.replicate 8 0, tl := 0, ordinal := 1 }
def prim1 (seq : Nat) : Prim :=
  { seq := seq, cull := 0, node := 0, v := [0, 0, 0, 0x3F800000, 0x40000000, 0, 0, 0x3F800000, 0, 0x40000000, 0, 0x3F800000], na := 0, attrs := List.replicate 48 0 }
def frag1 (seq : Nat) (who : Option ThreadId) (ended : Bool) : Frag := { quad := 0, k := 0, prim := prim1 seq, x := 0, y := 0, covered := true, who := who, ended := ended }
def tile1 : TileWork := { tx := 0, ty := 0, owner := 0, prims := [prim1 7], slot := some 0, opened := true }
def gfx1 (frags : List Frag) (tiles : List TileWork) : Gfx := { die := 0, ctx := 1, pass := some pass1, ordinal := 1, cores := [0], frags := frags, tiles := tiles }
def drawing (recs : List (List Byte)) (g : Gfx) : State :=
  { on (mk [thr]) with ctxs := [drawCtx recs], gfx := [g], cores := [{ die := 0, num := 0, tlb := [placedLeaf, dataLeaf], regions := [⟨.tile, 0, 65536, 1⟩] }]
                       grids := [{ placedGrid 2 with node := some 0, lrec := { (placedGrid 2).lrec with quads := false } }] }
theorem ready_drawing (recs : List (List Byte)) (g : Gfx) : Ready (drawing recs g) (1, 0) (mk [thr]) thr := ready rfl rfl rfl rfl rfl rfl rfl rfl ready_thr.plain
def passBytes (fields : List (Nat × Nat × Nat)) : List Byte := record 256 ([(4, 1, 128)] ++ fields)
def passFields : List (Nat × Nat × Nat) := [(64, 8, dataVa), (72, 2, 2), (74, 2, 2), (76, 1, 1), (80, 1, 1)]
def primBytes (cull : Nat) : List Byte := record 256 [(0, 4, 7), (4, 1, cull), (20, 4, 0x3F800000), (24, 4, 0x40000000), (36, 4, 0x3F800000), (44, 4, 0x40000000), (52, 4, 0x3F800000)]
def idle (pass : Option Pass) : Gfx := { die := 0, ctx := 1, pass := pass, ordinal := 0, cores := [0] }
/-- A thread outside a node, one with an open turn, one that waits behind an earlier fragment, one whose turn has ended; records of each kind; a tile; a hand-off; depth. -/
theorem witness_PixelsAreDrawn :
    (Ready (on (mk [thr])) (1, 0) (mk [thr]) thr ∧ (on (mk [thr])).pixelWork (mk [thr]) = false ∧ thr.pred 0 = true ∧ (∀ w, thr.FlagRoom w) ∧ thr.quad ≠ .helper ∧ thr.Reads 64 63 ∧ thr.Writes 64 63) ∧
    (∀ ended, Ready (drawing [] (gfx1 [frag1 7 (some (1, 0)) ended] [tile1])) (1, 0) (mk [thr]) thr ∧ (drawing [] (gfx1 [frag1 7 (some (1, 0)) ended] [tile1])).pixelWork (mk [thr]) = true ∧
      (drawing [] (gfx1 [frag1 7 (some (1, 0)) ended] [tile1])).fragOf (mk [thr]) 0 = some (gfx1 [frag1 7 (some (1, 0)) ended] [tile1], frag1 7 (some (1, 0)) ended)) ∧
    (pass1.words < 1 + 1 ∧ pass1.words < 2 ∧ 0 < pass1.words ∧ 1 ≤ pass1.words) ∧
    ((drawing [] (gfx1 [frag1 7 (some (1, 0)) false] [tile1])).turnOpen (gfx1 [frag1 7 (some (1, 0)) false] [tile1]) (frag1 7 (some (1, 0)) false) = true ∧
      ∃ k s1, pixelWord (gfx1 [frag1 7 (some (1, 0)) false] [tile1]) pass1 0 0 0 (drawing [] (gfx1 [frag1 7 (some (1, 0)) false] [tile1])) = .ok (k, s1) ∧
        s1.teams = [mk [thr]] ∧ s1.issue = (on (mk [thr])).issue ∧ s1.steps = 0 ∧ s1.blends = []) ∧
    (let g := gfx1 [frag1 3 none false, frag1 7 (some (1, 0)) false] [tile1]
     (drawing [] g).fragOf (mk [thr]) 0 = some (g, frag1 7 (some (1, 0)) false) ∧ (drawing [] g).turnOpen g (frag1 7 (some (1, 0)) false) = false) ∧
    (∀ ps ∈ [none, some pass1], ∀ f ∈ [[], (64, 8, dataVa) :: [], passFields], ∃ g : Gfx, g.held = none ∧ g.pass = ps ∧
      let s := drawing [passBytes f] g
      s.binnerHead 0 1 = some (1, passBytes f) ∧ s.gfx? 0 1 = some g ∧ isPass (passBytes f) = true ∧ (s.setGfx g).drained g = true ∧ (∀ p, g.pass = some p → ∃ u s1, endPass g p (s.setGfx g) = .ok (u, s1))) ∧
    natAt (passBytes []) 64 8 = 0 ∧ Pass.parse (passBytes [(64, 8, dataVa)]) 1 = none ∧ (∃ ps, Pass.parse (passBytes passFields) 1 = some ps ∧ ps.words ≤ (drawCtx []).tileSlots) ∧ (drawCtx []).part ≠ [] ∧
    (∃ s3, (drawing [] (idle none)).setupTiles (drawCtx []) (drawCtx []).part = some s3) ∧
    (∀ c ∈ [0, 4], let s := drawing [primBytes c] (idle (some pass1))
      s.binnerHead 0 1 = some (1, primBytes c) ∧ s.gfx? 0 1 = some (idle (some pass1)) ∧ isPass (primBytes c) = false ∧ (Prim.parse (primBytes c) [0] (fun i => i == 0) none).isSome = (c == 0)) ∧
    (let g := gfx1 [] [tile1]
     let s := drawing [] g
     s.gfx? 0 1 = some g ∧ g.held = none ∧ g.tile? 0 0 = some tile1 ∧ tile1.prims = prim1 7 :: [] ∧ openTile g pass1 tile1 s = .ok ((), s)) ∧
    ([5, 1][0]? = some 5 ∧ depthPass false 0x3F000000 0x3F800000 = true ∧ depthPass true 0x3F800000 0x3F800000 = true ∧ depthPass false 0x3F800000 0x3F800000 = false) := by
  refine ⟨⟨ready_thr, rfl, rfl, thr_room, by decide, thr_reads (by decide), thr_writes (by decide)⟩, fun ended => ⟨ready_drawing _ _, rfl, rfl⟩, by decide, ⟨by decide +kernel, _, _, rfl, rfl, rfl, rfl, rfl⟩,
    ⟨rfl, by decide +kernel⟩, ?_, by decide +kernel, by decide +kernel, ⟨_, rfl, by decide +kernel⟩, by decide, ⟨_, rfl⟩, ?_, ⟨rfl, rfl, rfl, rfl, rfl⟩, by decide +kernel⟩
  · intro ps hps f hf
    refine ⟨idle ps, rfl, rfl, ?_⟩
    simp only [List.mem_cons, List.not_mem_nil, or_false] at hps hf
    rcases hps with rfl | rfl <;> rcases hf with rfl | rfl | rfl <;>
      exact ⟨rfl, rfl, by decide +kernel, by decide +kernel, fun p hp => by cases hp <;> exact of_ok (by decide +kernel)⟩
  · intro c hc
    simp only [List.mem_cons, List.not_mem_nil, or_false] at hc
    rcases hc with rfl | rfl <;> exact ⟨rfl, rfl, by decide +kernel, by decide +kernel⟩

-- launches, emitted records, queues and their commands

/-- A launch record of one team of one thread, at dataVa. -/
def launchFields : List (Nat × Nat × Nat) := [(0, 8, placedAt), (8, 4, 1), (12, 4, 1), (16, 4, 1), (20, 2, 1), (22, 1, 4), (23, 1, 1), (26, 1, 64)]
def launching (f : List (Nat × Nat × Nat)) : State := holding (on (mk [thr])) (record 64 f)
def launches (s : State) (p : List Byte → Nat → Bool) : Bool :=
  okAnd (readRange 2 dataVa 64 s) fun r => decide (r.2.teams = s.teams) && decide (r.2.grids = s.grids) && decide (r.2.ctxs = s.ctxs) && decide (r.2.issue = s.issue) &&
    p r.1.1 (launchStatus (s.ctxOf (mk [thr])) 1 r.1.1 [] (r.1.2 && true) (s.gridOf (mk [thr])).depth)
def tid1 : Thread := { thr with tid := 1 }
def second : State := { on (mk [thr, tid1]) with issue := some { die := 0, core := 0, quarter := 0, pc := 0x10000, todo := [(1, 1)], num := 3 } }
/-- A team of node 0, whose records may go to itself: a queue with room, or with none. -/
def emitting (cap : Nat) : State :=
  { on (mk [thr]) with ctxs := [{ placedCtx with graph := some { version := 1, prio := 0, nodes := [{ kind := 1, recSize := 64, cap := cap, batch := 1, succ := [0] }] } }]
                       grids := [{ placedGrid 2 with node := some 0, lrec := { (placedGrid 2).lrec with quads := false } }] }
def emitted : EmitOp := { op := 9, who := (1, 0), ctxDie := 0, ctx := 1, va := dataVa, size := 64, node := 0 }
theorem witness_LaunchesAndEmits :
    (Ready (on (mk [thr])) (1, 0) (mk [thr]) thr ∧ thr.pred 0 = true ∧ thr.quad ≠ .helper ∧ thr.Reads 64 2 ∧ thr.Reads 64 3 ∧ thr.Writes 64 63 ∧ (pair64 (thr.reg 2) (thr.reg 3)).toNat = dataVa ∧ dataVa % 64 = 0) ∧
    Ready second (1, 1) (mk [thr, tid1]) tid1 ∧ (pair64 (thr.reg 3) (thr.reg 2)).toNat % 64 = 0 ∧ (pair64 (0x20001 : Word) 0xFF000000).toNat % 64 ≠ 0 ∧
    launches (launching launchFields) (fun bs st => natAt bs 40 8 == 0 && st == 0) = true ∧ launches (launching []) (fun bs st => natAt bs 40 8 == 0 && st == 1) = true ∧
    ((∀ g ∈ (on (mk [thr])).grids, g.parentTeam ≠ some 1) ∧ ∃ g ∈ [{ placedGrid 4 with parentTeam := some 1 }], g.parentTeam = some 1) ∧
    (thr.FlagRoom true ∧ ((on (mk [thr])).gridOf (mk [thr])).node = none ∧ (thr.reg 4).toNat = 0 ∧ 65536 ≤ (thr.reg 2).toNat) ∧
    (∀ cap ∈ [0, 64], Ready (emitting cap) (1, 0) (mk [thr]) thr ∧ ((emitting cap).gridOf (mk [thr])).node = some 0 ∧ ((emitting cap).node? 0 1 0).isSome = true ∧
      okAnd (checkPages false 2 dataVa 64 (emitting cap)) (fun r => decide (r.2.teams = (emitting cap).teams) && decide (r.2.issue = (emitting cap).issue) && r.2.steps == 0 &&
        r.2.nodeRoom 0 1 0 == (cap == 64)) = true) ∧
    (∃ bs s1, feBytes ⟨((emitting 64).team 1).die, ((emitting 64).team 1).core, 1, 9⟩ emitted.va emitted.size { emitting 64 with emits := [emitted] } = .ok (bs, s1) ∧ decide (s1.emits = [emitted]) = true) := by
  refine ⟨⟨ready_thr, rfl, by decide, thr_reads (by decide), thr_reads (by decide), thr_writes (by decide), by decide +kernel, by decide⟩,
    { cur := rfl, team := rfl, thread := rfl, tid := rfl, fmode := rfl, mfmt := rfl, mstep := rfl, plain := by unfold Thread.Plain; decide +kernel }, by decide +kernel, by decide, by decide +kernel, by decide +kernel, ⟨by decide +kernel, by decide +kernel⟩,
    ⟨thr_room true, by decide +kernel, by decide +kernel, by decide +kernel⟩, ?_, ?_⟩
  · intro cap hc
    simp only [List.mem_cons, List.not_mem_nil, or_false] at hc
    rcases hc with rfl | rfl <;> exact ⟨ready rfl rfl rfl rfl rfl rfl rfl rfl ready_thr.plain, by decide +kernel, by decide +kernel, by decide +kernel⟩
  · obtain ⟨⟨bs, s1⟩, h, hp⟩ := of_okAnd (e := feBytes ⟨((emitting 64).team 1).die, ((emitting 64).team 1).core, 1, 9⟩ emitted.va emitted.size { emitting 64 with emits := [emitted] })
      (p := fun r => decide (r.2.emits = [emitted])) (by decide +kernel)
    exact ⟨bs, s1, h, hp⟩

/-- A queue of context 1, and the front end's state around it, with bytes on the data page. -/
def queueOf (die : Nat) (cmds : List Cmd) : Queue := { uid := 20, die := die, num := 3, ctx := 1, base := dataVa, k := 4, prio := 1, vector := 0, ctl := 0, statusAddr := 0, head := 0, tail := 2, cmds := cmds }
def served (x : Context) (q : Queue) (bs : List Byte) : State :=
  { holding (on (mk [thr])) bs with ctxs := [x], queues := [q], cores := [{ die := 0, num := 0, tlb := [placedLeaf, dataLeaf] }, { die := 0, num := 0xFFFF, tlb := [dataLeaf] }]
                                    dies := [Die.resetP, { Die.resetD 1 true with present := true }, Die.resetD 2 false] }
/-- A slot with its seal (R63). -/
def slotOf (fields : List (Nat × Nat × Nat)) : List Byte := let b := record 60 fields; b ++ bytesLE 4 (crc32c (b ++ [0, 0, 0, 0]))
theorem witness_QueuesAreRead :
    (let s := served placedCtx (queueOf 0 []) []
     s.queueNo 0 3 = some (queueOf 0 []) ∧ s.canRead (queueOf 0 []) = true ∧ (queueOf 0 []).stopped = none ∧ queueOf 0 [] ∈ s.queues ∧ (∀ o ∈ s.queues, o = queueOf 0 []) ∧ (queueOf 0 []).rereads = 0) ∧
    (let bad (tail : Nat) := 2 ^ 4 < (tail + 2 ^ 32 - 0) % 2 ^ 32 ∨ 2 ^ 31 ≤ (tail + 2 ^ 32 - 2) % 2 ^ 32
     ¬ bad 16 ∧ bad 17 ∧ bad 1 ∧ ({ queueOf 0 [] with stopped := some 4 } : Queue).stopped ≠ none) ∧
    (∀ ok, okAnd (engLoadBlocks (feMaster 0 1) 64 1 (dataVa + 64 * (0 % 2 ^ 4)) (served placedCtx (queueOf 0 []) (if ok then slotOf [] else []))) (fun r =>
      decide (natAt r.1 60 4 = crc32c (r.1.take 60 ++ [0, 0, 0, 0]) ∧ natAt r.1 4 4 = 0) == ok) = true) ∧
    (∀ n ∈ [3, 7], let q := { queueOf 0 [] with rereads := n }
      (served placedCtx q []).queueNo 0 3 = some q ∧ (served placedCtx q []).canRead q = true ∧ q.rereads ≠ 0) ∧
    ({ queueOf 0 [] with starved := true } : Queue).before (queueOf 0 []) = true ∧
    (∀ k ∈ [0, 9], (served placedCtx (queueOf 0 [{ idx := 5, slot := slotOf [(0, 1, k)] }]) []).startable 0 3 5 (fun k => k == 0 || 9 ≤ k) =
      some (queueOf 0 [{ idx := 5, slot := slotOf [(0, 1, k)] }], { idx := 5, slot := slotOf [(0, 1, k)] }, placedCtx)) := by
  refine ⟨⟨by decide +kernel, by decide +kernel, rfl, List.mem_singleton.mpr rfl, fun o h => List.mem_singleton.mp h, rfl⟩, by decide, ?_, by decide +kernel, by decide +kernel, by decide +kernel⟩
  intro ok; cases ok <;> decide +kernel

/-- A command, the context it starts for, and what it finds. -/
def command (x : Context) (fields : List (Nat × Nat × Nat)) (bs : List Byte) (p : State → Queue → Cmd → Context → Bool) : Bool :=
  let c : Cmd := { idx := 5, slot := slotOf fields }
  let s := served x (queueOf x.die [c]) bs
  decide (s.startable x.die 3 5 (· == natAt c.slot 0 1) = some (queueOf x.die [c], c, x)) && p s (queueOf x.die [c]) c x
def graphBytes : List Byte := record 192 [(0, 2, 1), (8, 8, dataVa + 64), (24, 8, dataVa), (32, 4, 4), (72, 1, 2), (74, 2, 256), (76, 4, 64), (136, 8, dataVa)]
def readsGraph (count : Nat) (p : Bool) (s : State) (x : Context) : Bool :=
  okAnd (readGraph (feMaster 0 1) x dataVa (if count == 0 then 0 else dataVa + 128) count s) fun r => r.1.isSome == p
def onD : Context := { placedCtx with die := 1, checkpoint := true, migratable := true }
def tracked3 : Context := { placedCtx with ectx := placedCtx.ectx.set 3 { tl := dataVa, next := 5, scope := 6 } }
def launchedState (x : Context) (f : List (Nat × Nat × Nat)) : State := served x (queueOf 0 [{ idx := 5, slot := [], st := some (.launching dataVa 0 1 none false) }]) (record 64 f)
def launched (x : Context) (f : List (Nat × Nat × Nat)) (st : Nat) : Bool :=
  let s := launchedState x f
  decide (s.queue? 20 = some (queueOf 0 [{ idx := 5, slot := [], st := some (.launching dataVa 0 1 none false) }])) && okAnd (feBytes (feMaster 0 1) dataVa 64 s) fun r =>
    natAt r.1 40 8 == 0 && launchStatus x 1 r.1 [] true 0 == st
/-- Each command with a body out of range and in range, in the contexts and over the memory that send it each way. -/
theorem witness_CommandsRun :
    (let q := queueOf 0 [{ idx := 4, slot := slotOf [], st := some .done }, { idx := 5, slot := slotOf [(0, 1, 5), (1, 1, 1)] }]
     (served placedCtx q []).queueNo 0 3 = some q ∧ q.cmds = [{ idx := 4, slot := slotOf [], st := some .done }] ++ { idx := 5, slot := slotOf [(0, 1, 5), (1, 1, 1)] } :: [] ∧
      (served placedCtx q []).ctx? q.die q.ctx = some placedCtx ∧ natAt (slotOf [(0, 1, 5), (1, 1, 1)]) 0 1 = 5 ∧ (5 + 2 ^ 32 - 4) % 2 ^ 32 < 64 ∧ placedCtx.migrating = none ∧ placedCtx.ckpt = 0) ∧
    (command placedCtx [(0, 1, 1), (56, 1, 1)] [] (fun _ _ c _ => !slotPlain c.slot 24) &&
      command placedCtx [(0, 1, 1), (8, 8, dataVa)] [] (fun s _ c x => slotPlain c.slot 24 && natAt c.slot 16 8 == 0 && decide ((s.sealVersion x.die x.num).ctx? x.die x.num = some x)) &&
      command placedCtx [(0, 1, 1), (16, 8, placedAt)] [] (fun _ _ c x => slotPlain c.slot 24 && !x.isEntry x.current (natAt c.slot 16 8) .prologue) &&
      command { placedCtx with versions := [{ num := 1, ranges := [(placedAt, 4096)], entries := [{ addr := placedAt, kind := .prologue }] }] } [(0, 1, 1), (16, 8, placedAt)] []
        (fun s _ c x => slotPlain c.slot 24 && x.isEntry x.current (natAt c.slot 16 8) .prologue && decide ((s.sealVersion x.die x.num).ctx? x.die x.num = some x))) = true ∧
    (command (drawCtx [[]]) [(0, 1, 2)] [] (fun s _ _ x => match x.graph with | some g => !s.graphIdle x.die x.num g | none => false) &&
      command placedCtx [(0, 1, 2), (56, 1, 1)] [] (fun _ _ c x => x.graph.isNone && !slotPlain c.slot 28) &&
      command placedCtx [(0, 1, 2), (8, 8, dataVa)] [] (fun s _ c x => slotPlain c.slot 28 && readsGraph 0 false s x) &&
      command placedCtx [(0, 1, 2), (8, 8, dataVa)] graphBytes (fun s _ c x => slotPlain c.slot 28 && readsGraph 0 true s x) &&
      command placedCtx [(0, 1, 2), (8, 8, dataVa), (16, 8, dataVa + 128), (24, 4, 1)] graphBytes (fun s _ c x => slotPlain c.slot 28 && readsGraph 1 true s x)) = true ∧
    (command placedCtx [(0, 1, 3), (16, 2, 16)] [] (fun _ _ c _ => decide (16 ≤ natAt c.slot 16 2)) &&
      command placedCtx [(0, 1, 3), (16, 2, 3)] [] (fun _ _ c x => slotPlain c.slot 19 && x.ectx[3].tl == 0) && command tracked3 [(0, 1, 3), (16, 2, 3)] [] (fun _ _ _ x => x.ectx[3].tl != 0) &&
      command placedCtx [(0, 1, 3), (8, 8, dataVa), (16, 2, 3)] [] (fun s _ c _ => natAt c.slot 8 8 % 64 == 0 && okAnd (engLoadBlocks (feMaster 0 1) 64 4 (natAt c.slot 8 8) s) fun _ => true) &&
      command placedCtx [(0, 1, 3), (8, 8, dataVa + 4), (16, 2, 3)] [] (fun _ _ c _ => natAt c.slot 8 8 % 64 != 0)) = true ∧
    (command placedCtx [(0, 1, 4), (8, 8, 8)] [] (fun _ _ c _ => natAt c.slot 8 8 % 16 != 0) &&
      [0, 1].all fun v => command placedCtx [(0, 1, 4), (8, 8, dataVa), (16, 8, 1)] (record 8 [(0, 8, v)]) fun s q c _ => slotPlain c.slot 24 &&
        okAnd (engLoad (feMaster 0 1) dataVa 8 (s.setCmd q.uid c.idx (.waiting dataVa 1))) fun r => natLE r.1 == v) = true ∧
    (let q := queueOf 0 [{ idx := 5, slot := [], st := some (.waiting dataVa 1) }]
     (served placedCtx q []).queues.find? (fun x => x.die == 0 && x.num == 3) = some q ∧ (q.cmd? 5).bind (·.st) = some (.waiting dataVa 1) ∧ q.held = none ∧
      [0, 1].all (fun v => okAnd (engLoad (feMaster 0 1) dataVa 8 (served placedCtx q (record 8 [(0, 8, v)]))) fun r => natLE r.1 == v) = true) ∧
    (command placedCtx [(0, 1, 5), (8, 8, 8)] [] (fun _ _ c _ => natAt c.slot 8 8 % 16 != 0) &&
      [0, 1].all fun v => command placedCtx [(0, 1, 5), (8, 8, dataVa), (16, 8, 1)] (record 8 [(0, 8, v)]) fun s _ c _ => slotPlain c.slot 24 &&
        okAnd (engLoad (feMaster 0 1) dataVa 8 s) fun r => natLE r.1 == v && okAnd (engStore (feMaster 0 1) dataVa (bytesLE 8 1) r.2) fun _ => true) = true ∧
    (command placedCtx [(0, 1, 6), (56, 1, 1)] [] (fun _ _ c _ => !slotPlain c.slot 24) && command placedCtx [(0, 1, 6)] [] (fun _ _ c _ => slotPlain c.slot 24)) = true ∧
    (command placedCtx [(0, 1, 7), (56, 1, 1)] [] (fun _ _ c _ => !slotPlain c.slot 8) && command placedCtx [(0, 1, 7)] [] (fun _ _ c x => slotPlain c.slot 8 && x.die == 0) &&
      command onD [(0, 1, 7)] [] (fun _ _ c x => slotPlain c.slot 8 && x.die != 0 && x.checkpoint && !x.failed)) = true ∧
    (command onD [(0, 1, 8), (8, 1, 3)] [] (fun _ _ c _ => decide (3 ≤ natAt c.slot 8 1)) && command onD [(0, 1, 8), (8, 1, 2)] [] (fun s _ c _ => slotPlain c.slot 9 && !s.present 2) &&
      command placedCtx [(0, 1, 8), (8, 1, 1)] [] (fun s _ _ x => s.present 1 && !x.migratable) && command onD [(0, 1, 8), (8, 1, 1)] [] (fun s _ _ x => s.present 1 && x.die == 1) &&
      [true, false].all fun b => command { onD with failed := b } [(0, 1, 8)] [] (fun s _ _ x => s.present 0 && x.die != 0 && x.migratable && x.failed == b)) = true ∧
    (dataVa + 4) % 64 ≠ 0 ∧ launched placedCtx launchFields 0 = true ∧ launched placedCtx [] 1 = true ∧ launched { placedCtx with part := [] } launchFields (2 + 2) = true := by
  decide +kernel

-- the mailbox

/-- A die whose scheduler core has a request, and the machine around it with bytes at 0x1000 of host memory. -/
def asker (die core code : Nat) (fields : List (Nat × Nat × Nat)) : Die :=
  let d := if die = 0 then Die.resetP else Die.resetD die true
  { d with boot := .running, mail := d.mail.setIfInBounds core { req := record 64 ((0, 2, code) :: fields), busy := true } }
def asking (d : Die) (host : List Byte) : State :=
  { State.reset with dies := [d, Die.resetD 2 false], ctxs := [placedCtx], mem := Memory.write [] (physKey 3 0x1000) host }
/-- Whether a request stands before the firmware, all reserved bytes 0. -/
def stands (die core code used : Nat) (fields : List (Nat × Nat × Nat)) : Bool :=
  let d := asker die core code fields
  decide ((asking d []).die? die = some d) && d.serves && d.runs core && (d.mailbox core).busy && natAt (d.mailbox core).req 0 2 == code && d.waiting.isEmpty && zeroAt (d.mailbox core).req 4 4 &&
    zeroAt (d.mailbox core).req (8 + used) (56 - used)
theorem of_stands {die core code used : Nat} {fields : List (Nat × Nat × Nat)} {s : State} (h : stands die core code used fields = true) (hs : s.dies = (asking (asker die core code fields) []).dies) :
    Asked s die core code used (asker die core code fields) ((asker die core code fields).mailbox core).req := by
  simp only [stands, Bool.and_eq_true, decide_eq_true_eq, beq_iff_eq, List.isEmpty_iff] at h
  obtain ⟨⟨⟨⟨⟨⟨⟨h1, h2⟩, hr⟩, h3⟩, h4⟩, h5⟩, h6⟩, h7⟩ := h
  exact ⟨by simpa [State.die?, hs] using h1, h2, hr, h3, rfl, h4, by simp [h5], h6, h7⟩
def queueRec : List Byte := record 64 [(8, 1, 4), (12, 2, 1)]
def stoppedQueue : Queue := { queueOf 0 [] with stopped := some 4 }
/-- Requests with each function's fields, descriptors within and beyond their limits, queues that stop and run, counts at and below the limits. -/
theorem witness_MailboxServesQueues :
    (∀ x ∈ [(0, 0, 1, 8), (0, 0, 2, 8), (0, 0, 3, 16), (0, 1, 16, 16), (0, 1, 17, 8), (0, 1, 18, 16), (0, 1, 19, 8), (0, 1, 20, 8), (0, 2, 32, 16), (0, 4, 64, 16), (0, 4, 65, 9), (0, 5, 80, 16), (1, 5, 80, 16), (0, 5, 81, 0),
      (0, 5, 82, 8), (0, 6, 96, 8), (1, 6, 96, 8), (0, 6, 97, 8), (0, 6, 98, 8), (1, 6, 98, 8), (0, 7, 112, 16), (0, 7, 113, 24)], stands x.1 x.2.1 x.2.2.1 x.2.2.2 [] = true) ∧
    (zeroAt ((asker 0 0 1 [(16, 1, 1)]).mailbox 0).req 16 48 = false ∧ natAt ((asker 0 3 9 []).mailbox 3).req 0 2 ∉ functionCodes 0 3) ∧
    (({ asking (asker 0 0 1 []) [] with dies := [asker 0 0 1 []] }).dies = [asker 0 0 1 []] ∧ (asker 0 0 1 []).code = 0 ∧ ((asker 0 0 1 []).mailbox 0).busy = true) ∧
    (let s := asking (asker 0 0 1 [(8, 8, 0x1000)]) queueRec
     let b := s.hostBytes (natAt ((asker 0 0 1 [(8, 8, 0x1000)]).mailbox 0).req 8 8) 64
     stands 0 0 1 8 [(8, 8, 0x1000)] = true ∧ queueDescOk b = true ∧ s.ctx? 0 (natAt b 12 2) ≠ none ∧ (s.queues.countP fun q => q.die == 0 && q.ctx == natAt b 12 2) < 16 ∧ (s.queues.countP (·.die == 0)) < 16384 ∧
      ∃ num s1, s.freeQueueNo 0 [] = (num, s1)) ∧
    (queueDescOk ((asking (asker 0 0 1 []) []).hostBytes 0x1000 64) = false ∧ 16 ≤ ((List.replicate 16 (queueOf 0 [])).countP fun q => q.die == 0 && q.ctx == 1)) ∧
    (stands 0 0 2 8 [(8, 8, 3)] = true ∧ ({ asking (asker 0 0 2 [(8, 8, 3)]) [] with queues := [queueOf 0 []] }).queueNo 0 3 = some (queueOf 0 []) ∧ (asking (asker 0 0 2 [(8, 8, 3)]) []).queueNo 0 3 = none) ∧
    (stands 0 0 3 16 [(8, 8, 3), (16, 8, 2)] = true ∧ (queueOf 0 []).stopped = none ∧ ({ asking (asker 0 0 3 []) [] with queues := [stoppedQueue] }).queueNo 0 3 = some stoppedQueue ∧ stoppedQueue.stopped ≠ none ∧
      (let outside (h : Nat) := 2 ^ 32 ≤ h ∨ (stoppedQueue.tail + 2 ^ 32 - stoppedQueue.head) % 2 ^ 32 < (h + 2 ^ 32 - stoppedQueue.head) % 2 ^ 32
       ¬ outside 2 ∧ outside 3 ∧ outside (2 ^ 32)) ∧ stoppedQueue.cmds = []) := by
  refine ⟨by decide +kernel, by decide +kernel, ⟨rfl, rfl, by decide +kernel⟩, ⟨by decide +kernel, by decide +kernel, by decide +kernel, by decide +kernel, by decide +kernel, _, _, rfl⟩, by decide +kernel,
    by decide +kernel, by decide +kernel⟩

theorem untracked (m : Master) (es : List ECtxRec) (s : State) (h : ∀ e ∈ es, e.tl = 0) : ∃ r, readEctx m es s = .ok (r, s) := by
  induction es with
  | nil => exact ⟨[], rfl⟩
  | cons e es ih =>
    obtain ⟨r, hr⟩ := ih fun o ho => h o (by simp [ho])
    refine ⟨{ tl := e.tl, next := BitVec.ofNat 64 0, scope := e.scope } :: r, ?_⟩
    simp only [readEctx, h e (by simp), beq_self_eq_true, if_true]
    simp only [bind, StateT.bind, pure, StateT.pure, Except.pure, Except.bind, hr]
theorem first_context (v : State) (h : v.ctxs = []) : v.freeContext 0 = some (v.unused 4096 [0]) := by
  simp only [State.freeContext, h]
  rfl
/-- Without contexts, a number is free and no phaser is taken. -/
theorem creates (s : State) (h : s.ctxs = []) : ∃ dr s1 num s2 load s3, s.draw = (dr, s1) ∧ s1.freeContext 0 = some (num, s2) ∧ s2.draw = (load, s3) ∧ s3.ctxs = [] ∧ s3.phasersFree 0 0 0 = true := by
  refine ⟨_, _, (s.draw.2.unused 4096 [0]).1, (s.draw.2.unused 4096 [0]).2, _, _, rfl, ?_, rfl, h, ?_⟩
  · exact first_context _ h
  · simp [State.phasersFree]
def gfxBusy : Gfx := gfx1 [] []
def lostLine : DirEntry := { key := physKey 0 0x40, st := .ownerLost, writes := 2, returns := 3, errIdx := some 0 }
/-- Requests with each function's fields inside and outside their limits, and states that send each of them each way. -/
theorem witness_MailboxServesTheDie :
    (let f := [(8, 8, 0x1000), (16, 8, 1)]
     let s := { asking (asker 0 1 16 f) (record 512 []) with ctxs := [] }
     let b := s.hostBytes (natAt ((asker 0 1 16 f).mailbox 1).req 8 8) 512
     stands 0 1 16 16 f = true ∧ ctxDescOk b = true ∧ natAt ((asker 0 1 16 f).mailbox 1).req 16 8 = 1 ∧ ctxDescOk (record 512 [(8, 1, 16)]) = false ∧
      1 ≤ ((List.range (Config.cores (isDie 0))).filter (s.idleCore 0 ·)).length ∧ ((List.range (Config.cores (isDie 0))).filter (s.idleCore 0 ·)).length < 65 ∧
      (∃ dr s1 num s2 load s3, s.draw = (dr, s1) ∧ s1.freeContext 0 = some (num, s2) ∧ s2.draw = (load, s3) ∧ s3.ctxs = [] ∧ s3.phasersFree 0 0 0 = true) ∧
      ∀ num v, ∃ es, readEctx (feMaster 0 num) (parseEctx ((b.drop 192).take 256)) v = .ok (es, v)) ∧
    (stands 0 1 17 8 [(8, 8, 1)] && stands 0 1 18 16 [(8, 8, 1)] && stands 0 1 19 8 [(8, 8, 63)] && stands 0 1 20 8 [(8, 8, 64)] && stands 0 2 32 16 [(8, 8, 1), (16, 8, 4)] && stands 0 4 64 16 [(8, 8, 64), (16, 8, 64)] &&
      stands 0 4 65 9 [(8, 8, 0x40), (16, 1, 1)] && stands 0 5 80 16 [(16, 8, 4096)] && stands 1 5 80 16 [] && stands 0 5 81 0 [] && stands 1 6 96 8 [(8, 8, 450)] && stands 0 6 97 8 [(8, 8, 16)] &&
      stands 0 6 98 8 [(8, 8, 20)] && stands 1 6 98 8 [(8, 8, 650)] && stands 0 7 112 16 [(8, 8, 0x1000), (16, 8, 0x2000)] && stands 0 7 113 24 [(8, 8, 5)]) = true ∧
    ((asking (asker 0 1 17 []) []).ctx? 0 1 = some placedCtx ∧ (asking (asker 0 1 17 []) []).ctx? 0 2 = none ∧ placedCtx.migrating = none ∧ ({ placedCtx with migrating := some 1 } : Context).migrating ≠ none) ∧
    (Config.cores (isDie 0) = 64 ∧ 63 ∉ (asker 0 1 19 []).coresOff ∧ 63 ∈ ({ asker 0 1 19 [] with coresOff := [63] } : Die).coresOff) ∧
    ((∃ g, (drawing [] gfxBusy).gfx? 0 1 = some g ∧ g.pass.isSome = true) ∧ (asking (asker 0 2 32 []) []).gfx? 0 1 = none ∧ 4 * 16384 + 65536 ≤ Config.sliceBytes (isDie 0)) ∧
    (64 % 64 = 0 ∧ (∃ k ∈ [6, 7, 8, 9, 10, 11, 12, 13, 14, 15, 16], 64 = 2 ^ k) ∧ ¬ ∃ k ∈ [6, 7, 8, 9, 10, 11, 12, 13, 14, 15, 16], 65 = 2 ^ k) ∧
    (let s := { asking (asker 0 4 65 []) [] with dirs := [lostLine] }
     s.dirs.find? (·.key == physKey 0 0x40) = some lostLine ∧ lostLine.st = .ownerLost ∧ ({ lostLine with st := .shared [] } : DirEntry).st ≠ .ownerLost ∧ s.dirs.find? (·.key == physKey 0 0x80) = none ∧
      (0x40 % 64 = 0 ∧ 0x40 < Config.memoryBytes (isDie 0))) ∧
    (0 + 4096 ≤ Config.memoryBytes false ∧ Config.memoryBytes false < Config.memoryBytes false + 1) ∧
    ((asker 0 5 81 []).dock ≠ .docked ∧ ({ asker 0 5 81 [] with dock := .docked } : Die).dock = .docked ∧ (∃ c ∈ [{ placedCtx with die := 1, ckpt := 1 }], c.die ∈ beyond 0 ∧ c.ckpt = 1) ∧
      ∀ c ∈ (asking (asker 0 5 81 []) []).ctxs, c.die ∈ beyond 0 → c.ckpt ≠ 1) ∧
    ((400 ≤ 450 ∧ 450 ≤ 1200 ∧ 450 % 50 = 0) ∧ ¬ 1250 ≤ 1200) ∧
    (¬ (asker 0 7 113 []).dock ≠ .undocked ∧ (∀ c ∈ (asking (asker 0 7 113 []) []).ctxs, c.migrating = none ∧ c.ckpt = 0) ∧
      ∃ c ∈ [{ placedCtx with ckpt := 1 }], (c.die = 0 ∨ c.migrating = some 0) ∧ (c.migrating ≠ none ∨ c.ckpt ≠ 0)) := by
  refine ⟨⟨by decide +kernel, by decide +kernel, by decide +kernel, by decide +kernel, by decide +kernel, by decide +kernel, creates _ rfl, fun num v => untracked _ _ _ (by decide +kernel)⟩, by decide +kernel,
    by decide +kernel, by decide, ⟨⟨_, rfl, rfl⟩, rfl, by decide⟩, by decide, by decide +kernel, by decide, by decide +kernel, by decide, by decide +kernel⟩

-- registers, boot, docking and reset

/-- P in a dock state, with D0 and D1, its contexts and queues. -/
def docking (st : DockState) (near far : Bool) (ctxs : List Context) : State :=
  { State.reset with dies := [{ Die.resetP with dock := st }, { Die.resetD 1 near with boot := if far then .running else .awaiting }, Die.resetD 2 false], ctxs := ctxs }
def verifying : State := { State.reset with dies := [{ Die.resetP with boot := .verifying }] }
/-- A die that verifies, each shape of a bad access, each range of the register space, and a head's mode that may and may not be enabled. -/
theorem witness_RegistersAreWritten :
    (verifying.die? 0 = some { Die.resetP with boot := .verifying } ∧ ({ Die.resetP with boot := .verifying } : Die).boot = .verifying) ∧
    ((1 ≠ 4 ∧ 1 ≠ 8) ∧ (4 = 4 ∧ 0x12 % 4 ≠ 0) ∧ 8 % 8 = 0) ∧ (7 < 8 ∧ 15 < 16 ∧ 16383 < 16384 ∧ 1 < 2) ∧
    (∃ s1 s2, exec (.registerWrite 0 0x10 4 5) State.reset = .next s1 ∧ exec (.registerWrite 0 (0x10 + 4) 4 (5 >>> 32)) s1 = .next s2) ∧
    (({} : Head).hctl.getLsbD 0 = false ∧ ({ hctl := 1 } : Head).hctl.getLsbD 0 = true ∧ (1 : Word).getLsbD 0 = true ∧ (6 : Word).getLsbD 0 = false) ∧
    (connectionOk false 0 ((1 : Word).toNat / 16 % 4) = true ∧ modeOk false 0 = true ∧ (1 : Word).toNat / 2 % 4 ≠ 3 ∧ modeOk false 0xFFFF = false) := by
  refine ⟨⟨by decide, rfl⟩, by decide, by decide, ⟨_, _, rfl, rfl⟩, by decide, by decide +kernel⟩

/-- Each dock state, the far die running, generations that agree and differ, contexts here and beyond the link, a queue whose status word is written at the end of its context. -/
theorem witness_DiesComeAndGo :
    (∀ st ∈ [DockState.undocked, .training, .booting, .syncing, .docked, .undocking], ∃ d, (docking st true true [placedCtx]).die? 0 = some d ∧ d.dock = st ∧ ∀ c ∈ (docking st true true [placedCtx]).ctxs, c.die ∉ beyond 0) ∧
    (∃ f, (docking .booting true true []).die? (0 + 1) = some f ∧ f.boot = .running) ∧ (Config.generation 0 + 1 ≠ Config.generation 0 ∧ (if (0 : Nat) = 0 then 8 else 16) ≤ 8) ∧
    (∃ d ∈ ((docking .docked true true []).loseDies 0 [1]).dies, d.code ∉ [1] ∧ d.present = true) ∧ (∃ d ∈ ((docking .docked true true []).detach 0).dies, d.code ∈ beyond 0) ∧
    (∀ q ∈ (docking .docked true true [placedCtx]).queues, q.die ≠ 0) ∧
    (let s := served placedCtx { queueOf 0 [] with statusAddr := dataVa } []
     s.ctxs.filter (·.die == 0) = [placedCtx] ∧ (s.queues.filter fun q => q.die == 0 && q.ctx == placedCtx.num) = [{ queueOf 0 [] with statusAddr := dataVa }] ∧
      let v := (s.beginDestroy 0 placedCtx.num).updCtx 0 placedCtx.num fun c => { c with ending := true, checkpoint := false, ckpt := 0, held := [], heldMore := [], migrating := none, sent := none }
      ∃ u s1, engStore ⟨0, (feMaster 0 placedCtx.num).core, placedCtx.num, v.nextId⟩ dataVa (bytesLE 8 (v.draw.1 % 2 ^ 32 + 0x12 * 2 ^ 32)) { v.draw.2 with nextId := v.nextId + 1 } = .ok (u, s1)) ∧
    (({ placedCtx with ending := true } : Context).ending = true ∧ State.reset.tlWrites = []) ∧ (Die.resetP.present = true ∧ Die.resetP.dock = .undocked) ∧ Die.resetP.refused = false := by
  refine ⟨?_, ⟨_, rfl, rfl⟩, ⟨by omega, by decide⟩, by decide +kernel, by decide +kernel, by simp [docking, State.reset], ⟨rfl, rfl, of_ok (by decide +kernel)⟩, ⟨rfl, rfl⟩, ⟨rfl, rfl⟩, rfl⟩
  intro st h
  exact ⟨_, rfl, rfl, by decide +revert⟩

-- placement, the fold and memory

/-- A grid whose next team is to be placed; one whose scratchpad no slice has room for; one whose parameters miss. -/
def toPlace (scratch param : Nat) : Grid := { placedGrid 2 with nextTeam := 0, lrec := { (placedGrid 2).lrec with scratch := scratch, param := param } }
/-- Pair-coherent data (R160). -/
def sharedLeaf : TlbEntry := { dataLeaf with d1 := 2 }
def placing (g : Grid) (waits : Bool) : State := { State.reset with
  ctxs := [placedCtx], grids := [g], nextId := 4, cores := [{ die := 0, num := 0, tlb := if waits then [placedLeaf, sharedLeaf] else [placedLeaf] }]
  dirs := if waits then [{ key := physKey 0 0x20000, st := .exclusive 1 }] else [] }
def ends (p : Placed) : Nat := match p with | .ok _ => 0 | .noRoom => 1 | .missed .. => 2 | .waits _ => 3
theorem of_ends {p : Placed} : (ends p = 0 → ∃ s, p = .ok s) ∧ (ends p = 1 → p = .noRoom) ∧ (ends p = 2 → ∃ vas s, p = .missed vas s) ∧ (ends p = 3 → ∃ s, p = .waits s) := by
  cases p <;> simp [ends]
/-- A graph of one shader node of one record, with its queue at dataVa. -/
def batchNode : Node := { kind := 1, recSize := 64, cap := 1, batch := 1, succ := [], queue := [record 64 []], lrec := { (toPlace 0 0).lrec with recipes := 0 } }
def batchGraph : Graph := { version := 1, prio := 0, pool := dataVa, nodes := [batchNode] }
def batchCtx : Context := { placedCtx with graph := some batchGraph }
def batching : State := { holding State.reset [] with ctxs := [batchCtx], nextId := 4, cores := [{ die := 0, num := 0, tlb := [placedLeaf, dataLeaf] }, { die := 0, num := 0xFFFF, tlb := [dataLeaf] }] }
theorem choose_one {α : Type} (s : State) (a : α) : s.choose [a] = (some a, s.draw.2) := by simp [State.choose, Nat.mod_one]
def folding (fold : Bool) : State := on (mk [{ thr with status := if fold then .fold 0 else .bundled }])
def waitingAt (coh : Option Word) : Waiting := { members := [((1, 0), 0)], since := 0, pc := 0, version := 0, ctx := 1, coh := coh }
theorem witness_TeamsArePlaced :
    (∀ x ∈ [((0 : Nat), (0 : Nat), (0 : Nat)), (2 ^ 20, 0, 1), (0, dataVa, 2), (0, dataVa, 3)], let g := toPlace x.1 x.2.1
      let s := placing g (x.2.2 == 3)
      s.ctx? 0 1 = some placedCtx ∧ s.nextGrid 0 1 = some g ∧ g.nextNum = some 0 ∧ [0].length = g.cohortSize ∧ [0].all (s.mayTake placedCtx g) = true ∧ s.placing placedCtx = true ∧
        ends (s.placeCohort g (((List.range g.cohortSize).map (0 + ·)).zip [0])) = x.2.2) ∧
    (seatAll (toPlace (2 ^ 20) 0) [(0, 0)] [{}] (placing (toPlace (2 ^ 20) 0) false)).isNone = true ∧ (seatAll (toPlace 0 0) [(0, 0)] [{}] (placing (toPlace 0 0) false)).isSome = true ∧
    (∃ tm s1, (placing (toPlace 0 0) false).allocTeam (newTeam (toPlace 0 0) 4 0 0) 0 = some (tm, s1)) ∧ ({ words := List.replicate 10 7 } : FirstWords).words.length = 10 ∧
    (∃ gr nd, (drawing [] gfxBusy).ctx? 0 1 = some (drawCtx []) ∧ (drawCtx []).graph = some gr ∧ gr.nodes[0]? = some nd ∧ nd.kind = 1 ∧ (drawing [] gfxBusy).placing (drawCtx []) = true ∧
      gr.held = none ∧ nd.queue = [] ∧ (match ((drawing [] gfxBusy).nodeOfKind 0 1 3).bind ((drawing [] gfxBusy).node? 0 1 ·) with | some r => r.succ.contains 0 | none => false) = true) ∧
    (batching.ctx? 0 1 = some batchCtx ∧ batching.placing batchCtx = true ∧ (match (batching.nodeOfKind 0 1 3).bind (batching.node? 0 1 ·) with | some r => r.succ.contains 0 | none => false) = false ∧
      (∀ g ∈ batching.grids, g.die = 0 → g.ctx = 1 → g.frags = [] → g.batch = none) ∧ (∀ h ∈ batching.hits, ¬(h.die = 0 ∧ h.ctx = 1)) ∧ ∃ gr nd s1, batchCtx.graph = some gr ∧ gr.nodes[0]? = some nd ∧
        1 ≤ (if nd.batch = 0 then nd.lrec.teamSize else nd.batch) ∧ 1 ≤ nd.queue.length ∧ nd.recSize ≠ 32 ∧
        batching.choose ((List.range (nd.cap + 1 - 1)).map fun i => gr.pool + poolOffset gr.nodes 0 + i * nd.recSize) = (some dataVa, batching.draw.2) ∧
        storeWords (feMaster 0 1) (1 * nd.recSize / 4) dataVa (nd.queue.take 1).flatten batching.draw.2 = .ok ((), s1)) ∧
    (∀ b, ((folding b).foldWaiting 0 0).all (·.coh.isNone) = true ∧ ((folding b).foldWaiting 0 0).isEmpty = !b) ∧
    ((∀ w ∈ [waitingAt none], w.coh = none) ∧ ∀ w ∈ [waitingAt (some 3)], w.coh.isSome = true) ∧
    (∀ b, let t : Thread := { thr with status := .fold 0, clause := none }
      foldUnit { mk [t] with quads := b } t = some [t] ∧ t.atEntry = true) := by
  refine ⟨by decide +kernel, by decide +kernel, by decide +kernel, ?_, rfl, ⟨_, _, by decide +kernel, rfl, rfl, rfl, by decide +kernel, rfl, rfl, by decide +kernel⟩,
    ⟨by decide +kernel, by decide +kernel, by decide +kernel, by decide +kernel, by decide +kernel, ?_⟩, ?_, ⟨by simp [waitingAt], by simp [waitingAt]⟩, ?_⟩
  · have h : ((placing (toPlace 0 0) false).allocTeam (newTeam (toPlace 0 0) 4 0 0) 0).isSome = true := by decide +kernel
    obtain ⟨⟨tm, s1⟩, h⟩ := Option.isSome_iff_exists.mp h
    exact ⟨tm, s1, h⟩
  · have h : (okAnd (storeWords (feMaster 0 1) (1 * batchNode.recSize / 4) dataVa (batchNode.queue.take 1).flatten batching.draw.2) fun _ => true) = true := by decide +kernel
    obtain ⟨⟨u, s1⟩, h1, -⟩ := of_okAnd h
    exact ⟨batchGraph, batchNode, s1, rfl, rfl, by decide, by decide, by decide, choose_one _ _, h1⟩
  · intro b; cases b <;> decide +kernel
  · intro b; cases b <;> decide +kernel

/-- Tables of P from 0x40000 that map address 0 to a page of a home. -/
def mapped (home : Nat) : State :=
  { State.reset with ctxs := [placedCtx], dies := [Die.resetP, Die.resetD 1 true, Die.resetD 2 false]
                     mem := [(0x40000, 0x42000 + 1), (0x42000, 0x44000 + 1), (0x44000, 0x46000 + 1), (0x46000, 0x48000 + 1), (0x48000, 0x200CF + 1024 * home)].foldl (fun m e => Memory.write m e.1 (bytesLE 8 e.2)) [] }
def faultOf (reason : Nat) (va : Nat := 0x4000) : FaultRec := { va := va, pc := 0x10000, time := 0, ctx := 1, core := 0, kind := .read, reason := reason, count := 1 }
def faulted (reason : Nat) (va : Nat := 0x4000) : State := { mapped 0 with dies := [{ Die.resetP with faults := [faultOf reason va] }] }
theorem witness_PagesAreServed :
    (∃ l s1, (on (mk [thr])).translate 0 0 ((on (mk [thr])).ctxOf (mk [thr])) 0 dataVa (kindOf 0) = (.ok l, s1) ∧ (on (mk [thr])).team? 1 = some (mk [thr])) ∧
    (∀ x ∈ [(reasonNotPresent, 0x4000), (reasonCodeWrite, 0x4000), (reasonHome, 0x4000), (reasonNotPresent, 0)], ∃ d, (faulted x.1 x.2).die? 0 = some d ∧ d.faults = faultOf x.1 x.2 :: [] ∧ (faulted x.1 x.2).ctx? 0 (faultOf x.1 x.2).ctx = some placedCtx ∧
      (faultOf x.1 x.2).reason = x.1 ∧ ((faulted x.1 x.2).updDie 0 fun d => { d with faults := d.faults.drop 1 }).maps placedCtx x.2 .read = (x.2 == 0)) ∧
    ({ thr with status := .parked 0 .read 0 none } : Thread).status = .parked 0 .read 0 none ∧ ({ thr with status := .parked 0 .read 0 (some (3, 1)) } : Thread).status = .parked 0 .read 0 (some (3, 1)) ∧
    (∃ lf, (mapped 0).ctx? 0 1 = some placedCtx ∧ walkFrom (mapped 0).mem 0 (0 : DWord).toNat 4 placedCtx.root = .ok lf ∧ (lf.pte.home ≠ 3 ∧ lf.pte.home ≠ 1 ∧ (mapped 0).present 1 = true ∧ 0 % pageBytes lf.level = 0 ∧
      0 + pageBytes lf.level ≤ Config.memoryBytes (isDie 1))) ∧
    (∃ lf, walkFrom (mapped 1).mem 0 (0 : DWord).toNat 4 placedCtx.root = .ok lf ∧ lf.pte.home ≠ 3 ∧ lf.pte.home ≠ 0) := by
  refine ⟨?_, ?_, rfl, rfl, ?_, ?_⟩
  · have h : (match (on (mk [thr])).translate 0 0 ((on (mk [thr])).ctxOf (mk [thr])) 0 dataVa (kindOf 0) with | (.ok _, _) => true | _ => false) = true := by decide +kernel
    split at h
    · rename_i l s1 h1; exact ⟨l, s1, h1, rfl⟩
    · cases h
  · intro r h
    simp only [List.mem_cons, List.not_mem_nil, or_false] at h
    rcases h with rfl | rfl | rfl | rfl <;> exact ⟨_, rfl, rfl, rfl, rfl, by decide +kernel⟩
  · obtain ⟨lf, h, hp⟩ := of_okAnd (e := walkFrom (mapped 0).mem 0 (0 : DWord).toNat 4 placedCtx.root) (p := fun lf => decide (lf.pte.home ≠ 3 ∧ lf.pte.home ≠ 1 ∧ (mapped 0).present 1 = true ∧
      0 % pageBytes lf.level = 0 ∧ 0 + pageBytes lf.level ≤ Config.memoryBytes (isDie 1))) (by decide +kernel)
    exact ⟨lf, rfl, h, by simpa using hp⟩
  · obtain ⟨lf, h, hp⟩ := of_okAnd (e := walkFrom (mapped 1).mem 0 (0 : DWord).toNat 4 placedCtx.root) (p := fun lf => decide (lf.pte.home ≠ 3 ∧ lf.pte.home ≠ 0)) (by decide +kernel)
    exact ⟨lf, h, by simpa using hp⟩

def lineOf (st : DirState) (old : Option Nat) : DirEntry := { key := 0x20000, st := st, snoop := some 5, oldOwner := old }
/-- A trap record of context 1 in P's queue, and a ring at dataVa, none, or full. -/
def logging (ring prod : Nat) (ctxs : Bool) : State :=
  { served { placedCtx with trapRing := ring, trapRingN := 64, trapProd := prod } (queueOf 0 []) [] with
    dies := [{ Die.resetP with traps := [record 64 [(38, 2, 1)]] }], ctxs := if ctxs then [{ placedCtx with trapRing := ring, trapRingN := 64, trapProd := prod }] else [] }
theorem witness_LinesAndLogs :
    (∀ st ∈ [DirState.exclusive 1, .modified 1 [1]], ({ State.reset with dirs := [lineOf st none] } : State).dirs.find? (·.key == lineKey 0x20010) = some (lineOf st none) ∧ (lineOf st none).snoop = some 5) ∧
    (lineOf (.shared []) (some 1)).oldOwner = some 1 ∧
    (0 ≤ 3 ∧ State.reset.present 0 = true ∧ 4096 + max 1 4 ≤ 2 ^ 52 ∧ State.reset.tableRefuses 0 4096 (max 1 4) = none ∧ ({ State.reset with dies := [{ Die.resetP with granary := some (0, 8192) }] } : State).tableRefuses 0 4096 (max 1 4) ≠ none) ∧
    Memory.wf State.reset.mem = true ∧ (∀ a ∈ linesOf 4094 4, ∀ e ∈ State.reset.dirs, e.key ≠ physKey 0 a) ∧ linesOf 4094 4 = [4032, 4096] ∧
    (4096 / 64 = (4096 + max 1 4 - 1) / 64 ∧ ({ State.reset with dirs := [{ key := physKey 0 4096, st := .ownerLost }] } : State).dirs.find? (·.key == physKey 0 (4096 / 64 * 64)) = some { key := physKey 0 4096, st := .ownerLost }) ∧
    (∀ ring ∈ [0, dataVa], ∀ b, ∃ d, (logging ring 0 b).die? 0 = some d ∧ d.traps = record 64 [(38, 2, 1)] :: [] ∧ d.trapHeld = none ∧ d.trapDoomed = false ∧ natAt (record 64 [(38, 2, 1)]) 38 2 % 4096 = 1 ∧
      ((logging ring 0 b).ctx? 0 1).isSome = b) ∧
    (∀ prod ∈ [0, 64], okAnd (engLoad ⟨0, 0xFFFF, 1, 0⟩ (dataVa + 8) 8 (logging dataVa prod true)) (fun r => (ringUsed prod (natLE r.1) 64 == 64) == (prod == 64) &&
      okAnd (engStore ⟨0, 0xFFFF, 1, 0⟩ (dataVa + 64 + 64 * (prod % 64)) (trapLost (record 64 [(38, 2, 1)]) (min 0xFFFF (0 + 0))) r.2) fun q =>
        okAnd (engStore ⟨0, 0xFFFF, 1, 0⟩ dataVa (bytesLE 8 (prod + 1)) q.2) fun _ => true) = true) := by
  refine ⟨by decide +kernel, rfl, by decide +kernel, by decide +kernel, by decide +kernel, by decide +kernel, by decide +kernel, ?_, by decide +kernel⟩
  intro ring h b
  simp only [List.mem_cons, List.not_mem_nil, or_false] at h
  rcases h with rfl | rfl <;> cases b <;> exact ⟨_, rfl, rfl, rfl, rfl, by decide +kernel, by decide +kernel⟩

-- switches, checkpoints, migrations and the display

/-- A page of 4 MiB for the save slot, and core 0's translations with it. -/
def slotVa : Nat := 0xFF00000000400000
def slotCore : CoreState := { die := 0, num := 0, tlb := [placedLeaf, dataLeaf, { ctx := 1, page := slotVa / 2 ^ 22, level := 1, d0 := 0x4000CF, d1 := 0 }] }
def leaving : Context := { placedCtx with migrating := some 1, saveEntry := placedAt, restoreEntry := placedAt }
/-- A team with its slot, in its context, with single bytes of the slot as given; between instructions, or issuing. -/
def slotted (ts : List Thread) (st : TeamStatus) : Team := { mk ts with slot := some slotVa, status := st }
def saved (tm : Team) (c : Context) (issues : Bool) (bytes : List (Nat × Nat)) : State :=
  { on tm with ctxs := [c], cores := [slotCore], issue := if issues then (on tm).issue else none
               mem := bytes.foldl (fun m e => Memory.write m (0x400000 + e.1) [BitVec.ofNat 8 e.2]) [] }
def stopThr : Thread := { thr with status := .stopping { cause := 1 } 0 0 }
def saver : Thread := { thr with handler := .save }
def restorer : Thread := { thr with handler := .restore }
theorem issuing_saved {t : Thread} {ts : List Thread} {st : TeamStatus} {c : Context} {b : List (Nat × Nat)} (h0 : t.tid = 0) (hf : t.fmode = 0) (hm : t.mfmt = 0) (hs : t.progress = 0) :
    Issuing (saved (slotted (t :: ts) st) c true b) (1, 0) (slotted (t :: ts) st) t :=
  { cur := rfl, team := rfl, thread := rfl, tid := h0, fmode := hf, mfmt := hm, mstep := by rw [hs]; rfl }
/-- The pending traps of a team's threads taken, as a switch-out does first. -/
def stopsAll (s : State) (tm : Team) : State := (tm.threads.filter (·.status != .ended)).foldl (fun v t => match t.status with
  | .stopping r time seq => v.enterTrap (1, t.tid) r time seq | _ => v.takePending (1, t.tid)) s
def lateThr : Thread := { thr with firstTrap := some { cause := 6 } }
def headerBytes : List (Nat × Nat) := [(0, 1), (12, 1), (14, 4), (3280, 64)]
def goes (r : Restored) : Nat := match r with | .ok _ => 0 | .noRoom => 1 | .held _ => 2
theorem of_goes {r : Restored} : (goes r = 0 → ∃ s, r = .ok s) ∧ (goes r = 1 → r = .noRoom) := by cases r <;> simp [goes]

theorem witness_TeamsSwitch :
    (∀ f, let s := saved (slotted [thr] .resident) { leaving with failed := f } false []
      s.team? 1 = some (slotted [thr] .resident) ∧ (slotted [thr] .resident).prologue = none ∧ s.wantsOut (s.ctxOf (slotted [thr] .resident)) (slotted [thr] .resident) 2 = true ∧
        (s.ctxOf (slotted [thr] .resident)).failed = f ∧ s.settledTeam (slotted [thr] .resident) = true) ∧
    (saved (slotted [thr] .resident) leaving true []).settledTeam (slotted [thr] .resident) = false ∧
    (∀ x ∈ [(stopThr, leaving, false), (lateThr, { leaving with trapEntry := 0 }, true)], let tm := slotted [x.1] .resident
     let s := saved tm x.2.1 false []
     s.wantsOut (s.ctxOf tm) tm 2 = true ∧ s.settledTeam tm = true ∧ (s.ctxOf tm).failed = false ∧ ((stopsAll s tm).ctxOf tm).failed = x.2.2) ∧
    (let tm := mk [thr]
     let s := saved tm leaving false []
     ((stopsAll s tm).ctxOf tm).failed = false ∧ ((stopsAll s tm).giveSlot tm ((stopsAll s tm).ctxOf tm)).1.isNone = true) ∧
    (let tm := slotted [thr] .resident
     let s := saved tm leaving false []
     ((stopsAll s tm).giveSlot tm ((stopsAll s tm).ctxOf tm)).1.isSome = true ∧ leaving.saveEntry ≠ 0 ∧ placedCtx.saveEntry = 0) ∧
    (∀ ts ∈ [[], [tid1]], Issuing (saved (slotted (saver :: ts) (.leaving .vacate)) leaving true []) (1, 0) (slotted (saver :: ts) (.leaving .vacate)) saver) := by
  refine ⟨?_, by decide +kernel, by decide +kernel, by decide +kernel, by decide +kernel, fun ts _ => issuing_saved rfl rfl rfl rfl⟩
  intro f; cases f <;> decide +kernel
/-- Its save and restore TRETs: a record stored with another thread left, and with none, then the header and the tables; a record with a reserved value, and one whose pc is the kernel's. -/
def savers (ts : List Thread) : Team := { slotted (saver :: ts) (.leaving .vacate) with recipeMax := 1 }
def comeBack : Team := { slotted [restorer] .entering with recipeMax := 1 }
theorem witness_TeamsSwitch_tret :
    (∀ ts ∈ [[], [tid1]], let s := saved (savers ts) leaving true []
      okAnd (feStore (savers ts).master 32 (recordVa slotVa 0) (s.threadRecord (savers ts) saver.dropKept) s) (fun r => decide (r.2.teams = s.teams) &&
        let s2 := r.2.updThread (1, 0) fun _ => { saver.dropKept with status := .out, handler := .none, pc := saver.trapPc, clause := none, entry := none }
        match s2.team? 1 with
        | some x => (x.threads.all fun t => t.status == .out || t.status == .ended) == ts.isEmpty && (!ts.isEmpty ||
            okAnd (feStore x.master 512 slotVa (s2.header x) s2) fun r => okAnd (feStore x.master (2 * x.gangs.length * x.recipeMax) (slotVa + 4096) x.recipeTables r.2) fun _ => true)
        | none => false) = true) ∧
    Issuing (saved comeBack leaving true []) (1, 0) comeBack restorer ∧
    (∀ b ∈ [0, 1], let s := saved comeBack leaving true [(12290, b)]
      okAnd (feBytes comeBack.master (recordVa slotVa 0) 256 s) (fun r => okAnd (feBytes comeBack.master slotVa 200 r.2) (fun q => decide (q.2.teams = s.teams) && decide (q.2.ctxs = s.ctxs)) &&
        (recordOk r.1 comeBack.recipeMax && s.inCode comeBack (natAt r.1 0 8)) == (b == 1)) = true) :=
  ⟨by decide +kernel, { cur := rfl, team := rfl, thread := rfl, tid := rfl, fmode := rfl, mfmt := rfl, mstep := rfl }, by decide +kernel⟩

/-- Its failures and its way back: a save handler at work, a round that stalls, a saved team with a bad header, and one that finds no room, or some. -/
def outTeam (scr : Nat) : Team := { slotted [{ thr with status := .out }] .out with recipeMax := 1, scrSize := scr }
def comingBack (scr : Nat) (bytes : List (Nat × Nat)) : State := saved (outTeam scr) { placedCtx with restoreEntry := placedAt } false bytes
/-- Its slot's page is not translated. -/
def comingFar : State := { comingBack 0 [] with cores := [{ slotCore with tlb := [placedLeaf] }] }
def stalled : Team := { slotted [thr] .resident with rounds := [{ tile := 0, mask := 5, done := [] }] }
theorem witness_TeamsSwitch_in :
    ((saved (savers []) leaving false []).team? 1 = some (savers []) ∧ (savers []).status = .leaving .vacate ∧ ∃ t ∈ (savers []).threads, t.handler = .save) ∧
    ((saved stalled leaving false []).team? 1 = some stalled ∧ stalled.rounds ≠ [] ∧ ∃ cause < 3, (saved stalled leaving false []).wantsOut ((saved stalled leaving false []).ctxOf stalled) stalled cause = true) ∧
    (∀ x ∈ [(0, [], 0), (2 ^ 20, headerBytes, 1)], let s := comingBack x.1 x.2.1
      let c := s.ctxOf (outTeam x.1)
      s.team? 1 = some (outTeam x.1) ∧ s.wantsIn (outTeam x.1) = true ∧ c.migrating = none ∧ c.ckpt = 0 ∧ c.takes 0 = true ∧
        (s.teams.all fun o => s.savedBefore (outTeam x.1) o) = true ∧ ((s.cohort (outTeam x.1)).filter fun o => o.uid != 1 && o.status == .out) = [] ∧ goes (restoreTeams [(outTeam x.1, 0)] s.draw.2) = x.2.2) ∧
    (∀ b ∈ [[], headerBytes], let s := comingBack 0 b
      okAnd (feBytes ⟨0, 0, 1, 0⟩ slotVa 4096 s) (fun r => okAnd (feBytes ⟨0, 0, 1, 0⟩ (slotVa + 4096) (16 * (outTeam 0).gangs.length * (outTeam 0).recipeMax) r.2) fun q =>
        headerOk r.1 (outTeam 0) == !b.isEmpty && recipesOk q.1 && (b.isEmpty || (q.2.allocTeam ((outTeam 0).applyHeader r.1 q.1) 0).isSome)) = true) ∧
    goes (restoreTeams [(outTeam 0, 0)] comingFar.draw.2) = 2 ∧ recipesOk (record 16 [(8, 1, 2)]) = false ∧
    (let s := comingBack (2 ^ 20) headerBytes
     okAnd (feBytes ⟨0, 0, 1, 0⟩ slotVa 4096 s) (fun r => okAnd (feBytes ⟨0, 0, 1, 0⟩ (slotVa + 4096) (16 * (outTeam (2 ^ 20)).gangs.length * (outTeam (2 ^ 20)).recipeMax) r.2) fun q =>
       headerOk r.1 (outTeam (2 ^ 20)) && recipesOk q.1 && (q.2.allocTeam ((outTeam (2 ^ 20)).applyHeader r.1 q.1) 0).isNone) = true) :=
  ⟨⟨rfl, rfl, _, .head _, rfl⟩, ⟨rfl, by decide, 2, by decide, by decide +kernel⟩, by decide +kernel, by decide +kernel, by decide +kernel, by decide +kernel, by decide +kernel⟩

/-- Context 1 of D1, with nothing in flight, a granary on P from 0 of room for its image and n more bytes, and its last commit's record beyond. -/
def farCtx : Context := { placedCtx with die := 1, ckpt := 1, root := 0, descr := List.replicate 64 0 }
def commitOf (c : Context) : Commit := { die := c.die, num := c.num, seq := 0, time := 0, recordVa := 2 ^ 20, ctx := c, queues := [], grids := [], teams := [], phasers := [], locks := [], rays := [], scenes := [], gfx := [], pages := [], leaves := [] }
def keeping (c : Context) (size : Nat) (ks : List Commit) (cmds : List (List Cmd)) : State :=
  { State.reset with ctxs := [c], commits := ks, queues := cmds.map (queueOf 1 ·), dies := [{ Die.resetP with granary := some (0, size) }, { Die.resetD 1 true with present := true }, Die.resetD 2 false] }
def places (base size : Nat) (taken : List (Nat × Nat)) (n align : Nat) : List Nat :=
  ((List.range (size / align)).map fun i => (base + align - 1) / align * align + align * i).filter fun a => a + n ≤ base + size && taken.all fun (b, m) => a + n ≤ b || b + m ≤ a
theorem choose_mem {α : Type} (s : State) (l : List α) (h : l.isEmpty = false) : ∃ a ∈ l, s.choose l = (some a, s.draw.2) := by
  cases l with
  | nil => cases h
  | cons x xs =>
    have hlt : s.draw.1 % (x :: xs).length < (x :: xs).length := Nat.mod_lt _ (by simp)
    exact ⟨(x :: xs)[s.draw.1 % (x :: xs).length], List.getElem_mem hlt, by simp [State.choose]⟩
theorem place_some (s : State) (base size : Nat) (taken : List (Nat × Nat)) (n align : Nat) (h : (places base size taken n align).isEmpty = false) :
    ∃ a ∈ places base size taken n align, ∃ s', s.granaryPlace base size taken n align = (some a, s') := by
  obtain ⟨a, ha, h⟩ := choose_mem s (places base size taken n align) h
  exact ⟨a, ha, _, h⟩
/-- What a commit asks: the context is quiet, none of its pages is on its die, and its image, its map and its record, a new one or the old, have room. -/
theorem keeping_commits (old : Bool) : let ks := if old then [commitOf farCtx] else []
    let s := keeping farCtx (if old then 64 else 128) ks []
    ∃ (a b r : Nat) (s2 s3 s4 : State), s.ctx? 1 1 = some farCtx ∧ (s.die? 0).bind (·.granary) = some (0, if old then 64 else 128) ∧ farCtx.ckpt = 1 ∧ s.present 0 = true ∧ s.quiet farCtx = true ∧
      farCtx.failed = false ∧ s.closeTiles 1 1 = (true, s) ∧ s.spillHeads 1 1 = (true, s) ∧ s.leaves farCtx = [] ∧ farCtx.frameList = [] ∧
      let taken := (s.commits.flatMap fun k => (k.recordVa, 64) :: ((k.pages.map fun m => (m.frame, pageBytes m.level)) ++ k.ctx.frameList.map fun f => (f.2.2, 8192))) ++ ((s.die? 0).map (·.given)).getD []
      let body := s.contextRecord farCtx ++ (s.queues.filter fun q => q.die == 1 && q.ctx == 1).flatMap Queue.record ++ (s.grids.filter fun g => g.die == 1 && g.ctx == 1).flatMap s.gridRecord
      s.mirror 0 (if old then 64 else 128) [] taken = some ([], taken, s) ∧
      s.granaryPlace 0 (if old then 64 else 128) taken body.length 64 = (some a, s2) ∧ s2.granaryPlace 0 (if old then 64 else 128) ((a, body.length) :: taken) 0 64 = (some b, s3) ∧
      (match ks.head? with | some k => r = k.recordVa ∧ s4 = s3 | none => s3.granaryPlace 0 (if old then 64 else 128) ((a, body.length) :: (b, 0) :: taken) 64 64 = (some r, s4)) := by
  intro ks s
  have hb : (s.contextRecord farCtx ++ (s.queues.filter fun q => q.die == 1 && q.ctx == 1).flatMap Queue.record ++ (s.grids.filter fun g => g.die == 1 && g.ctx == 1).flatMap s.gridRecord).length = 64 := by
    cases old <;> decide +kernel
  have n1 : (places 0 (if old then 64 else 128) (ks.map fun _ => (2 ^ 20, 64)) 64 64).isEmpty = false := by cases old <;> decide +kernel
  have n2 : ∀ a ∈ places 0 (if old then 64 else 128) (ks.map fun _ => (2 ^ 20, 64)) 64 64, (places 0 (if old then 64 else 128) ((a, 64) :: ks.map fun _ => (2 ^ 20, 64)) 0 64).isEmpty = false ∧
      (old = true ∨ ∀ b ∈ places 0 128 [(a, 64)] 0 64, (places 0 128 [(a, 64), (b, 0)] 64 64).isEmpty = false) := by cases old <;> decide +kernel
  obtain ⟨a, ha, s2, h2⟩ := place_some s 0 (if old then 64 else 128) (ks.map fun _ => (2 ^ 20, 64)) 64 64 n1
  obtain ⟨b, hb', s3, h3⟩ := place_some s2 0 (if old then 64 else 128) ((a, 64) :: ks.map fun _ => (2 ^ 20, 64)) 0 64 (n2 a ha).1
  cases old with
  | true => exact ⟨a, b, 2 ^ 20, s2, s3, s3, rfl, rfl, rfl, rfl, by decide +kernel, rfl, rfl, by decide +kernel, by decide +kernel, by decide +kernel, rfl, hb ▸ h2, hb ▸ h3, rfl, rfl⟩
  | false =>
    obtain ⟨r, -, s4, h4⟩ := place_some s3 0 128 [(a, 64), (b, 0)] 64 64 (((n2 a ha).2.resolve_left Bool.noConfusion) b hb')
    exact ⟨a, b, r, s2, s3, s4, rfl, rfl, rfl, rfl, by decide +kernel, rfl, rfl, by decide +kernel, by decide +kernel, by decide +kernel, rfl, hb ▸ h2, hb ▸ h3, hb ▸ h4⟩
/-- Contexts of D1 that migrate to P, with a command, or none, that asks for it. -/
def movingCtx (failed : Bool) (sent : Option (List Nat)) : Context := { placedCtx with die := 1, root := 0, migrating := some 0, failed := failed, sent := sent }
theorem witness_ContextsAreKept :
    (∀ old, let c := farCtx
      (old = true → ∃ k, (keeping c 64 [commitOf c] []).commits.find? (fun k => k.die == 1 && k.num == 1) = some k ∧ k.recordVa = 2 ^ 20) ∧ (old = false → (keeping c 128 [] []).commits = [])) ∧
    (let c := { farCtx with ckpt := 2 }
     (keeping c 64 [commitOf c] []).ctx? 1 1 = some c ∧ (keeping c 64 [commitOf c] []).commits.find? (fun k => k.die == 1 && k.num == 1) = some (commitOf c) ∧ c.ckpt = 2) ∧
    (∀ f, (keeping (movingCtx f none) 0 [] []).ctx? 1 1 = some (movingCtx f none) ∧ (movingCtx f none).migrating = some 0 ∧ (movingCtx f none).failed = f ∧ (movingCtx f none).sent = none ∧
      (keeping (movingCtx f none) 0 [] []).quiet (movingCtx f none) = true ∧ (movingCtx f none).ckpt = 0) ∧
    (∀ cores ∈ [[], [5]], let s := keeping (movingCtx false none) 0 [] []
      let got := cores.eraseDups.filter (s.idleCore 0 ·)
      s.present 0 = true ∧ (s.freeContext 0).isSome = true ∧ (∃ b ∈ List.range (4097 - (movingCtx false none).phCount), s.phasersFree 0 b (movingCtx false none).phCount = true) ∧ s.undocking 1 = false ∧
        (got.isEmpty = cores.isEmpty) ∧ s.closeTiles 1 1 = (true, s) ∧ s.spillHeads 1 1 = (true, s)) ∧
    (let s := keeping { movingCtx false none with migrating := some 3 } 0 [] []
     ({ s with dies := [{ Die.resetP with dock := .undocking }] } : State).undocking 1 = true ∧ s.present 3 = false ∧ List.range (4097 - ({ placedCtx with phCount := 4097 } : Context).phCount) = []) ∧
    (∀ st ∈ [CmdState.done, .graphing, .checkpointing], ({ idx := 0, slot := [], st := some st } : Cmd) ∈ (queueOf 1 [{ idx := 0, slot := [], st := some st }]).cmds) ∧
    (∀ asked, let q : List Cmd := if asked then [{ idx := 0, slot := [], st := some .migrating }] else []
      let s := keeping (movingCtx false (some [5])) 0 [] [q]
      s.ctx? 1 1 = some (movingCtx false (some [5])) ∧ (∃ num s1, s.freeContext 0 = some (num, s1)) ∧ (s.queues.any fun q => q.die == 1 && q.ctx == 1 && q.cmds.any (·.st == some .migrating)) = asked) := by
  refine ⟨fun old => ⟨fun _ => ⟨_, rfl, rfl⟩, fun _ => rfl⟩, ⟨rfl, rfl, rfl⟩, ?_, ?_, by decide +kernel, by simp [queueOf], ?_⟩
  · intro f; cases f <;> decide +kernel
  · intro cores h
    refine ⟨rfl, by decide +kernel, ⟨0, List.mem_range.mpr (by decide), by decide +kernel⟩, by decide +kernel, ?_, rfl, rfl⟩
    simp only [List.mem_cons, List.not_mem_nil, or_false] at h
    rcases h with rfl | rfl <;> decide +kernel
  · intro b
    have h : ((keeping (movingCtx false (some [5])) 0 [] [if b then [{ idx := 0, slot := [], st := some .migrating }] else []]).freeContext 0).isSome = true := by cases b <;> decide +kernel
    obtain ⟨⟨num, s1⟩, h⟩ := Option.isSome_iff_exists.mp h
    refine ⟨rfl, ⟨num, s1, h⟩, ?_⟩
    cases b <;> decide +kernel

/-- A head that scans one ring of two records, at 0x40000 of P: both good, the second not ready, neither ready, or neither good. -/
def showing (mem : List (Nat × Nat × Nat)) (shown : Option Nat) : State :=
  { State.reset with dies := [{ Die.resetP with heads := [{ hctl := 1, ringBase := 0x40000, ringSize := 1, ringTail := 2, shown := shown }] }, Die.resetD 1 true, Die.resetD 2 false]
                     mem := mem.foldl (fun m e => Memory.write m (0x40000 + e.1) (bytesLE e.2.1 e.2.2)) [] }
def goodRec (i : Nat) (waits : Bool) : List (Nat × Nat × Nat) := [(64 * i + 40, 4, 0x3F800000), (64 * i + 44, 4, 0x3F800000), (64 * i + 24, 8, if waits then 5 else 0)]
theorem witness_DisplayShows :
    ((showing [] none).head? 0).isSome = true ∧ (State.reset.head? 0).isSome = true ∧
    (∀ x ∈ [(goodRec 0 false ++ goodRec 1 false, none, [0, 1], [0, 1], none), (goodRec 0 true ++ goodRec 1 false, none, [0, 1], [1], none), (goodRec 0 false, none, [0], [0], none), (([] : List (Nat × Nat × Nat)), some 5, [], [], some 5),
        (goodRec 1 true, none, [1], [], none), (goodRec 1 true, some 0, [1], [], some 0)], let s := showing x.1 x.2.1
      ∃ h, s.head? 0 = some h ∧ h.hctl.getLsbD 0 = true ∧ h.hstat.getLsbD 2 = false ∧ h.shown = x.2.2.2.2 ∧
        let window := (List.range (h.ringTail - h.ringHead).toNat).map fun j => (h.ringHead.toNat + j) % 2 ^ 32
        let todo := window.filter fun i => !h.final.contains i && h.shown != some i
        let bytes (i : Nat) : List Byte := s.dispRead (h.ringBase.toNat + 64 * (i % 2 ^ (h.ringSize.toNat % 16))) 64
        let bad := todo.filter fun i => !presentOk (bytes i) (h.hmode.toNat % 65536)
        let good := todo.filter (!bad.contains ·)
        good = x.2.2.1 ∧ (good.filter fun i => decide (natAt (bytes i) 24 8 ≤ natLE (s.dispRead (natAt (bytes i) 16 8) 8))) = x.2.2.2.1) := by
  refine ⟨rfl, rfl, ?_⟩
  intro x hx
  simp only [List.mem_cons, List.not_mem_nil, or_false] at hx
  rcases hx with rfl | rfl | rfl | rfl | rfl | rfl <;> exact ⟨_, rfl, rfl, rfl, rfl, by decide +kernel, by decide +kernel⟩

end Sys2Proof.Tests
end

/-! SUPPORT. The registers of a die as the host writes them (R315, R272, R320), and O53. -/
namespace Sys2Proof.Machine

theorem State.updDie_congr {s : State} {die : Nat} {f g : Die → Die} (h : ∀ d, f d = g d) : s.updDie die f = s.updDie die g := by
  rw [funext h]

/-! The register space (R315) -/

section
variable (s : State) (die : Nat)

theorem Die.writeLock_eq (d : Die) (v : Word) : d.writeLock v =
    if v ≠ 1 ∨ d.locked = true then d else if d.carveOk = true then { d with locked := true, boot := .verifying } else { d with locked := true, boot := .rejected, reject := 1 } := by
  simp [Die.writeLock]

theorem Mailbox.ring_eq (m : Mailbox) (v : Word) :
    m.ring v = if m.busy = true ∨ m.resp = true then { m with overrun := true } else { m with door := v, busy := true } := by
  simp [Mailbox.ring]

theorem barOk_eq_false {off size : Nat} (h : (size ≠ 4 ∧ size ≠ 8) ∨ off % size ≠ 0) : barOk off size = false := by
  simp only [barOk, Bool.and_eq_false_iff, Bool.or_eq_false_iff, beq_eq_false_iff_ne]
  exact h

theorem registerWrite_four {off : Nat} (h : off % 4 = 0) (v : DWord) :
    exec (.registerWrite die off 4 v) s = .next (s.write32 die off (v.setWidth 32)) := by
  simp [exec, execRegisterWrite, barOk, h]

theorem registerWrite_eight {off : Nat} (h : off % 8 = 0) (v : DWord) : exec (.registerWrite die off 8 v) s =
    .next ((s.write32 die off (v.setWidth 32)).write32 die (off + 4) ((v >>> 32).setWidth 32)) := by
  simp [exec, execRegisterWrite, barOk, h]

theorem registerWrite_badAccess {off size : Nat} (h : barOk off size = false) (v : DWord) :
    exec (.registerWrite die off size v) s = .next (s.report die { kind := 12, a := off }) := by
  simp [exec, execRegisterWrite, State.barAbort, h]

theorem bar0BadAccess_badAccess {off size : Nat} (h : barOk off size = false) (w : Bool) :
    exec (.bar0BadAccess die off size w) s = .next (s.report die { kind := 12, a := off }) := by
  simp [exec, execBar0BadAccess, State.barAbort, h]

theorem write32_mailbox {core o : Nat} (hc : core < 8) (ho : o < 0x400) (v : Word) :
    s.write32 die (0x10000 + core * 0x400 + o) v = s.updDie die fun d =>
      d.setMail core (if o < 0x40 then { d.mailbox core with req := (d.mailbox core).req.take o ++ bytesLE 4 v.toNat ++ (d.mailbox core).req.drop (o + 4) }
        else if o = 0x80 then (d.mailbox core).ring v else if o = 0x88 then (d.mailbox core).writeStat v else d.mailbox core) := by
  have hcore : (0x10000 + core * 0x400 + o - 0x10000) / 0x400 = core := by omega
  have ho' : (0x10000 + core * 0x400 + o) % 0x400 = o := by omega
  have hlt : 0x10000 + core * 0x400 + o < 0x12000 := by omega
  have hle : 0x10000 ≤ 0x10000 + core * 0x400 + o := by omega
  simp only [State.write32, hlt, hle, hcore, ho', decide_true, Bool.and_self, if_true, beq_iff_eq]

theorem execQueueNotify_next (q : Nat) (v : DWord) (relaxed : Bool) : ∃ s', execQueueNotify die q v relaxed s = .next s' := by
  unfold execQueueNotify
  split
  · exact ⟨_, rfl⟩
  · simp only
    split
    · exact ⟨_, rfl⟩
    · split <;> exact ⟨_, rfl⟩

theorem write32_notify {q : Nat} (hq : q < 16384) (v : Word) :
    .next (s.write32 die (0x100000 + 8 * q) v) = execQueueNotify die q (v.setWidth 64) false s := by
  have hmail : ¬ 0x100000 + 8 * q < 0x12000 := by omega
  have hlt : 0x100000 + 8 * q < 0x120000 := by omega
  have hle : 0x100000 ≤ 0x100000 + 8 * q := by omega
  have hal : (0x100000 + 8 * q) % 8 = 0 := by omega
  have hv : BitVec.ofNat 64 v.toNat = v.setWidth 64 := BitVec.ofNat_toNat 64 v
  obtain ⟨s', h⟩ := execQueueNotify_next s die q (v.setWidth 64) false
  simp [State.write32, hmail, hlt, hle, hal, hv, h]

theorem write32_head {head o : Nat} (hh : head < 2) (ho : o < 0x1000) (v : Word) :
    s.write32 0 (0x200000 + head * 0x1000 + o) v = s.headWrite head o v := by
  have hmail : ¬ 0x200000 + head * 0x1000 + o < 0x12000 := by omega
  have hnote : ¬ 0x200000 + head * 0x1000 + o < 0x120000 := by omega
  have hlt : 0x200000 + head * 0x1000 + o < 0x202000 := by omega
  have hle : 0x200000 ≤ 0x200000 + head * 0x1000 + o := by omega
  have hhead : (0x200000 + head * 0x1000 + o - 0x200000) / 0x1000 = head := by omega
  have ho' : (0x200000 + head * 0x1000 + o) % 0x1000 = o := by omega
  simp [State.write32, hmail, hnote, hlt, hle, hhead, ho']

end

/-! A write of HCTL (R272) -/

/-- Whether a write of HCTL leaves the link field as it is: ENABLE is 1, or the value is the reserved one. -/
def Head.linkHeld (h : Head) (v : Word) : Bool := h.on || v.toNat / 2 % 4 == 3
/-- The same of the connection field. -/
def Head.connHeld (h : Head) (v : Word) : Bool := h.on || v.toNat / 16 % 4 == 3
/-- The bits of HCTL that a write may change besides ENABLE. -/
def ctlFree (linkHeld connHeld : Bool) : Nat := 8 ||| (if linkHeld then 0 else 0x6) ||| (if connHeld then 0 else 0x30)
/-- What a write leaves of HCTL before ENABLE is judged. -/
def Head.ctlBase (h : Head) (v : Word) : Word :=
  let free := ctlFree (h.linkHeld v) (h.connHeld v)
  (h.hctl &&& ~~~(w32 (free ||| 1))) ||| (v &&& w32 free)

section
variable (h : Head) (docked : Bool) (head : Nat) (v : Word)

theorem Head.writeCtl_eq : h.writeCtl docked head v =
    if !v.getLsbD 0 then { h with hctl := h.ctlBase v, hstat := hstatOf false h.modeBad h.tailBad }
    else if h.on then { h with hctl := h.ctlBase v ||| 1 }
    else if connectionOk docked head ((h.ctlBase v).toNat / 16 % 4) && modeOk docked h.hmode then
      { h with hctl := h.ctlBase v ||| 1, hstat := hstatOf true false false }
    else { h with hctl := h.ctlBase v, hstat := hstatOf false true h.tailBad } := rfl

theorem ctlFree_testBit (a b : Bool) : (ctlFree a b).testBit 0 = false ∧ (∀ k ∈ [1, 2], (ctlFree a b).testBit k = !a) ∧
    (ctlFree a b).testBit 3 = true ∧ (∀ k ∈ [4, 5], (ctlFree a b).testBit k = !b) := by
  revert a b
  decide

theorem getLsbD_w32 {k : Nat} (hk : k < 32) (n : Nat) : (w32 n).getLsbD k = n.testBit k := by
  simp only [w32, BitVec.getLsbD_ofNat, hk, decide_true, Bool.true_and]

theorem Head.ctlBase_getLsbD {k : Nat} (hk : k < 32) (h0 : k ≠ 0) : (h.ctlBase v).getLsbD k =
    if (ctlFree (h.linkHeld v) (h.connHeld v)).testBit k then v.getLsbD k else h.hctl.getLsbD k := by
  have h1 : Nat.testBit 1 k = false := by simp [Nat.testBit_one_eq_true_iff_self_eq_zero, Bool.eq_false_iff, h0]
  simp only [Head.ctlBase, BitVec.getLsbD_or, BitVec.getLsbD_and, BitVec.getLsbD_not, getLsbD_w32 hk, Nat.testBit_or, h1]
  cases (ctlFree (h.linkHeld v) (h.connHeld v)).testBit k <;> simp [hk]

theorem Head.ctlBase_enable : (h.ctlBase v).getLsbD 0 = false := by
  simp only [Head.ctlBase, BitVec.getLsbD_or, BitVec.getLsbD_and, BitVec.getLsbD_not, getLsbD_w32 (Nat.zero_lt_succ 31), Nat.testBit_or, ctlFree_testBit]
  simp
theorem Head.ctlBase_test : (h.ctlBase v).getLsbD 3 = v.getLsbD 3 := by
  rw [h.ctlBase_getLsbD v (by decide) (by decide), (ctlFree_testBit _ _).2.2.1, if_pos rfl]
theorem Head.ctlBase_link {k : Nat} (hk : k ∈ [1, 2]) : (h.ctlBase v).getLsbD k = if h.linkHeld v then h.hctl.getLsbD k else v.getLsbD k := by
  obtain ⟨hlt, h0⟩ : k < 32 ∧ k ≠ 0 := by revert k; decide
  rw [h.ctlBase_getLsbD v hlt h0, (ctlFree_testBit _ _).2.1 k hk]
  cases h.linkHeld v <;> rfl
theorem Head.ctlBase_conn {k : Nat} (hk : k ∈ [4, 5]) : (h.ctlBase v).getLsbD k = if h.connHeld v then h.hctl.getLsbD k else v.getLsbD k := by
  obtain ⟨hlt, h0⟩ : k < 32 ∧ k ≠ 0 := by revert k; decide
  rw [h.ctlBase_getLsbD v hlt h0, (ctlFree_testBit _ _).2.2.2 k hk]
  cases h.connHeld v <;> rfl

theorem toNat_div_sixteen_mod_four (w : Word) : w.toNat / 16 % 4 = (w.getLsbD 4).toNat + 2 * (w.getLsbD 5).toNat := by
  have h4 : (w.getLsbD 4).toNat = w.toNat / 16 % 2 := Nat.toNat_testBit w.toNat 4
  have h5 : (w.getLsbD 5).toNat = w.toNat / 32 % 2 := Nat.toNat_testBit w.toNat 5
  omega

theorem Head.ctlBase_connection :
    (h.ctlBase v).toNat / 16 % 4 = if h.connHeld v then h.hctl.toNat / 16 % 4 else v.toNat / 16 % 4 := by
  rw [toNat_div_sixteen_mod_four, h.ctlBase_conn v (.head _), h.ctlBase_conn v (.tail _ (.head _))]
  cases h.connHeld v
  · exact (toNat_div_sixteen_mod_four v).symm
  · exact (toNat_div_sixteen_mod_four h.hctl).symm

/-- Only ENABLE is left to judge. -/
theorem Head.writeCtl_getLsbD {k : Nat} (hk : k ≠ 0) : (h.writeCtl docked head v).hctl.getLsbD k = (h.ctlBase v).getLsbD k := by
  have h1 : (h.ctlBase v ||| 1).getLsbD k = (h.ctlBase v).getLsbD k := by simp [BitVec.getLsbD_one, hk]
  rw [Head.writeCtl_eq]
  split
  · rfl
  · split
    · exact h1
    · split
      · exact h1
      · rfl

theorem hstatOf_tailBad : hstatOf h.on h.modeBad true = (if h.hctl.getLsbD 0 then 1 else 0) ||| (h.hstat &&& 2) ||| 4 := by
  have h2 : h.hstat &&& 2 = if h.hstat.getLsbD 1 then 2 else 0 := BitVec.and_twoPow h.hstat 1
  have hw : ∀ a b : Bool, hstatOf a b true = (if a then 1 else 0) ||| (if b then 2 else 0) ||| 4 := by decide
  rw [h2, hw]
  rfl

theorem Head.writeTail_eq : h.writeTail v =
    if h.hstat.getLsbD 2 = true then h
    else if 2 ^ (h.ringSize.toNat % 16) < (v - h.ringHead).toNat ∨ 2 ^ 31 ≤ (v - h.ringTail).toNat then
      { h with hstat := (if h.hctl.getLsbD 0 then 1 else 0) ||| (h.hstat &&& 2) ||| 4 }
    else { h with ringTail := v } := by
  simp only [Head.writeTail, hstatOf_tailBad, Head.tailBad, BitVec.msb_eq_decide, Bool.or_eq_true, decide_eq_true_eq]
end

section
variable (h : Head) (docked : Bool) (head : Nat) (v : Word)

theorem Head.writeCtl_disable (hv : v.getLsbD 0 = false) : (h.writeCtl docked head v).hctl.getLsbD 0 = false := by
  rw [Head.writeCtl_eq, hv]
  exact h.ctlBase_enable v

/-- While ENABLE is 1 the link and connection fields stay (R272). -/
theorem Head.writeCtl_on (hon : h.on = true) {k : Nat} (hk : k ∈ [1, 2, 4, 5]) :
    (h.writeCtl docked head v).hctl.getLsbD k = h.hctl.getLsbD k := by
  have hk0 : k ≠ 0 := by revert k; decide
  have hfree : (ctlFree true true).testBit k = false := by revert k; decide
  have hlt : k < 32 := by revert k; decide
  rw [h.writeCtl_getLsbD docked head v hk0, h.ctlBase_getLsbD v hlt hk0, Head.linkHeld, Head.connHeld, hon, Bool.true_or, Bool.true_or, hfree]
  rfl

theorem Head.linkHeld_off (hoff : h.on = false) : h.linkHeld v = decide (v.toNat / 2 % 4 = 3) := by rw [Head.linkHeld, hoff]; rfl
theorem Head.connHeld_off (hoff : h.on = false) : h.connHeld v = decide (v.toNat / 16 % 4 = 3) := by rw [Head.connHeld, hoff]; rfl

/-- Enabling is checked against the connection that the write leaves (R271, R272). -/
theorem Head.writeCtl_enable (hoff : h.on = false) (hv : v.getLsbD 0 = true) :
    h.writeCtl docked head v =
      if connectionOk docked head (if v.toNat / 16 % 4 = 3 then h.hctl.toNat / 16 % 4 else v.toNat / 16 % 4) = true ∧ modeOk docked h.hmode = true then
        { h with hctl := h.ctlBase v ||| 1, hstat := 1 }
      else { h with hctl := h.ctlBase v, hstat := hstatOf false true h.tailBad } := by
  have hscan : hstatOf true false false = 1 := by decide
  simp only [Head.writeCtl_eq, hv, hoff, h.ctlBase_connection v, h.connHeld_off v hoff, hscan, decide_eq_true_eq, Bool.and_eq_true, Bool.not_true, Bool.false_eq_true, if_false]

theorem hstatOf_modeBad (b : Bool) : (hstatOf false true b).getLsbD 1 = true := by revert b; decide
end

/-! Boot (R325, R328) -/

theorem firmwareVerify_eq {s : State} {die : Nat} {d : Die} (hd : s.die? die = some d) (hb : d.boot = .verifying) (ht : d.tripped = false) :
    let h := s.homeBytes (physKey die d.carveBase) 4096
    exec (.firmwareVerify die) s = .next (s.updDie die fun d' => match rejects d h fun c => s.homeBytes (physKey die (d.carveBase + c.off)) c.len with
      | some r => { d' with boot := .rejected, reject := r }
      | none => { ((components h).zip (List.range 9)).foldl (fun (d : Die) (c, i) => d.extend (s.dieTime die) i 0 (natAt h 4 4) c.digest)
          (d'.extend (s.dieTime die) 0xFF 0 (natAt h 4 4) (Config.sha512 (h.take 3584))) with boot := .running }) := by
  intro h
  have hgo : (d.boot != .verifying || d.tripped) = false := by rw [hb, ht]; rfl
  simp only [exec, execFirmwareVerify, hd, hgo, Bool.false_eq_true, if_false]
  cases rejects d h fun c => s.homeBytes (physKey die (d.carveBase + c.off)) c.len <;> rfl

/-! One register each -/

section
variable (s : State) (die : Nat) (v : DWord)

theorem registerWrite_carve : let lo := (v.setWidth 32 : Word)
    exec (.registerWrite die 0x10 4 v) s = .next (s.updDie die fun d => if d.locked = true then d else { d with carveBase := d.carveBase / 2 ^ 32 * 2 ^ 32 + lo.toNat }) ∧
    exec (.registerWrite die 0x14 4 v) s = .next (s.updDie die fun d => if d.locked = true then d else { d with carveBase := d.carveBase % 2 ^ 32 + lo.toNat * 2 ^ 32 }) ∧
    exec (.registerWrite die 0x18 4 v) s = .next (s.updDie die fun d => if d.locked = true then d else { d with carveSize := lo.toNat }) :=
  ⟨registerWrite_four s die rfl v, registerWrite_four s die rfl v, registerWrite_four s die rfl v⟩

theorem registerWrite_reserved {o : Nat} (ho : o ∈ [0x00, 0x08, 0x30, 0x1000, 0x20000]) : exec (.registerWrite die o 4 v) s = .next s := by
  simp only [List.mem_cons, List.not_mem_nil, or_false] at ho
  rcases ho with rfl | rfl | rfl | rfl | rfl <;> exact registerWrite_four s die rfl v

theorem registerWrite_request {core k : Nat} (hc : core < 8) (hk : k < 16) : exec (.registerWrite die (0x10000 + core * 0x400 + 4 * k) 4 v) s =
    .next (s.updDie die fun d => d.setMail core { d.mailbox core with
      req := (d.mailbox core).req.take (4 * k) ++ bytesLE 4 (v.setWidth 32 : Word).toNat ++ (d.mailbox core).req.drop (4 * k + 4) }) := by
  have ho : 4 * k < 0x40 := by omega
  rw [registerWrite_four s die (by omega), write32_mailbox s die hc (by omega)]
  simp only [ho, if_true]

theorem registerWrite_doorbell {core : Nat} (hc : core < 8) : exec (.registerWrite die (0x10000 + core * 0x400 + 0x80) 4 v) s =
    .next (s.updDie die fun d => d.setMail core (if (d.mailbox core).busy = true ∨ (d.mailbox core).resp = true then { d.mailbox core with overrun := true }
      else { d.mailbox core with door := v.setWidth 32, busy := true })) := by
  rw [registerWrite_four s die (by omega), write32_mailbox s die hc (by omega)]
  simp only [← Mailbox.ring_eq]
  rfl

theorem registerWrite_mbstat {core : Nat} (hc : core < 8) :
    exec (.registerWrite die (0x10000 + core * 0x400 + 0x88) 4 v) s = exec (.mbstatWrite die core (v.setWidth 32)) s := by
  rw [registerWrite_four s die (by omega), write32_mailbox s die hc (by omega)]
  rfl

theorem registerWrite_notify {q : Nat} (hq : q < 16384) :
    exec (.registerWrite die (0x100000 + 8 * q) 4 v) s = exec (.queueNotify die q ((v.setWidth 32 : Word).setWidth 64) false) s := by
  rw [registerWrite_four s die (by omega)]
  exact write32_notify s die hq _

theorem registerWrite_head {head : Nat} (hh : head < 2) :
    exec (.registerWrite 0 (0x200000 + head * 0x1000) 4 v) s = exec (.hctlWrite head (v.setWidth 32)) s ∧
    exec (.registerWrite 0 (0x200020 + head * 0x1000) 4 v) s = exec (.ringtailWrite head (v.setWidth 32)) s := by
  have htail : 0x200020 + head * 0x1000 = 0x200000 + head * 0x1000 + 0x20 := by omega
  have hctl := write32_head s (o := 0) hh (by decide) (v.setWidth 32)
  rw [htail, registerWrite_four s 0 (by omega), registerWrite_four s 0 (by omega), write32_head s hh (by decide)]
  exact ⟨congrArg _ hctl, rfl⟩

/-- Eight bytes are two words, the low one first (R315). -/
theorem registerWrite_halves {off : Nat} (h : off % 8 = 0) {s1 s2 : State} (h1 : exec (.registerWrite die off 4 v) s = .next s1)
    (h2 : exec (.registerWrite die (off + 4) 4 (v >>> 32)) s1 = .next s2) : exec (.registerWrite die off 8 v) s = .next s2 := by
  rw [registerWrite_four s die (by omega)] at h1
  cases h1
  rw [registerWrite_eight s die h, ← registerWrite_four _ die (by omega), h2]
end

theorem ringtailWrite_eq (s : State) (head : Nat) (v : Word) {f : Head → Head} (hf : ∀ h : Head, h.writeTail v = f h) :
    exec (.ringtailWrite head v) s = .next (s.updDie 0 fun d => { d with heads := d.heads.modify head f }) := by
  rw [← funext hf]
  rfl

/-- Core 6's clock step (R16, R332), its conditions as a conjunction. -/
theorem clockChange_eq (s : State) (die mhz : Nat) : exec (.clockChange die mhz) s = .next (s.updDie die fun d =>
    if d.isD = true ∧ d.tripped = false ∧ d.runs 6 = true ∧ 400 ≤ mhz ∧ mhz ≤ 1200 ∧ mhz % 50 = 0 ∧ (mhz + 50 = d.clock ∨ (mhz = d.clock + 50 ∧ mhz ≤ d.clockCap)) then
      { d with clock := mhz } else d) := by
  refine congrArg _ (State.updDie_congr fun d => ?_)
  simp only [Bool.and_eq_true, Bool.or_eq_true, Bool.not_eq_true', decide_eq_true_eq, beq_iff_eq, and_assoc]

/-- Settles O53: each clause by the lemma on its register; those of HCTL through the base word that the write leaves. -/
theorem registersAreWritten : Obligations.RegistersAreWritten := by
  unfold Obligations.RegistersAreWritten
  refine ⟨?fwlock, ?verify, ?lostBits, ?badAccess, ?bar0, ?heads, ?hctl, clockChange_eq, ?telemetry⟩
  case fwlock => exact fun s die v => congrArg _ (State.updDie_congr (·.writeLock_eq v))
  case verify => exact fun s die d hd hb ht => firmwareVerify_eq hd hb ht
  case lostBits => exact fun s die v => rfl
  case badAccess =>
    intro s die off size v w h
    exact ⟨registerWrite_badAccess s die (barOk_eq_false h) v, bar0BadAccess_badAccess s die (barOk_eq_false h) w⟩
  case bar0 =>
    intro s die v
    obtain ⟨hlow, hhigh, hsize⟩ := registerWrite_carve s die v
    exact ⟨hlow, hhigh, hsize, registerWrite_four s die rfl v, registerWrite_four s die rfl v, fun o ho => registerWrite_reserved s die v ho,
      fun core hc => ⟨fun k hk => registerWrite_request s die v hc hk, registerWrite_doorbell s die v hc, registerWrite_mbstat s die v hc⟩,
      fun q hq => registerWrite_notify s die v hq, fun head hh => registerWrite_head s v hh, fun off s1 s2 h h1 h2 => registerWrite_halves s die v h h1 h2⟩
  case heads => exact fun s head v => ⟨rfl, ringtailWrite_eq s head v (·.writeTail_eq v)⟩
  case hctl =>
    intro h docked head v
    refine ⟨h.writeCtl_disable docked head v, fun hon k hk => h.writeCtl_on docked head v hon hk, fun hoff =>
      ⟨fun k hk => ?link, ?test, fun k hk => ?conn, fun hv => ?enable⟩⟩
    case link =>
      have hk0 : k ≠ 0 := by revert k; decide
      simp only [h.writeCtl_getLsbD docked head v hk0, h.ctlBase_link v hk, h.linkHeld_off v hoff, decide_eq_true_eq]
    case test => rw [h.writeCtl_getLsbD docked head v (by decide), h.ctlBase_test]
    case conn =>
      have hk0 : k ≠ 0 := by revert k; decide
      simp only [h.writeCtl_getLsbD docked head v hk0, h.ctlBase_conn v hk, h.connHeld_off v hoff, decide_eq_true_eq]
    case enable =>
      rw [h.writeCtl_enable docked head v hoff hv]
      refine ⟨fun good => ?_, fun bad => ?_⟩
      · rw [if_pos good]
        simp
      · rw [if_neg bad]
        exact ⟨(h.ctlBase_enable v).trans hoff.symm, hstatOf_modeBad _⟩
  case telemetry => exact fun s die power temp reasons => rfl

end Sys2Proof.Machine

/-! SUPPORT. Dies attached and gone, the loss of a link (R308 to R311, R316 to R318) and the end of every context (R333), and O54. -/
namespace Sys2Proof.Machine

/-! The dies and whether they are present -/

/-- Each die's code with whether it is present. -/
def State.attached (s : State) : List (Nat × Bool) := s.dies.map fun d => (d.code, d.present)

section
variable (s : State) (die : Nat)

theorem State.updDie_attached {f : Die → Die} (hf : ∀ d, (f d).code = d.code ∧ (f d).present = d.present) : (s.updDie die f).attached = s.attached := by
  simp only [State.attached, State.updDie, List.map_map]
  refine List.map_congr_left fun d _ => ?_
  simp only [Function.comp_apply]
  split
  · rw [(hf d).1, (hf d).2]
  · rfl

theorem State.putHome_attached (key : Nat) (bs : List Byte) : (s.putHome key bs).attached = s.attached := by
  simp only [State.putHome]
  split <;> rfl

theorem State.raise_attached (vector : Nat) : (s.raise die vector).attached = s.attached := by
  unfold State.raise
  split
  · rfl
  · simp only
    split
    · exact s.updDie_attached die fun d => ⟨rfl, rfl⟩
    · exact s.putHome_attached _ _

theorem State.setDock_attached (st : DockState) : (s.setDock die st).attached = s.attached := by
  unfold State.setDock
  split
  · split
    · rfl
    · rw [State.raise_attached]
      exact s.updDie_attached die fun d => ⟨rfl, rfl⟩
  · rfl

theorem State.mem_setPresent_attached {far : List Nat} {there : Bool} {code : Nat} {present : Bool} (h : (code, present) ∈ (s.setPresent far there).attached)
    (hfar : code ∈ far) : present = there := by
  obtain ⟨d, hd, he⟩ := List.mem_map.mp h
  obtain ⟨d0, -, rfl⟩ := List.mem_map.mp hd
  by_cases hc : far.contains d0.code = true
  · rw [if_pos hc] at he
    exact (congrArg Prod.snd he).symm
  · rw [if_neg hc] at he
    cases he
    exact absurd (List.contains_iff_mem.mpr hfar) hc

/-- The dies beyond a link that is released or lost are no part of the machine (R316, R318). -/
theorem State.detach_absent {d : Die} (hd : d ∈ (s.detach die).dies) (hfar : d.code ∈ beyond die) : d.present = false := by
  have h : (d.code, d.present) ∈ (s.detach die).attached := List.mem_map.mpr ⟨d, hd, rfl⟩
  rw [State.detach, State.setDock_attached] at h
  exact s.mem_setPresent_attached h hfar

end

/-! The dock states (R316, R317, R318) -/

theorem downstream_eq {die : Nat} (h : die < 2) : downstream die = some (die + 1) := by
  match die, h with
  | 0, _ => rfl
  | 1, _ => rfl

section
variable {s : State} {die : Nat} {d : Die} (hd : s.die? die = some d)
include hd

theorem State.setDock_same {st : DockState} (h : d.dock = st) : s.setDock die st = s := by
  simp [State.setDock, hd, h]
theorem State.setDock_other {st : DockState} (h : d.dock ≠ st) :
    s.setDock die st = (s.updDie die fun d => { d with dock := st, refused := false }).raise die 0 := by
  simp [State.setDock, hd, h]

theorem dockPresence_trains (hp : d.present = true) (hu : d.dock = .undocked) (hlt : die < 2) :
    exec (.dockPresence die) s = .next (s.setDock die .training) := by
  simp [exec, execDockPresence, hd, hp, hu, downstream_eq hlt]

theorem linkTrained_boots {w : Nat} (ht : d.dock = .training) (hw : (if die = 0 then 8 else 16) ≤ w) :
    exec (.linkTrained die w) s = .next (s.setDock die .booting) := by
  simp [exec, execLinkTrained, hd, ht, portWidth, hw]

theorem farDieRunning_syncs {f : Die} (hb : d.dock = .booting) (hlt : die < 2) (hf : s.die? (die + 1) = some f) (hr : f.boot = .running) :
    exec (.farDieRunning die) s = .next (s.setDock die .syncing) := by
  simp [exec, execFarDieRunning, hd, hb, downstream_eq hlt, hf, hr]

/-- A die of another generation stays out, with one record (R317). -/
theorem dockSync_refuses {g : Nat} (hp : d.present = true) (hs : d.dock = .syncing) (hlt : die < 2) (hg : g ≠ Config.generation die) :
    exec (.dockSync die g) s = .next (if d.refused = true then s else (s.updDie die fun d => { d with refused := true }).report die { kind := 14 }) := by
  simp [exec, execDockSync, hd, hp, hs, downstream_eq hlt, hg]

/-- The far die is attached with what stands docked behind it, and P offers its contexts to D0 (R303, R317). -/
theorem dockSync_docks {g : Nat} (hp : d.present = true) (hs : d.dock = .syncing) (hlt : die < 2) (hg : g = Config.generation die) :
    let far := (die + 1) :: (if (s.die? (die + 1)).any (·.dock == .docked) = true then beyond (die + 1) else [])
    let v := (s.setPresent far true).setDock die .docked
    exec (.dockSync die g) s = .next (if die ≠ 0 then v else { v with ctxs := v.ctxs.map fun c =>
      if c.die == 0 && c.migratable && c.acceptDock && !c.failed && c.migrating.isNone then { c with migrating := some 1 } else c }) := by
  simp [exec, execDockSync, hd, hp, hs, downstream_eq hlt, hg]

theorem undockComplete_detaches (hu : d.dock = .undocking) (hback : ∀ c ∈ s.ctxs, c.die ∉ beyond die ∧ ∀ t, c.migrating = some t → t ∉ beyond die) :
    exec (.undockComplete die) s = .next (s.detach die) := by
  have hnone : (s.ctxs.any fun c => (beyond die).contains c.die || c.migrating.any ((beyond die).contains ·)) = false := by
    rw [List.any_eq_false]
    intro c hc
    obtain ⟨hhere, hto⟩ := hback c hc
    cases hm : c.migrating with
    | none => simpa using hhere
    | some t => simpa using ⟨hhere, hto t hm⟩
  simp only [exec, execUndockComplete, hd, hu, hnone, beq_self_eq_true, Bool.not_false, Bool.and_self, if_true]

theorem lossOf_undocked (hu : d.dock = .undocked) : s.lossOf die = s := by
  simp [State.lossOf, hd, hu]
theorem lossOf_docking (hu : d.dock = .training ∨ d.dock = .booting ∨ d.dock = .syncing) : s.lossOf die = s.setDock die .undocked := by
  rcases hu with h | h | h <;> simp [State.lossOf, hd, h]
theorem lossOf_docked (hu : d.dock = .docked ∨ d.dock = .undocking) : s.lossOf die = (s.loseDies die ((beyond die).filter s.present)).detach die := by
  rcases hu with h | h <;> simp [State.lossOf, hd, h]
end

/-! The dies beyond a lost link (R308 to R311) -/

section
variable (s : State) (near : Nat) (lost : List Nat)

/-- The last thing a lost link does to the dies: the lost bits of those that stay. -/
theorem State.loseDies_dies : ∃ l : List Die, (s.loseDies near lost).dies = l.map fun d => if lost.contains d.code || !d.present then d else
    { d with lost0 := d.lost0 || lost.contains 1, lost1 := d.lost1 || lost.contains 2 } := ⟨_, rfl⟩
theorem State.loseDies_locks : ∃ l : List LockRec, (s.loseDies near lost).locks = l.filter fun e => !lost.contains (e.key / 2 ^ 52) := ⟨_, rfl⟩

theorem State.loseDies_lostBits {d : Die} (hd : d ∈ (s.loseDies near lost).dies) (hc : d.code ∉ lost) (hp : d.present = true) :
    (1 ∈ lost → d.lost0 = true) ∧ (2 ∈ lost → d.lost1 = true) := by
  obtain ⟨l, hl⟩ := s.loseDies_dies near lost
  rw [hl] at hd
  obtain ⟨d0, -, rfl⟩ := List.mem_map.mp hd
  by_cases hstay : (lost.contains d0.code || !d0.present) = true
  · rw [if_pos hstay] at hc hp
    simp [hc, hp] at hstay
  · rw [if_neg hstay]
    simp +contextual

theorem State.loseDies_lock_home {e : LockRec} (he : e ∈ (s.loseDies near lost).locks) : e.key / 2 ^ 52 ∉ lost := by
  obtain ⟨l, hl⟩ := s.loseDies_locks near lost
  rw [hl] at he
  simpa using (List.mem_filter.mp he).2
end

/-! The end of every context (R333) -/

/-- What the end of a context changes before its queues' last words are written. -/
def State.endCtx (die : Nat) (s : State) (c : Context) : State :=
  (s.beginDestroy die c.num).updCtx die c.num fun c =>
    { c with ending := true, checkpoint := false, ckpt := 0, held := [], heldMore := [], migrating := none, sent := none }
/-- The last word of a queue: 0x12 above any slot sequence. -/
def State.lastWord (die num : Nat) (s : State) (q : Queue) : State :=
  s.draw.2.wordWrite (feMaster die num) q.statusAddr (s.draw.1 % 2 ^ 32 + 0x12 * 2 ^ 32)
/-- The queues of a context of a die. -/
def State.queuesOf (s : State) (die num : Nat) : List Queue := s.queues.filter fun q => q.die == die && q.ctx == num

theorem endContexts_eq (s : State) (die : Nat) : s.endContexts die =
    (s.ctxs.filter (·.die == die)).foldl (fun s c => ((s.endCtx die c).queuesOf die c.num).foldl (State.lastWord die c.num) (s.endCtx die c)) s := rfl

theorem foldl_freeRegions_queues (uids : List Nat) (s : State) : (uids.foldl (fun (s : State) uid => s.freeRegions (s.team uid)) s).queues = s.queues := by
  induction uids generalizing s with
  | nil => rfl
  | cons u us ih => exact ih _

/-- The end of a context begun leaves each queue where it is, with its address. -/
theorem beginDestroy_queues (s : State) (die num : Nat) :
    ∃ f : Queue → Queue, (s.beginDestroy die num).queues = s.queues.map f ∧ ∀ q, (f q).die = q.die ∧ (f q).ctx = q.ctx ∧ (f q).statusAddr = q.statusAddr := by
  refine ⟨_, congrArg _ (foldl_freeRegions_queues _ s), fun q => ?_⟩
  dsimp only
  split <;> exact ⟨rfl, rfl, rfl⟩

theorem endCtx_queuesOf (s : State) (die : Nat) (c : Context) (num : Nat) :
    ∃ f : Queue → Queue, (s.endCtx die c).queuesOf die num = (s.queuesOf die num).map f ∧ ∀ q, (f q).statusAddr = q.statusAddr := by
  obtain ⟨f, hf, hkeep⟩ := beginDestroy_queues s die c.num
  refine ⟨f, ?_, fun q => (hkeep q).2.2⟩
  rw [State.queuesOf, State.endCtx, State.updCtx_queues, hf, List.filter_map]
  congr 1
  refine List.filter_congr fun q _ => ?_
  obtain ⟨hdie, hctx, -⟩ := hkeep q
  simp only [Function.comp_apply, hdie, hctx]

theorem endCtx_queues_elsewhere (s : State) (die : Nat) (c : Context) (h : ∀ q ∈ s.queues, q.die ≠ die) : ∀ q ∈ (s.endCtx die c).queues, q.die ≠ die := by
  obtain ⟨f, hf, hkeep⟩ := beginDestroy_queues s die c.num
  intro q hq
  rw [State.endCtx, State.updCtx_queues, hf] at hq
  obtain ⟨q0, hq0, rfl⟩ := List.mem_map.mp hq
  rw [(hkeep q0).1]
  exact h q0 hq0

theorem queuesOf_nil {s : State} {die : Nat} (h : ∀ q ∈ s.queues, q.die ≠ die) (num : Nat) : s.queuesOf die num = [] := by
  rw [State.queuesOf, List.filter_eq_nil_iff]
  intro q hq
  simp [h q hq]

/-- Without a queue nothing is written: the contexts only end. -/
theorem endContexts_noQueue (s : State) (die : Nat) (h : ∀ q ∈ s.queues, q.die ≠ die) :
    s.endContexts die = (s.ctxs.filter (·.die == die)).foldl (State.endCtx die) s := by
  rw [endContexts_eq]
  generalize s.ctxs.filter (·.die == die) = cs
  induction cs generalizing s with
  | nil => rfl
  | cons c cs ih =>
    have hc := endCtx_queues_elsewhere s die c h
    rw [List.foldl_cons, List.foldl_cons, queuesOf_nil hc]
    exact ih _ hc

/-- A word that is written at once. -/
theorem wordWrite_ok {s s1 : State} {m : Master} {va v : Nat}
    (h : engStore ⟨m.die, m.core, m.ctx, s.nextId⟩ va (bytesLE 8 v) { s with nextId := s.nextId + 1 } = .ok ((), s1)) :
    s.wordWrite m va v = { s1 with tlWrites := s.tlWrites.filter (·.op != s.nextId) } := by
  simp only [State.wordWrite, State.tlTry, TlWrite.act, TlWrite.master, h]

theorem endContexts_one {s s1 : State} {die : Nat} {c : Context} {q : Queue} (hc : s.ctxs.filter (·.die == die) = [c]) (hq : s.queuesOf die c.num = [q]) :
    let v := s.endCtx die c
    engStore ⟨die, (feMaster die c.num).core, c.num, v.nextId⟩ q.statusAddr (bytesLE 8 (v.draw.1 % 2 ^ 32 + 0x12 * 2 ^ 32)) { v.draw.2 with nextId := v.nextId + 1 } = .ok ((), s1) →
    s.endContexts die = { s1 with tlWrites := v.tlWrites.filter (·.op != v.nextId) } := by
  intro v h
  obtain ⟨f, hf, haddr⟩ := endCtx_queuesOf s die c c.num
  rw [endContexts_eq, hc, List.foldl_cons, List.foldl_nil, hf, hq, List.map_singleton, List.foldl_cons, List.foldl_nil, State.lastWord, haddr]
  exact wordWrite_ok h

/-- Contexts that are over are gone, each once its last words are written (R333). -/
theorem dropOver_one {s : State} {c : Context} (hc : s.ctxs = [c]) (he : c.ending = true) (hw : ∀ w ∈ s.tlWrites, w.die = c.die → w.ctx ≠ c.num) :
    s.dropOver = s.dropCtx c.die c.num := by
  have hnone : (s.tlWrites.any fun w => w.die == c.die && w.ctx == c.num) = false := by
    rw [List.any_eq_false]
    intro w hmem
    simpa using hw w hmem
  simp only [State.dropOver, hc, List.foldl_cons, List.foldl_nil, he, hnone, Bool.not_false, Bool.and_self, if_true]

theorem dropOver_none {s : State} (h : ∀ c ∈ s.ctxs, c.ending = true → ∃ w ∈ s.tlWrites, w.die = c.die ∧ w.ctx = c.num) : s.dropOver = s := by
  unfold State.dropOver
  generalize s.ctxs = cs at h
  induction cs with
  | nil => rfl
  | cons c cs ih =>
    have hstay : (c.ending && !(s.tlWrites.any fun w => w.die == c.die && w.ctx == c.num)) = false := by
      cases he : c.ending with
      | false => rfl
      | true =>
        obtain ⟨w, hmem, hdie, hctx⟩ := h c List.mem_cons_self he
        have hany : (s.tlWrites.any fun w => w.die == c.die && w.ctx == c.num) = true := List.any_eq_true.mpr ⟨w, hmem, by simp [hdie, hctx]⟩
        rw [hany]
        rfl
    rw [List.foldl_cons, hstay]
    exact ih fun x hx => h x (List.mem_cons_of_mem c hx)

/-- Settles O54: the dock states by the lemma on each event, the loss by what it leaves of dies and locks, the end of contexts by the fold over them. -/
theorem diesComeAndGo : Obligations.DiesComeAndGo := by
  unfold Obligations.DiesComeAndGo
  refine ⟨?dock, ?setDock, ?detach, ?lose, ?reset, ?d3hot, ?ends, ?dropped, ?waits⟩
  case dock =>
    intro s die d hd
    refine ⟨fun hp hu hlt => dockPresence_trains hd hp hu hlt, fun w ht hw => linkTrained_boots hd ht hw, fun f hb hlt hf hr => farDieRunning_syncs hd hb hlt hf hr,
      fun g hp hs hlt => ⟨fun hg => dockSync_refuses hd hp hs hlt hg, fun hg => ⟨fun h0 => ?onD, fun h0 => ?onP⟩⟩, fun hu hback => undockComplete_detaches hd hu hback,
      fun hu => congrArg _ (lossOf_undocked hd hu), fun hu => congrArg _ (lossOf_docking hd hu), fun hu => congrArg _ (lossOf_docked hd hu)⟩
    case onD => exact (dockSync_docks hd hp hs hlt hg).trans (congrArg _ (if_pos h0))
    case onP => exact (dockSync_docks hd hp hs hlt hg).trans (congrArg _ (if_neg fun hne => hne h0))
  case setDock => exact fun s die st d hd => ⟨State.setDock_same hd, State.setDock_other hd⟩
  case detach => exact fun s die => ⟨fun d hd hfar => s.detach_absent die hd hfar, rfl, rfl, rfl⟩
  case lose => exact fun s near lost => ⟨fun d hd hc hp => s.loseDies_lostBits near lost hd hc hp, fun e he => s.loseDies_lock_home near lost he⟩
  case reset =>
    intro s die
    exact ⟨rfl, by cases die <;> rfl⟩
  case d3hot => exact fun s die => rfl
  case ends => exact ⟨endContexts_noQueue, fun s s1 die c q hc hq => endContexts_one hc hq⟩
  case dropped => exact fun s c hc he hw => dropOver_one hc he hw
  case waits => exact fun s h => dropOver_none h

end Sys2Proof.Machine

/-! SUPPORT. The front end's queues: notifies, the choice of the slot to read, seals and the starting of commands (R61 to R69), and O49. -/
namespace Sys2Proof.Machine

-- One declaration after another, as in the tests: the whole text in one process would otherwise hold too many threads' stacks at once.
set_option Elab.async false

/-! Notifies (R61, R69) -/

/-- R61: a notified tail runs past the queue's slots, or moves backwards. -/
def Queue.tailBad (q : Queue) (tail : Nat) : Prop :=
  2 ^ q.k < (tail + 2 ^ 32 - q.head % 2 ^ 32) % 2 ^ 32 ∨ 2 ^ 31 ≤ (tail + 2 ^ 32 - q.tail % 2 ^ 32) % 2 ^ 32

section
variable {s : State} {die n : Nat} {qu : Queue} (hq : s.queueNo die n = some qu) (v : DWord) (relaxed : Bool)
include hq

theorem queueNotify_sets (h : ¬ qu.tailBad (v.toNat % 2 ^ 32)) :
    exec (.queueNotify die n v relaxed) s = .next (s.updQueue qu.uid fun q => { q with tail := v.toNat % 2 ^ 32 }) := by
  obtain ⟨hpast, hback⟩ := not_or.mp h
  simp only [exec, execQueueNotify, hq, hpast, hback, decide_false, Bool.or_self, Bool.not_false, if_true]

theorem queueNotify_bad (h : qu.tailBad (v.toNat % 2 ^ 32)) : exec (.queueNotify die n v relaxed) s = .next
    (if qu.stopped.isSome then s.report die { kind := 1, ctx := qu.ctx, code := 4, a := qu.num, b := qu.head } else s.queueError qu.uid qu.head 4) := by
  have hbad : (decide (2 ^ qu.k < (v.toNat % 2 ^ 32 + 2 ^ 32 - qu.head % 2 ^ 32) % 2 ^ 32) ||
      decide (2 ^ 31 ≤ (v.toNat % 2 ^ 32 + 2 ^ 32 - qu.tail % 2 ^ 32) % 2 ^ 32)) = true := by
    rw [← Bool.decide_or]
    exact decide_eq_true h
  simp only [exec, execQueueNotify, hq, hbad, Bool.not_true, Bool.false_eq_true, if_false]
  split <;> rfl

theorem queueStarvation_marks (h : s.canRead qu = true) :
    exec (.queueStarvation die n) s = .next (s.updQueue qu.uid fun q => { q with starved := true }) := by
  simp only [exec, execQueueStarvation, hq, h, if_true]

end

/-! The order of the queues (R67) -/

theorem Queue.before_starved {a b : Queue} (h : a.before b = true) (hb : b.starved = true) : a.starved = true := by
  cases ha : a.starved with
  | true => rfl
  | false => simp [Queue.before, ha, hb] at h

theorem Queue.before_prio {a b : Queue} (h : a.before b = true) (heq : a.starved = b.starved) : b.prio ≤ a.prio := by
  by_cases hp : a.prio = b.prio
  · exact Nat.le_of_eq hp.symm
  · simp only [Queue.before, heq, bne_self_eq_false, Bool.false_eq_true, if_false, bne_iff_ne, ne_eq, hp, not_false_iff, if_true, decide_eq_true_eq] at h
    exact Nat.le_of_lt h

theorem Queue.before_asymm {a b : Queue} (h : a.before b = true) : b.before a = false := by
  by_cases hs : a.starved = b.starved
  · by_cases hp : a.prio = b.prio
    · simp only [Queue.before, hs, hp, bne_self_eq_false, Bool.false_eq_true, if_false, decide_eq_true_eq, decide_eq_false_iff_not] at h ⊢
      omega
    · have hp' := Ne.symm hp
      simp only [Queue.before, hs, bne_self_eq_false, Bool.false_eq_true, if_false, bne_iff_ne, ne_eq, hp, hp', not_false_iff, if_true, decide_eq_true_eq,
        decide_eq_false_iff_not] at h ⊢
      omega
  · have hs' := Ne.symm hs
    simp only [Queue.before, bne_iff_ne, ne_eq, hs, hs', not_false_iff, if_true] at h ⊢
    cases hb : b.starved with
    | false => rfl
    | true => exact absurd (h.trans hb.symm) hs

/-- The front end's choice as it goes through the queues: the one found so far, unless another goes before it. -/
def Queue.sooner (b : Option Queue) (q : Queue) : Option Queue := match b with | some x => if q.before x then some q else b | none => some q

/-- The queue that goes before every other is the one chosen, wherever it stands. -/
theorem foldl_sooner {q : Queue} (hself : q.before q = false) : ∀ (l : List Queue) (b : Option Queue), (∀ o ∈ l, o = q ∨ q.before o = true) →
    (∀ x, b = some x → x = q ∨ q.before x = true) → q ∈ l ∨ b = some q → l.foldl Queue.sooner b = some q := by
  intro l
  induction l with
  | nil => exact fun b _ _ h => h.resolve_left List.not_mem_nil
  | cons o l ih =>
    intro b hl hb hq
    obtain ⟨ho, hl⟩ := List.forall_mem_cons.mp hl
    have kept : b = some q → Queue.sooner b o = some q := by
      rintro rfl
      have hnot : o.before q = false := ho.elim (fun h => h ▸ hself) Queue.before_asymm
      simp only [Queue.sooner, hnot, Bool.false_eq_true, if_false]
    have taken : o = q → Queue.sooner b o = some q := by
      rintro rfl
      cases b with
      | none => rfl
      | some x =>
        obtain rfl | hx := hb x rfl
        · exact kept rfl
        · simp only [Queue.sooner, hx, if_true]
    refine ih _ hl ?_ ?_
    · intro x hx
      cases b with
      | none => exact Option.some.inj hx ▸ ho
      | some y =>
        simp only [Queue.sooner] at hx
        split at hx
        · exact Option.some.inj hx ▸ ho
        · exact hb x hx
    · rcases hq with hq | hq
      · rcases List.mem_cons.mp hq with rfl | hq
        · exact .inr (taken rfl)
        · exact .inl hq
      · exact .inr (kept hq)

/-- R67: the queue whose slot the front end of a die reads next. -/
def State.nextRead (s : State) (die : Nat) : Option Queue :=
  (s.queues.filter fun q => q.die == die && s.canRead q && q.rereads == 0).foldl Queue.sooner none

theorem slotRead_eq (s : State) (die : Nat) :
    exec (.slotRead die) s = match s.nextRead die with | some q => .next (s.readSlot q) | none => .next s := rfl

theorem nextRead_eq {s : State} {die : Nat} {qu : Queue} (hdie : qu.die = die) (hr : s.canRead qu = true) (hmem : qu ∈ s.queues) (h0 : qu.rereads = 0)
    (hall : ∀ o ∈ s.queues, o.die = die → s.canRead o = true → o.rereads = 0 → o = qu ∨ qu.before o = true) : s.nextRead die = some qu := by
  refine foldl_sooner ?_ _ _ ?_ (fun x hx => nomatch hx) (.inl ?_)
  · exact Bool.eq_false_iff.mpr fun h => Bool.noConfusion (h.symm.trans (Queue.before_asymm h))
  · intro o ho
    simp only [List.mem_filter, Bool.and_eq_true, beq_iff_eq] at ho
    obtain ⟨hq, ⟨hd, hc⟩, hz⟩ := ho
    exact hall o hq hd hc hz
  · simp [List.mem_filter, hmem, hdie, hr, h0]

/-! Slots and their seals (R63) -/

theorem sealReread_reads {s : State} {die : Nat} {qu : Queue} (hq : s.queueNo die qu.num = some qu) (hr : s.canRead qu = true) (h0 : qu.rereads ≠ 0) :
    exec (.sealReread die qu.num) s = .next (s.readSlot qu) := by
  simp only [exec, execSealReread, hq, hr, Bool.true_and, bne_iff_ne, ne_eq, h0, not_false_iff, if_true]

/-- What a slot that has been read does to its queue. -/
theorem readSlot_eq {s s1 : State} {qu : Queue} {bs : List Byte} (h : engLoadBlocks (feMaster qu.die qu.ctx) 64 1 (qu.base + 64 * (qu.head % 2 ^ qu.k)) s = .ok (bs, s1)) :
    s.readSlot qu = if slotOk bs qu.head then s1.updQueue qu.uid fun q => { q with
        head := (q.head + 1) % 2 ^ 32, rereads := 0, starved := false, served := s1.steps, cmds := q.cmds ++ [{ idx := q.head, slot := bs }] }
      else if 7 ≤ qu.rereads then (s1.updQueue qu.uid fun q => { q with rereads := 0 }).queueError qu.uid qu.head 1
      else s1.updQueue qu.uid fun q => { q with rereads := q.rereads + 1 } := by
  simp only [State.readSlot, h, errSeal]

theorem slotOk_iff (bs : List Byte) (idx : Nat) :
    slotOk bs idx = true ↔ natAt bs 60 4 = crc32c (bs.take 60 ++ [0, 0, 0, 0]) ∧ natAt bs 4 4 = idx % 2 ^ 32 := by
  simp only [slotOk, Bool.and_eq_true, beq_iff_eq]

/-! Errors of a queue (R69) -/

theorem errCode_errs {s : State} {die n idx : Nat} {qu : Queue} {c : Cmd} {x : Context}
    (h : s.startable die n idx (fun k => k == 0 || 9 ≤ k) = some (qu, c, x)) : exec (.errCode die n idx) s = .next (s.queueError qu.uid c.idx 2) := by
  simp only [exec, execErrCode, h, errCodeCode]

theorem queue?_of_one {s : State} {q : Queue} (h : s.queues = [q]) : s.queue? q.uid = some q := by
  simp [State.queue?, h]

/-- Settles O49: a notify by its three ways, a reading by the queue that the fold over the queues chooses and by what its slot does, the order of the queues by cases on
starvation and priority. -/
theorem queuesAreRead : Obligations.QueuesAreRead := by
  unfold Obligations.QueuesAreRead
  refine ⟨?notify, ?read, fun a b h => ⟨Queue.before_starved h, Queue.before_prio h, Queue.before_asymm h⟩, fun s die n qu => queueStarvation_marks,
    fun s die n idx qu c x => errCode_errs, ?error⟩
  case notify =>
    intro s die n v relaxed qu hq
    refine ⟨queueNotify_sets hq v relaxed, fun hbad hrun => ?_, fun hbad hstop => ?_⟩ <;> rw [queueNotify_bad hq v relaxed hbad]
    · rw [hrun, Option.isSome_none, if_neg Bool.false_ne_true]
    · rw [if_pos (Option.isSome_iff_ne_none.mpr hstop)]
  case read =>
    intro s s1 die qu bs e hdie hr hwhich hload
    have hstep : exec e s = .next (s.readSlot qu) := by
      rcases hwhich with ⟨rfl, hmem, h0, hall⟩ | ⟨rfl, hq, h0⟩
      · rw [slotRead_eq, nextRead_eq hdie hr hmem h0 hall]
      · exact sealReread_reads hq hr h0
    subst hdie
    rw [hstep, readSlot_eq hload]
    simp only [slotOk_iff]
    refine ⟨fun ok => ?_, fun bad hlt => ?_, fun bad hge => ?_⟩
    · rw [if_pos ok]
    · rw [if_neg bad, if_neg (by omega)]
    · rw [if_neg bad, if_pos hge]
  case error =>
    rintro s uid slot code q hone rfl
    simp only [State.queueError, queue?_of_one hone]

end Sys2Proof.Machine

/-! SUPPORT. The commands of a queue (R65, R66, R70 to R74, R480), and O50. -/
namespace Sys2Proof.Machine

-- One declaration after another, as in the tests: the whole text in one process would otherwise hold too many threads' stacks at once.
set_option Elab.async false

/-! What an engine's reads and writes answer, one after another -/

theorem Eng.bind_ok {α β : Type} {s s1 : State} {e : Eng α} {a : α} (h : e s = .ok (a, s1)) (f : α → Eng β) : (e >>= f) s = f a s1 := by
  simp only [bind, StateT.bind, h, Except.bind]

theorem engTimeline_reached {s s1 : State} {m : Master} {tl v : Nat} {bs : List Byte} (h : engLoad m tl 8 s = .ok (bs, s1)) (hv : v ≤ natLE bs) :
    engTimeline m tl v s = .ok ((), s1) := by
  rw [engTimeline, Eng.bind_ok h, if_neg (Nat.not_lt.mpr hv)]
  rfl

theorem engTimeline_raised {s s1 s2 : State} {m : Master} {tl v : Nat} {bs : List Byte} (h : engLoad m tl 8 s = .ok (bs, s1)) (hv : natLE bs < v)
    (hw : engStore m tl (bytesLE 8 v) s1 = .ok ((), s2)) : engTimeline m tl v s = .ok ((), s2) := by
  rw [engTimeline, Eng.bind_ok h, if_pos hv, hw]

/-! The start of a command (R65, R66) -/

theorem State.ctx?_ids {s : State} {die num : Nat} {x : Context} (h : s.ctx? die num = some x) : x.die = die ∧ x.num = num := by
  simpa using List.find?_some h

theorem cmd?_next {qu : Queue} {before rest : List Cmd} {c : Cmd} (hcmds : qu.cmds = before ++ c :: rest) (hb : ∀ b ∈ before, b.idx ≠ c.idx) :
    qu.cmd? c.idx = some c := by
  have hnone : before.find? (·.idx == c.idx) = none := List.find?_eq_none.mpr fun b hmem => by simpa using hb b hmem
  rw [Queue.cmd?, hcmds, List.find?_append, hnone, Option.none_or, List.find?_cons_of_pos (by simp)]

theorem takeWhile_before {before rest : List Cmd} {c : Cmd} (hb : ∀ b ∈ before, b.idx ≠ c.idx) :
    (before ++ c :: rest).takeWhile (·.idx != c.idx) = before := by
  rw [List.takeWhile_append_of_pos fun b hmem => by simpa using hb b hmem, List.takeWhile_cons_of_neg (by simp), List.append_nil]

theorem startable_next {s : State} {die n : Nat} {code : Nat → Bool} {qu : Queue} {before rest : List Cmd} {c : Cmd} {x : Context} (hq : s.queueNo die n = some qu)
    (hcmds : qu.cmds = before ++ c :: rest) (hb : ∀ b ∈ before, b.idx ≠ c.idx ∧ b.st.isSome = true) (hx : s.ctx? qu.die qu.ctx = some x) (hst : c.st = none)
    (hcode : code (natAt c.slot 0 1) = true) (hnear : ∀ f r, before = f :: r → (c.idx + 2 ^ 32 - f.idx) % 2 ^ 32 < 64)
    (hbar : natAt c.slot 1 1 % 2 = 1 → ∀ b ∈ before, b.st = some .done) (hheld : qu.held = none) (hmig : x.migrating = none) (hck : x.ckpt = 0) :
    s.startable die n c.idx code = some (qu, c, x) := by
  have hother : ∀ b ∈ before, b.idx ≠ c.idx := fun b hmem => (hb b hmem).1
  have hstarted : before.all (·.st.isSome) = true := List.all_eq_true.mpr fun b hmem => (hb b hmem).2
  have hdone : (!(natAt c.slot 1 1 % 2 == 1) || before.all (·.st == some .done)) = true := by
    by_cases h : natAt c.slot 1 1 % 2 = 1
    · simpa [h] using hbar h
    · simp [h]
  have hclose : (c.idx + 2 ^ 32 - match (before ++ c :: rest).head? with | some f => f.idx | none => c.idx) % 2 ^ 32 < 64 := by
    cases before with
    | nil => simp
    | cons f r => exact hnear f r rfl
  simp only [State.startable, hq, cmd?_next hcmds hother, hx, hcmds, takeWhile_before hother, hst, Option.isNone_none, hcode, hstarted, hdone, hheld, hmig, hck,
    Bool.true_and, Bool.and_true, beq_self_eq_true]
  exact if_pos (decide_eq_true hclose)

theorem startable_ctx {s : State} {die n idx : Nat} {code : Nat → Bool} {qu : Queue} {c : Cmd} {x : Context} (h : s.startable die n idx code = some (qu, c, x)) :
    s.ctx? qu.die qu.ctx = some x := by
  unfold State.startable at h
  split at h
  · cases h
  · split at h
    · next hx =>
      simp only [Option.ite_none_right_eq_some, Option.some.injEq, Prod.mk.injEq] at h
      obtain ⟨-, rfl, rfl, rfl⟩ := h
      exact hx
    · cases h

section
variable {s : State} {die n idx : Nat} {qu : Queue} {c : Cmd} {x : Context}

/-! LAUNCH (R70, R71, R74) -/

theorem launchCmd_refused (h : s.startable die n idx (· == 1) = some (qu, c, x)) (hp : slotPlain c.slot 24 = false) :
    exec (.launchCmd die n idx) s = .next (s.queueError qu.uid c.idx 3) := by
  simp only [exec, execLaunchCmd, h, hp, Bool.not_false, if_true, errBody]

/-- A LAUNCH seals the open version first (R361); then its prologue or its grid begins. -/
theorem launchCmd_sealed {x1 : Context} (h : s.startable die n idx (· == 1) = some (qu, c, x)) (hp : slotPlain c.slot 24 = true)
    (hx : (s.sealVersion x.die x.num).ctx? x.die x.num = some x1) : exec (.launchCmd die n idx) s =
      let s1 := s.sealVersion x.die x.num
      let lrec := natAt c.slot 8 8
      let pro := natAt c.slot 16 8
      let going := s1.setCmd qu.uid c.idx (.launching lrec pro x1.current none false)
      .next (if pro = 0 then going.tryLaunch qu.uid c.idx
        else if x1.isEntry x1.current pro .prologue then going.startPrologue qu c.idx lrec pro x1.current
        else s1.queueError qu.uid c.idx 3) := by
  by_cases hpro : natAt c.slot 16 8 = 0
  · simp [exec, execLaunchCmd, h, hp, hx, hpro]
  · cases he : x1.isEntry x1.current (natAt c.slot 16 8) .prologue <;> simp [exec, execLaunchCmd, h, hp, hx, hpro, he, errBody]

/-! GRAPH (R72, R73) -/

theorem graph_waits {g : Graph} (h : s.startable die n idx (· == 2) = some (qu, c, x)) (hg : x.graph = some g) (hbusy : s.graphIdle x.die x.num g = false) :
    exec (.graph die n idx) s = .next s := by
  simp only [exec, execGraph, h, hg, hbusy, Bool.not_false, if_true]

/-- The graph before, if there is one, is idle (R73). -/
def State.graphFree (s : State) (x : Context) : Prop := ∀ g, x.graph = some g → s.graphIdle x.die x.num g = true

theorem State.graphFree.notBusy (hfree : s.graphFree x) : (match x.graph with | some g => !s.graphIdle x.die x.num g | none => false) = false := by
  cases hg : x.graph with
  | none => rfl
  | some g => simp only [hfree g hg, Bool.not_true]

theorem graph_refused (h : s.startable die n idx (· == 2) = some (qu, c, x)) (hfree : s.graphFree x) (hp : slotPlain c.slot 28 = false) :
    exec (.graph die n idx) s = .next (s.queueError qu.uid c.idx 3) := by
  simp only [exec, execGraph, h, hp]
  exact if_neg (Bool.eq_false_iff.mp hfree.notBusy)

section
variable {s2 : State} {x1 : Context} (h : s.startable die n idx (· == 2) = some (qu, c, x)) (hfree : s.graphFree x) (hp : slotPlain c.slot 28 = true)
  (hx : (s.sealVersion x.die x.num).ctx? x.die x.num = some x1)
include h hfree hp hx

theorem graph_broken (hr : readGraph (feMaster x1.die x1.num) x1 (natAt c.slot 8 8) (natAt c.slot 16 8) (natAt c.slot 24 4) (s.sealVersion x.die x.num) = .ok (none, s2)) :
    exec (.graph die n idx) s = .next (s2.queueError qu.uid c.idx 3) := by
  simp only [exec, execGraph, h, hp, hx, hr, errBody]
  exact if_neg (Bool.eq_false_iff.mp hfree.notBusy)

/-- A graph that has been read becomes active; its command waits until it is idle, unless it has no entry records (R73). -/
theorem graph_active {ns : List Node} {es : List (Nat × List Byte)} {pool : Nat}
    (hr : readGraph (feMaster x1.die x1.num) x1 (natAt c.slot 8 8) (natAt c.slot 16 8) (natAt c.slot 24 4) (s.sealVersion x.die x.num) = .ok (some (ns, es, pool), s2)) :
    let g (w : Option (Nat × Nat)) : Graph := { nodes := (appendEntries ns es).1, waiting := w, pend := (appendEntries ns es).2, pool := pool, version := x1.current, prio := qu.prio }
    let active (w : Option (Nat × Nat)) := s2.updCtx x1.die x1.num fun x => { x with graph := some (g w) }
    (natAt c.slot 24 4 = 0 → exec (.graph die n idx) s = .next ((active none).finishCmd qu.uid c.idx none)) ∧
    (natAt c.slot 24 4 ≠ 0 → exec (.graph die n idx) s = .next ((active (some (qu.uid, c.idx))).setCmd qu.uid c.idx .graphing)) := by
  intro g active
  have started : exec (.graph die n idx) s = if natAt c.slot 24 4 == 0 then .next ((active (if natAt c.slot 24 4 == 0 then none else some (qu.uid, c.idx))).finishCmd qu.uid c.idx none)
      else .next ((active (if natAt c.slot 24 4 == 0 then none else some (qu.uid, c.idx))).setCmd qu.uid c.idx .graphing) := by
    simp only [exec, execGraph, h, hp, hx, hr]
    exact if_neg (Bool.eq_false_iff.mp hfree.notBusy)
  rw [started]
  refine ⟨fun h0 => ?_, fun h0 => ?_⟩
  · simp only [h0, beq_self_eq_true, if_true]
  · simp only [beq_iff_eq, h0, if_false]

end

/-! COPY (R65, R480) -/

theorem copyCmd_refused (h : s.startable die n idx (· == 3) = some (qu, c, x)) (hbad : slotPlain c.slot 19 = false ∨ 16 ≤ natAt c.slot 16 2 ∨ 3 ≤ natAt c.slot 18 1) :
    exec (.copy die n idx) s = .next (s.queueError qu.uid c.idx 3) := by
  have hbad' : (!slotPlain c.slot 19 || decide (16 ≤ natAt c.slot 16 2) || decide (3 ≤ natAt c.slot 18 1)) = true := by
    simpa [or_assoc] using hbad
  simp only [exec, execCopy, h, hbad', if_true, errBody]

/-- A tracked engine context of a context's queues counts an operation, which is then outstanding (R204). -/
def State.counted (s : State) (x : Context) (e : Nat) (ec : ECtx) : State :=
  { s.updCtx x.die x.num (fun x => { x with ectx := x.ectx.setIfInBounds e { ec with next := ec.next + 1 } }) with
    ops := s.ops ++ [{ team := none, die := x.die, ctx := x.num, ectx := e, k := ec.next.toNat, tl := ec.tl, scope := ec.scope }] }

/-- What a COPY leaves once its descriptor is read: its engine context counts it, if that tracks (R204), and the copy engine has it. -/
theorem copyCmd_handed {s0 s1 : State} {db : List Byte} {k : Option Nat} (h : s.startable die n idx (· == 3) = some (qu, c, x)) (hp : slotPlain c.slot 19 = true)
    (he : natAt c.slot 16 2 < 16) (hm : natAt c.slot 18 1 < 3)
    (hread : if natAt c.slot 8 8 % 64 = 0 then engLoadBlocks (feMaster qu.die qu.ctx) 64 4 (natAt c.slot 8 8) s = .ok (db, s0) else db = [] ∧ s0 = s)
    (hcount : let ec := x.ectx[natAt c.slot 16 2]
      if ec.tl = 0 then k = none ∧ s1 = s0 else k = some ec.next.toNat ∧ s1 = s0.counted x (natAt c.slot 16 2) ec) :
    exec (.copy die n idx) s = .next (({ s1 with nextId := s0.nextId + 1, copies := s1.copies ++ [{
      op := s0.nextId, die := x.die, core := 0xFFFF, ctx := x.num, who := none, desc := natAt c.slot 8 8, dbytes := db, sofs := 0, dofs := 0, mode := natAt c.slot 18 1
      tag := 0, ectx := natAt c.slot 16 2, k := k, receivers := [], mask := none, cmd := some (qu.uid, c.idx) }] } : State).setCmd qu.uid c.idx (.copying s0.nextId)) := by
  obtain ⟨hdie, hnum⟩ := State.ctx?_ids (startable_ctx h)
  have hgood : (!slotPlain c.slot 19 || decide (16 ≤ natAt c.slot 16 2) || decide (3 ≤ natAt c.slot 18 1)) = false := by
    simp only [hp, Bool.not_true, Bool.false_or, Bool.or_eq_false_iff, decide_eq_false_iff_not, Nat.not_le]
    exact ⟨he, hm⟩
  have hload : (if natAt c.slot 8 8 % 64 == 0 then engLoadBlocks (feMaster x.die x.num) 64 4 (natAt c.slot 8 8) else pure [] : Eng (List Byte)) s = .ok (db, s0) := by
    rw [hdie, hnum]
    by_cases h64 : natAt c.slot 8 8 % 64 = 0
    · rw [if_pos h64] at hread
      rw [if_pos (beq_iff_eq.mpr h64), hread]
    · rw [if_neg h64] at hread
      obtain ⟨rfl, rfl⟩ := hread
      rw [if_neg (mt beq_iff_eq.mp h64)]
      rfl
  have hec : x.ectx[natAt c.slot 16 2]?.getD {} = x.ectx[natAt c.slot 16 2] := by rw [Vector.getElem?_eq_getElem he, Option.getD_some]
  simp only [exec, execCopy, h, hgood, Bool.false_eq_true, if_false, hload, hec]
  by_cases htl : x.ectx[natAt c.slot 16 2].tl = 0
  · obtain ⟨rfl, rfl⟩ := (if_pos htl).mp hcount
    simp [htl]
  · obtain ⟨rfl, rfl⟩ := (if_neg htl).mp hcount
    simp [htl, State.counted]

/-! WAIT and SIGNAL (R65) -/

theorem tryWait_short {s1 : State} {tl v : Nat} {bs : List Byte} (hl : engLoad (feMaster qu.die qu.ctx) tl 8 s = .ok (bs, s1)) (hv : natLE bs < v) :
    s.tryWait qu idx tl v = s1 := by
  simp only [State.tryWait, hl, hv, if_true]

theorem tryWait_reached {s1 : State} {tl v : Nat} {bs : List Byte} (hl : engLoad (feMaster qu.die qu.ctx) tl 8 s = .ok (bs, s1)) (hv : v ≤ natLE bs) :
    s.tryWait qu idx tl v = s1.finishCmd qu.uid idx none := by
  simp only [State.tryWait, hl, Nat.not_lt.mpr hv, if_false]

/-- The body of a WAIT or a SIGNAL (R65). -/
theorem timelineBody_bad (hbad : slotPlain c.slot 24 = false ∨ natAt c.slot 8 8 % 16 ≠ 0) : (!slotPlain c.slot 24 || natAt c.slot 8 8 % 16 != 0) = true := by
  simpa using hbad

theorem timelineBody_good (hp : slotPlain c.slot 24 = true) (ha : natAt c.slot 8 8 % 16 = 0) : (!slotPlain c.slot 24 || natAt c.slot 8 8 % 16 != 0) = false := by
  simp [hp, ha]

theorem waitCmd_refused (h : s.startable die n idx (· == 4) = some (qu, c, x)) (hbad : slotPlain c.slot 24 = false ∨ natAt c.slot 8 8 % 16 ≠ 0) :
    exec (.wait die n idx) s = .next (s.queueError qu.uid c.idx 3) := by
  simp only [exec, execWait, h, timelineBody_bad hbad, if_true, errBody]

theorem waitCmd_tries (h : s.startable die n idx (· == 4) = some (qu, c, x)) (hp : slotPlain c.slot 24 = true) (ha : natAt c.slot 8 8 % 16 = 0) :
    exec (.wait die n idx) s =
      .next ((s.setCmd qu.uid c.idx (.waiting (natAt c.slot 8 8) (natAt c.slot 16 8))).tryWait qu c.idx (natAt c.slot 8 8) (natAt c.slot 16 8)) := by
  simp only [exec, execWait, h, timelineBody_good hp ha, Bool.false_eq_true, if_false]

theorem waitComplete_tries {tl v : Nat} (hq : s.queues.find? (fun x => x.die == die && x.num == n) = some qu) (hst : (qu.cmd? idx).bind (·.st) = some (.waiting tl v))
    (hheld : qu.held = none) : exec (.waitComplete die n idx) s = .next (s.tryWait qu idx tl v) := by
  simp only [exec, execWaitComplete, hq, hst, hheld, Option.isSome_none, Bool.false_eq_true, if_false]

theorem signalCmd_refused (h : s.startable die n idx (· == 5) = some (qu, c, x)) (hbad : slotPlain c.slot 24 = false ∨ natAt c.slot 8 8 % 16 ≠ 0) :
    exec (.signal die n idx) s = .next (s.queueError qu.uid c.idx 3) := by
  simp only [exec, execSignal, h, timelineBody_bad hbad, if_true, errBody]

theorem signalCmd_raises {s1 : State} (h : s.startable die n idx (· == 5) = some (qu, c, x)) (hp : slotPlain c.slot 24 = true) (ha : natAt c.slot 8 8 % 16 = 0)
    (ht : engTimeline (feMaster qu.die qu.ctx) (natAt c.slot 8 8) (natAt c.slot 16 8) s = .ok ((), s1)) :
    exec (.signal die n idx) s = .next (s1.finishCmd qu.uid c.idx none) := by
  simp only [exec, execSignal, h, timelineBody_good hp ha, Bool.false_eq_true, if_false, ht]

/-! MAPSYNC, CHECKPOINT and MIGRATE (R65, R300, R301, R304) -/

theorem mapsync_eq (h : s.startable die n idx (· == 6) = some (qu, c, x)) : exec (.mapsync die n idx) s = .next (if slotPlain c.slot 24 = false then
    s.queueError qu.uid c.idx 3 else (s.dropTlb x.die x.num (natAt c.slot 8 8) (natAt c.slot 16 8)).finishCmd qu.uid c.idx none) := by
  cases hp : slotPlain c.slot 24 <;> simp [exec, execMapsync, h, hp, errBody]

theorem checkpointCmd_refused (h : s.startable die n idx (· == 7) = some (qu, c, x)) (hp : slotPlain c.slot 8 = false) :
    exec (.checkpoint die n idx) s = .next (s.queueError qu.uid c.idx 3) := by
  simp only [exec, execCheckpoint, h, hp, Bool.not_false, if_true, errBody]

theorem checkpointCmd_none (h : s.startable die n idx (· == 7) = some (qu, c, x)) (hp : slotPlain c.slot 8 = true) (hno : x.die = 0 ∨ x.checkpoint = false) :
    exec (.checkpoint die n idx) s = .next (s.finishCmd qu.uid c.idx (some 4)) := by
  have hno' : (x.die == 0 || !x.checkpoint) = true := by simpa using hno
  simp only [exec, execCheckpoint, h, hp, hno', Bool.not_true, Bool.false_eq_true, if_false, if_true]

theorem checkpointCmd_asks (h : s.startable die n idx (· == 7) = some (qu, c, x)) (hp : slotPlain c.slot 8 = true) (hd : x.die ≠ 0) (hc : x.checkpoint = true)
    (hf : x.failed = false) : exec (.checkpoint die n idx) s =
      .next ((s.setCmd qu.uid c.idx .checkpointing).updCtx x.die x.num fun x => { x with ckptWanted := true }) := by
  simp [exec, execCheckpoint, h, hp, hd, hc, hf]

theorem migrateCmd_refused (h : s.startable die n idx (· == 8) = some (qu, c, x)) (hbad : slotPlain c.slot 9 = false ∨ 3 ≤ natAt c.slot 8 1) :
    exec (.migrate die n idx) s = .next (s.queueError qu.uid c.idx 3) := by
  have hbad' : (!slotPlain c.slot 9 || decide (3 ≤ natAt c.slot 8 1)) = true := by simpa using hbad
  simp only [exec, execMigrate, h, hbad', if_true, errBody]

/-- A MIGRATE with a body in range: its status 1, 2, 3 or 6, or the migration begun. -/
theorem migrateCmd_eq (h : s.startable die n idx (· == 8) = some (qu, c, x)) (hp : slotPlain c.slot 9 = true) (ht : natAt c.slot 8 1 < 3) :
    exec (.migrate die n idx) s = .next (
      if s.present (natAt c.slot 8 1) = false then s.finishCmd qu.uid c.idx (some 1)
      else if x.migratable = false then s.finishCmd qu.uid c.idx (some 2)
      else if natAt c.slot 8 1 = x.die then s.finishCmd qu.uid c.idx (some 3)
      else if x.failed = true then (s.dropFailed x.die x.num).finishCmd qu.uid c.idx (some 6)
      else (s.setCmd qu.uid c.idx .migrating).updCtx x.die x.num fun x => { x with migrating := some (natAt c.slot 8 1) }) := by
  have hgood : (!slotPlain c.slot 9 || decide (3 ≤ natAt c.slot 8 1)) = false := by
    rw [hp, Bool.not_true, Bool.false_or, decide_eq_false (by omega)]
  simp only [exec, execMigrate, h, hgood, Bool.false_eq_true, if_false, Bool.not_eq_true', beq_iff_eq, ← apply_ite Host.Outcome.next]

end

/-! A LAUNCH's record (R70, R71, R75) -/

section
variable {s : State} {uid idx lrec pro version : Nat} {rerun : Bool} {q : Queue} {c : Context} (hq : s.queue? uid = some q)
  (hst : (q.cmd? idx).bind (·.st) = some (.launching lrec pro version none rerun)) (hc : s.ctx? q.die q.ctx = some c)
include hq hst hc

theorem tryLaunch_misaligned (ha : lrec % 64 ≠ 0) : s.tryLaunch uid idx = s.queueError uid idx 3 := by
  simp only [State.tryLaunch, hq, hst, hc, bne_iff_ne, ne_eq, ha, not_false_iff, if_true, errBody]

/-- A LAUNCH whose record and engine context records have been read goes by the launch's status. -/
theorem tryLaunch_read {s0 s1 : State} {bs eb : List Byte} (ha : lrec % 64 = 0) (hr : feBytes (feMaster q.die q.ctx) lrec 64 s = .ok (bs, s0))
    (he : if natAt bs 40 8 = 0 then eb = [] ∧ s1 = s0 else feBytes (feMaster q.die q.ctx) (natAt bs 40 8 + 64) 256 s0 = .ok (eb, s1)) :
    s.tryLaunch uid idx = match launchStatus c version bs eb true 0 with
      | 0 =>
        let r := LaunchRec.parse bs
        let made := s1.makeGrid c r (if r.param = 0 then [] else parseEctx eb) version 1 none none none q.prio uid idx
        made.2.setCmd uid idx (.launching lrec pro version (some made.1) rerun)
      | 1 => s1.queueError uid idx 3
      | k + 2 => s1.finishCmd uid idx (some (k + 2)) := by
  have heb : (if natAt bs 40 8 == 0 then pure [] else feBytes (feMaster q.die q.ctx) (natAt bs 40 8 + 64) 256 : Eng (List Byte)) s0 = .ok (eb, s1) := by
    by_cases h0 : natAt bs 40 8 = 0
    · rw [if_pos h0] at he
      obtain ⟨rfl, rfl⟩ := he
      rw [if_pos (beq_iff_eq.mpr h0)]
      rfl
    · rw [if_neg h0] at he
      rw [if_neg (mt beq_iff_eq.mp h0), he]
  simp only [State.tryLaunch, hq, hst, hc, ha, bne_self_eq_false, Bool.false_eq_true, if_false, Eng.bind_ok hr, Eng.bind_ok heb]
  generalize hls : launchStatus c version bs eb true 0 = st
  match st with
  | 0 => simp [pure, StateT.pure, Except.pure, hls]
  | 1 => simp [pure, StateT.pure, Except.pure, hls, errBody]
  | k + 2 => simp [pure, StateT.pure, Except.pure, hls]

end

/-- Settles O50: the start of a command by its place in the queue, each command by the lemma on its body, a LAUNCH's record by its status. -/
theorem commandsRun : Obligations.CommandsRun := by
  unfold Obligations.CommandsRun
  refine ⟨?start, ?commands, ?record⟩
  case start => exact fun s die n code qu before rest c x hq hcmds hb hx hst hcode hnear hbar hheld hmig hck =>
    startable_next hq hcmds hb hx hst hcode hnear hbar hheld hmig hck
  case commands =>
    intro s s1 s2 die n idx qu c x bs
    refine ⟨fun h => ⟨launchCmd_refused h, ?launch⟩, fun h => ⟨fun g => graph_waits h, fun hfree => ⟨graph_refused h hfree, ?graph⟩⟩,
      fun h => ⟨copyCmd_refused h, ?copy⟩, fun h => ⟨waitCmd_refused h, ?wait⟩, ?waiting, fun h => ⟨signalCmd_refused h, ?signal⟩, fun h => ?mapsync,
      fun h => ⟨checkpointCmd_refused h, fun hp => ⟨checkpointCmd_none h hp, checkpointCmd_asks h hp⟩⟩, fun h => ⟨migrateCmd_refused h, ?migrate⟩⟩
    case launch =>
      rintro x1 hp rfl hx
      simp only [launchCmd_sealed h hp hx]
      refine ⟨fun hpro he => ?_, fun hpro he => ?_, fun hpro => ?_⟩
      · rw [if_neg hpro, he, if_neg Bool.false_ne_true]
      · rw [if_neg hpro, if_pos he]
      · rw [if_pos hpro]
    case graph =>
      rintro x1 hp rfl hx
      exact ⟨graph_broken h hfree hp hx, fun ns es pool hr => graph_active h hfree hp hx hr⟩
    case copy => exact fun k s0 db hp he hm hread hcount => copyCmd_handed h hp he hm hread hcount
    case wait =>
      intro hp ha hl
      rw [waitCmd_tries h hp ha]
      exact ⟨fun hv => congrArg _ (tryWait_short hl hv), fun hv => congrArg _ (tryWait_reached hl hv)⟩
    case waiting =>
      intro tl v hq hst hheld hl
      rw [waitComplete_tries hq hst hheld]
      exact ⟨fun hv => congrArg _ (tryWait_short hl hv), fun hv => congrArg _ (tryWait_reached hl hv)⟩
    case signal => exact fun hp ha hl => ⟨fun hv => signalCmd_raises h hp ha (engTimeline_reached hl hv), fun hv hw => signalCmd_raises h hp ha (engTimeline_raised hl hv hw)⟩
    case mapsync =>
      exact ⟨fun hp => (mapsync_eq h).trans (congrArg _ (if_pos hp)), fun hp => (mapsync_eq h).trans (congrArg _ (if_neg (by simp [hp])))⟩
    case migrate =>
      intro hp ht
      rw [migrateCmd_eq h hp ht]
      refine ⟨fun habs => congrArg _ (if_pos habs), fun hpres => ?_⟩
      rw [if_neg (by simp [hpres])]
      refine ⟨fun hno => congrArg _ (if_pos hno), fun hyes => ?_⟩
      rw [if_neg (by simp [hyes])]
      refine ⟨fun hsame => congrArg _ (if_pos hsame), fun hne hf => ?_, fun hne hf => ?_⟩ <;> rw [if_neg hne]
      · rw [if_pos hf]
      · rw [if_neg (by simp [hf])]
  case record =>
    intro s s1 uid idx lrec pro version rerun q c bs eb hq hst hc
    refine ⟨tryLaunch_misaligned hq hst hc, fun s0 ha hr he => ?_⟩
    simp only [tryLaunch_read hq hst hc ha hr he]
    refine ⟨fun h0 => ?_, fun h1 => ?_, fun k hk => ?_⟩
    · rw [h0]
    · rw [h1]
    · rw [hk]

end Sys2Proof.Machine

/-! SUPPORT. The functions of the scheduler cores that a mailbox request asks for (R78, R147, R171, R303, R307, R320 to R323, R329 to R332, R482), and O52. -/
namespace Sys2Proof.Machine

-- One declaration after another, as in the tests: the whole text in one process would otherwise hold too many threads' stacks at once.
set_option Elab.async false

/-! The ways a request ends (R320) -/

section
variable {s s' : State} {die core code used : Nat} {d : Die} {req : List Byte} {f : Die → List Byte → Reply}

theorem request_of_asked (h : Asked s die core code used d req) : s.request die core code = some (d, req) := by
  obtain ⟨hd, hserves, hruns, hbusy, hreq, hcode, hwait, -, -⟩ := h
  have hfree : (d.waiting.any fun w => w.1 == core) = false := List.any_eq_false.mpr fun w hw => by simpa using hwait w hw
  simp only [State.request, hd, hserves, hruns, hbusy, hreq, hcode, hfree, beq_self_eq_true, Bool.not_false, Bool.and_self, if_true]

/-- The state in which a served request leaves the machine. -/
def Reply.ended (s : State) (die core : Nat) : Reply → State
  | .done result v => v.respond die core 0 result
  | .err st => s.respond die core st []
  | .later what v => v.updDie die fun d => { d with waiting := (core, what) :: d.waiting }

theorem serve_of_asked (h : Asked s die core code used d req) : s.serve die core code used f = .next ((f d req).ended s die core) := by
  have hreq := request_of_asked h
  obtain ⟨-, -, -, -, -, -, -, hlow, hhigh⟩ := h
  simp only [State.serve, hreq, hlow, hhigh, Bool.and_self, Bool.not_true, Bool.false_eq_true, if_false]
  cases f d req <;> rfl

theorem answers_of_err {e : Instr} (h : Asked s die core code used d req) (he : exec e s = s.serve die core code used f) {st : Nat} (hf : f d req = .err st) :
    Answers e s die core st [] s := by
  rw [Answers, he, serve_of_asked h, hf, Reply.ended]

theorem answers_of_done {e : Instr} (h : Asked s die core code used d req) (he : exec e s = s.serve die core code used f) {result : List Byte} (hf : f d req = .done result s') :
    Answers e s die core 0 result s' := by
  rw [Answers, he, serve_of_asked h, hf, Reply.ended]

theorem takesUp_of_later {e : Instr} (h : Asked s die core code used d req) (he : exec e s = s.serve die core code used f) {what : List Nat} (hf : f d req = .later what s') :
    TakesUp e s die core what s' := by
  rw [TakesUp, he, serve_of_asked h, hf, Reply.ended]

end

/-! Numbers not in use -/

/-- Numbers that follow one another, as many as the bound at most, are different. -/
theorem nodup_drawn (d : Nat) {bound n : Nat} (h : n ≤ bound) : ((List.range n).map fun i => (d + i) % bound).Nodup := by
  refine List.pairwise_map.mpr (List.Pairwise.imp_of_mem (fun {i j} _ hj hlt heq => ?_) List.pairwise_lt_range)
  rw [List.mem_range] at hj
  have hdiff : (j - i) % bound = 0 := by
    have hmod := Nat.sub_mod_eq_zero_of_mod_eq heq.symm
    rwa [Nat.add_sub_add_left] at hmod
  rw [Nat.mod_eq_of_lt (by omega)] at hdiff
  omega

theorem unused_fresh (s : State) {bound : Nat} {used : List Nat} (h : used.length < bound) : (s.unused bound used).1 ∉ used := by
  cases hfound : ((List.range (used.length + 1)).map fun i => (s.draw.1 + i) % bound).find? (fun n => !used.contains n) with
  | some n =>
    have hn : n ∉ used := by simpa using List.find?_some hfound
    simpa only [State.unused, hfound, Option.getD_some] using hn
  | none =>
    have hsub : ((List.range (used.length + 1)).map fun i => (s.draw.1 + i) % bound) ⊆ used := fun n hn => by
      simpa using List.find?_eq_none.mp hfound n hn
    have hle := (nodup_drawn s.draw.1 (Nat.succ_le_of_lt h)).length_le_of_subset hsub
    rw [List.length_map, List.length_range] at hle
    omega

theorem freeContext_fresh {s s' : State} {die num : Nat} (h : s.freeContext die = some (num, s')) : s'.ctxs = s.ctxs ∧ s.ctx? die num = none := by
  simp only [State.freeContext, Option.ite_none_left_eq_some, Option.some.injEq] at h
  obtain ⟨hlt, heq⟩ := h
  have hnot := unused_fresh s (Nat.not_le.mp hlt)
  rw [heq] at hnot
  refine ⟨(congrArg (fun p => p.2.ctxs) heq).symm, List.find?_eq_none.mpr fun c hc hmatch => hnot ?_⟩
  obtain ⟨hdie, hnum⟩ : c.die = die ∧ c.num = num := by simpa using hmatch
  exact List.mem_cons_of_mem _ (List.mem_map.mpr ⟨c, List.mem_filter.mpr ⟨hc, beq_iff_eq.mpr hdie⟩, hnum⟩)

theorem ctx?_append_new {s : State} {c : Context} (h : s.ctx? c.die c.num = none) : State.ctx? { s with ctxs := s.ctxs ++ [c] } c.die c.num = some c := by
  rw [State.ctx?] at h ⊢
  rw [List.find?_append, h, Option.none_or, List.find?_cons_of_pos (by simp)]

/-! Contexts and their cores (R78, R321, R323, R331) -/

section
variable {s : State} {die : Nat} {d : Die} {req : List Byte}

/-- The cores of a die that are on and that no context has, in number order (R59). -/
def State.idleCores (s : State) (die : Nat) : List Nat := (List.range (Config.cores (isDie die))).filter (s.idleCore die ·)

/-- The context that CTXCREATE makes of a descriptor on some of the idle cores, from a drawn one on. -/
def State.newContext (s : State) (die n dr num load : Nat) (b : List Byte) : Context :=
  contextOf b die num load (((s.idleCores die).drop (dr % max 1 (s.idleCores die).length) ++ (s.idleCores die).take (dr % max 1 (s.idleCores die).length)).take n)

theorem setupEctx_ready {s1 : State} {num : Nat} {c : Context} {es : List ECtx} (hc : s.ctx? die num = some c)
    (hr : readEctx (feMaster die num) (parseEctx ((c.descr.drop 192).take 256)) s = .ok (es, s1)) :
    s.setupEctx die num = .ready (s1.updCtx die num fun c => { c with ectx := Vector.ofFn fun i => es[i.val]?.getD {} }) := by
  simp only [State.setupEctx, hc, hr]

theorem setupEctx_waits {s1 : State} {num : Nat} {c : Context} (hc : s.ctx? die num = some c)
    (hr : readEctx (feMaster die num) (parseEctx ((c.descr.drop 192).take 256)) s = .error (.wait s1)) : s.setupEctx die num = .waits 0 s1 := by
  simp only [State.setupEctx, hc, hr]

section
variable {s1 s2 s3 s4 : State} {dr num load : Nat} {es : List ECtx}

theorem ctxcreate_refused (h : Asked s die 1 16 16 d req) (hbad : ctxDescOk (s.hostBytes (natAt req 8 8) 512) = false ∨ natAt req 16 8 = 0) :
    Answers (.ctxcreate die) s die 1 2 [] s :=
  answers_of_err h rfl (if_pos (by simpa [fieldAt] using hbad))

/-- What CTXCREATE answers for a descriptor within its limits, once the context that it would make is drawn. -/
def State.createContext (s : State) (room n : Nat) (c : Context) : Reply :=
  if room < n || !s.phasersFree c.die c.phBase c.phCount then .err 3
  else match State.setupEctx { s with ctxs := s.ctxs ++ [c] } c.die c.num with
    | .unreadable => .err 2
    | .waits page s => .later [0x10, c.num, page] s
    | .ready s => .done (bytesLE 8 c.num) s

theorem createContext_noRoom {room n : Nat} {c : Context} (h : room < n ∨ s.phasersFree c.die c.phBase c.phCount = false) : s.createContext room n c = .err 3 :=
  if_pos (by simpa using h)

section
variable {room n : Nat} {c : Context} (hroom : n ≤ room) (hph : s.phasersFree c.die c.phBase c.phCount = true) (hnew : s.ctx? c.die c.num = none)
include hroom hph hnew

theorem createContext_ready
    (hr : readEctx (feMaster c.die c.num) (parseEctx ((c.descr.drop 192).take 256)) { s with ctxs := s.ctxs ++ [c] } = .ok (es, s4)) :
    s.createContext room n c = .done (bytesLE 8 c.num) (s4.updCtx c.die c.num fun c => { c with ectx := Vector.ofFn fun i => es[i.val]?.getD {} }) := by
  rw [State.createContext, if_neg (by simp [hph, hroom]), setupEctx_ready (ctx?_append_new hnew) hr]

theorem createContext_waits
    (hr : readEctx (feMaster c.die c.num) (parseEctx ((c.descr.drop 192).take 256)) { s with ctxs := s.ctxs ++ [c] } = .error (.wait s4)) :
    s.createContext room n c = .later [0x10, c.num, 0] s4 := by
  rw [State.createContext, if_neg (by simp [hph, hroom]), setupEctx_waits (ctx?_append_new hnew) hr]

end

theorem ctxcreate_drawn {r : Reply} (h : Asked s die 1 16 16 d req) (hb : ctxDescOk (s.hostBytes (natAt req 8 8) 512) = true) (hn : natAt req 16 8 ≠ 0)
    (h1 : s.draw = (dr, s1)) (h2 : s1.freeContext die = some (num, s2)) (h3 : s2.draw = (load, s3))
    (hr : s3.createContext (s.idleCores die).length (natAt req 16 8) (s.newContext die (natAt req 16 8) dr num load (s.hostBytes (natAt req 8 8) 512)) = r) :
    exec (.ctxcreate die) s = .next (r.ended s die 1) := by
  refine (serve_of_asked h).trans (congrArg (fun r => Host.Outcome.next (Reply.ended s die 1 r)) (Eq.trans ?_ hr))
  simp only [fieldAt, hb, h1, h2, h3, beq_iff_eq, Bool.not_true, Bool.false_or, hn, if_false]
  rfl

/-- The number that CTXCREATE draws names no context, and still none after its last draw. -/
theorem ctxcreate_fresh (h2 : s1.freeContext die = some (num, s2)) (h3 : s2.draw = (load, s3)) : s3.ctx? die num = none := by
  obtain ⟨hctxs, hnone⟩ := freeContext_fresh h2
  obtain ⟨-, rfl⟩ := Prod.mk.inj h3
  rw [State.ctx?] at hnone ⊢
  exact hctxs ▸ hnone

end

theorem ctxdestroy_answers (h : Asked s die 1 17 8 d req) : (s.ctx? die (natAt req 8 8) = none → Answers (.ctxdestroy die) s die 1 2 [] s) ∧
    (s.ctx? die (natAt req 8 8) ≠ none → TakesUp (.ctxdestroy die) s die 1 [17, natAt req 8 8] (s.beginDestroy die (natAt req 8 8))) :=
  ⟨fun hno => answers_of_err h rfl (if_pos (by rw [fieldAt, hno]; rfl)),
    fun hsome => takesUp_of_later h rfl (if_neg (by rw [fieldAt, Option.isNone_iff_eq_none]; exact hsome))⟩

/-- The cores of a partition that a VACATE's bitmap names. -/
theorem filter_flagAt (l : List Nat) (bits : Nat) : l.filter (flagAt bits ·) = l.filter bits.testBit :=
  List.filter_congr fun n _ => by rw [flagAt, Nat.testBit_eq_decide_div_mod_eq, Bool.beq_eq_decide_eq]

theorem vacate_refused (h : Asked s die 1 18 16 d req) (hno : s.ctx? die (natAt req 8 8) = none) : Answers (.vacate die) s die 1 2 [] s :=
  answers_of_err h rfl (by simp only [fieldAt, hno])

theorem vacate_answers (h : Asked s die 1 18 16 d req) {c : Context} (hc : s.ctx? die (natAt req 8 8) = some c) : (c.migrating ≠ none → Answers (.vacate die) s die 1 4 [] s) ∧
    (c.migrating = none → TakesUp (.vacate die) s die 1 [18, natAt req 8 8] (s.updCtx die (natAt req 8 8) fun x => { x with
      vacating := (x.vacating ++ c.part.filter (natLE (s.hostBytes (natAt req 16 8) (Config.cores (isDie die) / 8))).testBit).eraseDups })) := by
  refine ⟨fun hm => answers_of_err h rfl ?_, fun hm => takesUp_of_later h rfl ?_⟩
  · simp only [fieldAt, hc]
    exact if_pos (Option.isSome_iff_ne_none.mpr hm)
  · simp only [fieldAt, hc, hm, Option.isSome_none, Bool.false_eq_true, if_false, filter_flagAt]

theorem coreoff_answers (h : Asked s die 1 19 8 d req) : let k := natAt req 8 8
    (Config.cores (isDie die) ≤ k → Answers (.coreoff die) s die 1 2 [] s) ∧
    (k < Config.cores (isDie die) → (k ∈ d.coresOff → Answers (.coreoff die) s die 1 4 [] s) ∧
      (k ∉ d.coresOff → let v := s.updDie die fun d => { d with coresOff := k :: d.coresOff }
        TakesUp (.coreoff die) s die 1 [19, k] { v with ctxs := v.ctxs.map fun c => if c.die == die && c.part.contains k && !c.vacating.contains k then
          { c with vacating := k :: c.vacating } else if c.migrating == some die && (c.sent.getD []).contains k then
          { c with sent := if ((c.sent.getD []).filter (· != k)).isEmpty then none else some ((c.sent.getD []).filter (· != k)) } else c })) := by
  refine ⟨fun hge => answers_of_err h rfl (if_pos hge), fun hlt => ⟨fun hoff => answers_of_err h rfl ?_, fun hon => takesUp_of_later h rfl ?_⟩⟩ <;>
    refine (if_neg (Nat.not_le.mpr hlt)).trans ?_
  · exact if_pos (List.contains_iff_mem.mpr hoff)
  · exact if_neg (mt List.contains_iff_mem.mp hon)

theorem coreon_answers (h : Asked s die 1 20 8 d req) : (Config.cores (isDie die) ≤ natAt req 8 8 → Answers (.coreon die) s die 1 2 [] s) ∧
    (natAt req 8 8 < Config.cores (isDie die) → Answers (.coreon die) s die 1 0 [] (s.updDie die fun d => { d with coresOff := d.coresOff.filter (· != natAt req 8 8) })) :=
  ⟨fun hge => answers_of_err h rfl (if_pos hge), fun hlt => answers_of_done h rfl (if_neg (Nat.not_le.mpr hlt))⟩

/-! Tile slots (R147, R263) -/

section
variable (h : Asked s die 2 32 16 d req)
include h

theorem tilemem_noContext (hno : s.ctx? die (natAt req 8 8) = none) : Answers (.tilemem die) s die 2 2 [] s :=
  answers_of_err h rfl (if_pos (by rw [fieldAt, hno]; rfl))

theorem tilemem_inPass (hc : s.ctx? die (natAt req 8 8) ≠ none) (hg : ∃ g, s.gfx? die (natAt req 8 8) = some g ∧ g.pass.isSome = true) :
    Answers (.tilemem die) s die 2 4 [] s := by
  obtain ⟨g, hg, hpass⟩ := hg
  refine answers_of_err h rfl ((if_neg ?_).trans (if_pos ?_))
  · rw [fieldAt, Option.isNone_iff_eq_none]
    exact hc
  · rw [fieldAt, hg]
    exact hpass

theorem tilemem_sets (hc : s.ctx? die (natAt req 8 8) ≠ none) (hg : ∀ g, s.gfx? die (natAt req 8 8) = some g → g.pass = none)
    (hfits : natAt req 16 8 * 16384 + 65536 ≤ Config.sliceBytes (isDie die)) : let v := s.updCtx die (natAt req 8 8) fun c => { c with tileSlots := natAt req 16 8 }
    Answers (.tilemem die) s die 2 0 [] { v with cores := v.cores.map fun k => if k.die == die then
      { k with regions := k.regions.filter fun r => !(r.kind == .tile && r.ctx == natAt req 8 8) } else k } := by
  refine answers_of_done h rfl ((if_neg ?_).trans ((if_neg ?_).trans (if_neg ?_)))
  · rw [fieldAt, Option.isNone_iff_eq_none]
    exact hc
  · rw [fieldAt, Option.any_eq_true]
    rintro ⟨g, hmem, hpass⟩
    rw [hg g hmem] at hpass
    cases hpass
  · exact Nat.not_lt.mpr hfits

end

/-! The error ring and lost lines (R171, R321, R475, R476, R482) -/

/-- R482: an error ring has 64 to 65,536 records, a power of two. -/
theorem ringCount_iff (c : Nat) : (64 ≤ c ∧ c ≤ 65536 ∧ c = 2 ^ Nat.log2 c) ↔ ∃ k ∈ [6, 7, 8, 9, 10, 11, 12, 13, 14, 15, 16], c = 2 ^ k := by
  constructor
  · rintro ⟨hlow, hhigh, hpow⟩
    refine ⟨c.log2, ?_, hpow⟩
    rw [hpow] at hlow hhigh
    have h6 : 6 ≤ c.log2 := (Nat.pow_le_pow_iff_right (a := 2) (by decide)).mp hlow
    have h16 : c.log2 ≤ 16 := (Nat.pow_le_pow_iff_right (a := 2) (by decide)).mp hhigh
    simp only [List.mem_cons, List.not_mem_nil, or_false]
    omega
  · rintro ⟨k, hk, rfl⟩
    rw [Nat.log2_two_pow]
    revert k
    decide

theorem errring_answers (h : Asked s die 4 64 16 d req) : let ok := natAt req 8 8 % 64 = 0 ∧ ∃ k ∈ [6, 7, 8, 9, 10, 11, 12, 13, 14, 15, 16], natAt req 16 8 = 2 ^ k
    (¬ ok → Answers (.errring die) s die 4 2 [] s) ∧ (ok → let v := s.updDie die fun d => { d with errRing := some (natAt req 8 8, natAt req 16 8), errProd := 0 }
      Answers (.errring die) s die 4 0 [] { v with dirs := v.dirs.map fun e => if e.key / 2 ^ 52 == die then { e with errIdx := none } else e }) := by
  intro ok
  have hok : (natAt req 8 8 % 64 != 0 || decide (natAt req 16 8 < 64) || decide (65536 < natAt req 16 8) || natAt req 16 8 != 2 ^ Nat.log2 (natAt req 16 8)) = true ↔ ¬ ok := by
    simp only [ok, ← ringCount_iff, Bool.or_eq_true, bne_iff_ne, decide_eq_true_eq]
    omega
  exact ⟨fun hbad => answers_of_err h rfl (if_pos (hok.mpr hbad)), fun hgood => answers_of_done h rfl (if_neg fun hbad => hok.mp hbad hgood)⟩

/-- The fields of a RECLAIM that are out of range, as the function tests them. -/
theorem reclaimBad_iff (pa fill size : Nat) : (pa % 64 != 0 || decide (size ≤ pa) || decide (1 < fill)) = true ↔ pa % 64 ≠ 0 ∨ size ≤ pa ∨ 1 < fill := by
  simp only [Bool.or_eq_true, bne_iff_ne, decide_eq_true_eq, or_assoc]

section
variable (h : Asked s die 4 65 9 d req)
include h

theorem reclaim_refused (hbad : natAt req 8 8 % 64 ≠ 0 ∨ Config.memoryBytes (isDie die) ≤ natAt req 8 8 ∨ 1 < natAt req 16 1) : Answers (.reclaim die) s die 4 2 [] s :=
  answers_of_err h rfl (if_pos ((reclaimBad_iff _ _ _).mpr hbad))

/-- A lost line set free: the line is shared by none and no longer poisoned, and zeros where a fill is asked for (R171). -/
def State.lineFreed (s : State) (key : Nat) (e : DirEntry) (fill : Nat) : State :=
  let v : State := { s.setDir key (some { e with st := .shared [] }) with poison := s.poison.filter (· != key) }
  if fill = 1 then v.putHome key (List.replicate 64 0) else v

/-- The error record of a lost line marked as reclaimed, while it still stands in the ring (R482). -/
def State.lossMarked (s : State) (d : Die) (e : DirEntry) : State :=
  let mark (i a c : Nat) : State := let k := physKey 3 (a + 64 + 64 * (i % c) + 62); s.putHome k [Memory.get s.mem k ||| 1]
  match e.errIdx, d.errRing with
  | some i, some (a, c) => if (d.errProd + 2 ^ 64 - i) % 2 ^ 64 ≤ c then mark i a c else s
  | _, _ => s

section
variable (ha : natAt req 8 8 % 64 = 0) (hm : natAt req 8 8 < Config.memoryBytes (isDie die)) (hf : natAt req 16 1 ≤ 1)
include ha hm hf

theorem reclaim_noEntry (he : s.dirs.find? (·.key == physKey die (natAt req 8 8)) = none) : Answers (.reclaim die) s die 4 4 [] s := by
  refine answers_of_err h rfl ((if_neg (mt (reclaimBad_iff (natAt req 8 8) (natAt req 16 1) _).mp (by omega))).trans ?_)
  simp only [fieldAt, he]

variable {e : DirEntry} (he : s.dirs.find? (·.key == physKey die (natAt req 8 8)) = some e)
include he

theorem reclaim_notLost (hst : e.st ≠ .ownerLost) : Answers (.reclaim die) s die 4 4 [] s := by
  refine answers_of_err h rfl ((if_neg (mt (reclaimBad_iff (natAt req 8 8) (natAt req 16 1) _).mp (by omega))).trans ?_)
  simp only [fieldAt, he]
  exact if_pos (bne_iff_ne.mpr hst)

theorem reclaim_frees (hst : e.st = .ownerLost) : Answers (.reclaim die) s die 4 0 (bytesLE 4 e.writes ++ bytesLE 4 e.returns)
    ((s.lineFreed (physKey die (natAt req 8 8)) e (natAt req 16 1)).lossMarked d e) := by
  have hkey : e.key = physKey die (natAt req 8 8) := by simpa using List.find?_some he
  refine answers_of_done h rfl ((if_neg (mt (reclaimBad_iff (natAt req 8 8) (natAt req 16 1) _).mp (by omega))).trans ?_)
  simp only [fieldAt, he, hst, bne_self_eq_false, Bool.false_eq_true, if_false, beq_iff_eq]
  rw [← hkey]
  rfl

end
end

/-! Docking and links (R169, R303, R307, R316, R331) -/

/-- A granary that is empty or ends beyond the memory, as GRANARY tests it. -/
theorem granaryBad_iff (a z size : Nat) : (z == 0 || decide (size < a + z)) = true ↔ z = 0 ∨ size < a + z := by
  simp only [Bool.or_eq_true, beq_iff_eq, decide_eq_true_eq]

theorem granary_answers (h : Asked s 0 5 80 16 d req) :
    (natAt req 16 8 = 0 ∨ Config.memoryBytes false < natAt req 8 8 + natAt req 16 8 → Answers (.granary 0) s 0 5 2 [] s) ∧
    (natAt req 16 8 ≠ 0 → natAt req 8 8 + natAt req 16 8 ≤ Config.memoryBytes false →
      Answers (.granary 0) s 0 5 0 [] (s.updDie 0 fun d => { d with granary := some (natAt req 8 8, natAt req 16 8) })) :=
  ⟨fun hbad => answers_of_err h rfl (if_pos ((granaryBad_iff _ _ _).mpr hbad)), fun hz hle => answers_of_done h rfl (if_neg (mt (granaryBad_iff (natAt req 8 8) (natAt req 16 8) _).mp (by omega)))⟩

/-- A D has no granary (R321). -/
theorem granary_onD (h : Asked s die 5 80 16 d req) (hdie : die ≠ 0) : Answers (.granary die) s die 5 1 [] s := by
  simp only [Answers, exec, execGranary, bne_iff_ne, ne_eq, hdie, not_false_iff, if_true, request_of_asked h]

theorem undock_answers (h : Asked s die 5 81 0 d req) : (d.dock ≠ .docked → Answers (.undock die) s die 5 4 [] s) ∧ (d.dock = .docked →
    ((∃ c ∈ s.ctxs, c.die ∈ beyond die ∧ c.ckpt = 1) → TakesUp (.undock die) s die 5 [81] s) ∧
    ((∀ c ∈ s.ctxs, c.die ∈ beyond die → c.ckpt ≠ 1) → Answers (.undock die) s die 5 0 [] (s.beginUndock die))) := by
  refine ⟨fun hd => answers_of_err h rfl (if_pos (by simpa using hd)), fun hd => ⟨fun hck => takesUp_of_later h rfl ?_, fun hck => answers_of_done h rfl ?_⟩⟩ <;>
    refine (if_neg (by simp [hd])).trans ?_
  · exact if_pos (by simpa using hck)
  · exact if_neg (by simpa using hck)

theorem linkretrain_answers (h : Asked s die 5 82 8 d req) : Answers (.linkretrain die) s die 5 0 [] s.replayDirs := answers_of_done h rfl (by rfl)

/-! Clocks, channels and power (R321, R331, R332) -/

/-- P's clock has no cap (R321). -/
theorem clockcap_onP (h : Asked s 0 6 96 8 d req) : Answers (.clockcap 0) s 0 6 1 [] s := by
  simp only [Answers, exec, execClockcap, beq_self_eq_true, if_true, request_of_asked h]

theorem clockcap_onD (h : Asked s die 6 96 8 d req) (hdie : die ≠ 0) : let f := natAt req 8 8
    let ok := 400 ≤ f ∧ f ≤ 1200 ∧ f % 50 = 0
    (¬ ok → Answers (.clockcap die) s die 6 2 [] s) ∧ (ok → Answers (.clockcap die) s die 6 0 [] (s.updDie die fun d => { d with clockCap := f })) := by
  intro f ok
  have hserve : exec (.clockcap die) s = s.serve die 6 96 8 fun _ req =>
      if fieldAt req 0 < 400 || 1200 < fieldAt req 0 || fieldAt req 0 % 50 != 0 then .err 2 else .done [] (s.updDie die fun d => { d with clockCap := fieldAt req 0 }) :=
    if_neg (by simpa using hdie)
  have hok : (decide (f < 400) || decide (1200 < f) || f % 50 != 0) = true ↔ ¬ ok := by
    simp only [ok, Bool.or_eq_true, bne_iff_ne, decide_eq_true_eq]
    omega
  exact ⟨fun hbad => answers_of_err h hserve (if_pos (hok.mpr hbad)), fun hgood => answers_of_done h hserve (if_neg fun hbad => hok.mp hbad hgood)⟩

theorem chanretrain_answers (h : Asked s die 6 97 8 d req) :
    (natAt req 8 8 < 16 → Answers (.chanretrain die) s die 6 0 [] s) ∧ (16 ≤ natAt req 8 8 → Answers (.chanretrain die) s die 6 2 [] s) :=
  ⟨fun hlt => answers_of_done h rfl (if_neg (Nat.not_le.mpr hlt)), fun hge => answers_of_err h rfl (if_pos hge)⟩

theorem powercap_answers (h : Asked s die 6 98 8 d req) : let w := natAt req 8 8
    let ok := if die = 0 then w = 20 else 150 ≤ w ∧ w ≤ 650
    (ok → Answers (.powercap die) s die 6 0 [] (s.updDie die fun d => { d with powerCap := w })) ∧ (¬ ok → Answers (.powercap die) s die 6 2 [] s) := by
  intro w ok
  have hok : (if die == 0 then w == 20 else decide (150 ≤ w) && decide (w ≤ 650)) = true ↔ ok := by
    by_cases hdie : die = 0 <;> simp [ok, hdie]
  exact ⟨fun hgood => answers_of_done h rfl (if_pos (hok.mpr hgood)), fun hbad => answers_of_err h rfl (if_neg (mt hok.mp hbad))⟩

/-! Attestation and reload (R329, R330) -/

theorem attest_answers (h : Asked s die 7 112 16 d req) : let body := d.report (s.hostBytes (natAt req 8 8) 32)
    Answers (.attest die) s die 7 0 (bytesLE 8 (body ++ Config.ecdsaSign d.code body).length) (s.putHome (physKey 3 (natAt req 16 8)) (body ++ Config.ecdsaSign d.code body)) :=
  answers_of_done h rfl (by rfl)

/-- Core 5 is not reloaded while its dock changes or it takes part in a migration or a checkpoint (R330). -/
def State.reloadBusy (s : State) (die : Nat) (d : Die) (core : Nat) : Prop :=
  core = 5 ∧ ((d.dock ≠ .undocked ∧ d.dock ≠ .docked) ∨ s.linkBusy die = true)

theorem reload_answers (h : Asked s die 7 113 24 d req) : let bs := s.hostBytes (natAt req 16 8) (natAt req 24 8)
    let core := natAt req 8 8
    (8 ≤ core → Answers (.reload die) s die 7 2 [] s) ∧ (core = 7 → Answers (.reload die) s die 7 5 [] s) ∧ (s.reloadBusy die d core → Answers (.reload die) s die 7 4 [] s) ∧
    (core < 7 → ¬ s.reloadBusy die d core → (reloadOk d core bs = false → Answers (.reload die) s die 7 5 [] s) ∧
      (reloadOk d core bs = true → let place := d.carveBase + Memory.readNat s.mem (physKey die (d.carveBase + 520 + 96 * core)) 8
        TakesUp (.reload die) s die 7 [113] ((s.putHome (physKey die place) (bs.drop 4096)).updDie die fun d =>
          { d with stopped := some (core, natAt bs 4 4, Config.sha512 (bs.drop 4096)) }))) := by
  intro bs core
  have hbusy : (core == 5 && ((d.dock != .undocked && d.dock != .docked) || s.linkBusy die)) = true ↔ s.reloadBusy die d core := by
    simp [State.reloadBusy]
  refine ⟨fun hge => answers_of_err h rfl (if_pos hge), fun h7 => answers_of_err h rfl ?_, fun hb => answers_of_err h rfl ?_, fun hlt hfree =>
    ⟨fun hbad => answers_of_err h rfl ?_, fun hgood => takesUp_of_later h rfl ?_⟩⟩
  · exact (if_neg (show ¬ 8 ≤ core by omega)).trans (if_pos (beq_iff_eq.mpr h7))
  · have h5 : core = 5 := hb.1
    exact (if_neg (show ¬ 8 ≤ core by omega)).trans ((if_neg (show ¬ (core == 7) = true by rw [beq_iff_eq]; omega)).trans (if_pos (hbusy.mpr hb)))
  all_goals
    have h8 : ¬ 8 ≤ core := by omega
    have h7 : ¬ (core == 7) = true := by simpa using Nat.ne_of_lt hlt
    refine (if_neg h8).trans ((if_neg h7).trans ((if_neg (mt hbusy.mp hfree)).trans ?_))
  · exact if_pos (by rw [Bool.not_eq_true']; exact hbad)
  · exact if_neg (by rw [Bool.not_eq_true', Bool.not_eq_false]; exact hgood)

end

/-- Settles O52: each function by the lemma on its clause, CTXCREATE through the context that its draws make. -/
theorem mailboxServesTheDie : Obligations.MailboxServesTheDie := by
  unfold Obligations.MailboxServesTheDie
  refine ⟨?ctxcreate, ?others⟩
  case ctxcreate =>
    intro s s1 s2 s3 die dr num load d req es h
    refine ⟨ctxcreate_refused h, fun hb hn h1 h2 h3 => ?_⟩
    have hnew := ctxcreate_fresh h2 h3
    exact ⟨fun hfull => ctxcreate_drawn h hb hn h1 h2 h3 (createContext_noRoom hfull),
      fun s4 hlen hph hr => ctxcreate_drawn h hb hn h1 h2 h3 (createContext_ready hlen hph hnew hr),
      fun s4 hlen hph hr => ctxcreate_drawn h hb hn h1 h2 h3 (createContext_waits hlen hph hnew hr)⟩
  case others =>
    intro s die d req
    refine ⟨ctxdestroy_answers, fun h => ⟨vacate_refused h, fun c => vacate_answers h⟩, coreoff_answers, coreon_answers,
      fun h => ⟨tilemem_noContext h, fun hc => ⟨tilemem_inPass h hc, tilemem_sets h hc⟩⟩, errring_answers, fun h => ⟨reclaim_refused h, fun ha hm hf =>
        ⟨reclaim_noEntry h ha hm hf, fun e he => ⟨reclaim_notLost h ha hm hf he, reclaim_frees h ha hm hf he⟩⟩⟩,
      fun h hdie => ?granary, granary_onD, undock_answers, linkretrain_answers, fun h => ⟨fun hdie => ?clockcap, clockcap_onD h⟩, chanretrain_answers, powercap_answers,
      attest_answers, reload_answers⟩
    case granary =>
      subst hdie
      exact granary_answers h
    case clockcap =>
      subst hdie
      exact clockcap_onP h

end Sys2Proof.Machine
